-- ==== Sys2Proof/Word.lean ====
section
/-! DEFINITION. The word types of the GX8 and their plainest arithmetic (spec 00, R1 to R5, R9). -/

namespace Sys2Proof

/-- A byte (R4). -/
abbrev Byte := BitVec 8
/-- A half (R4). -/
abbrev Half := BitVec 16
/-- A word (R4): the width of a general register and of an instruction word. -/
abbrev Word := BitVec 32
/-- A double (R4): a register pair, even register low (R3). -/
abbrev Dword := BitVec 64

/-- R3: the double held by an even register `lo` and its odd successor `hi`. -/
def dwordOf (lo hi : Word) : Dword := hi ++ lo
/-- R3: the even register's half of a double. -/
def dlo (x : Dword) : Word := x.setWidth 32
/-- R3: the odd register's half of a double. -/
def dhi (x : Dword) : Word := (x >>> 32).setWidth 32

/-- R1, R9: bits [hi:lo] of a natural number, as a natural number. -/
def nbits (x hi lo : Nat) : Nat := (x / 2 ^ lo) % 2 ^ (hi + 1 - lo)

/-- Bit `i` of a natural number. -/
def nbit (x i : Nat) : Bool := (x / 2 ^ i) % 2 == 1

/-- Ceiling division. -/
def cdiv (a b : Nat) : Nat := (a + b - 1) / b

/-- R9: the signed integer of the low `n` bits of `x`. -/
def sextNat (x n : Nat) : Int :=
  let y := x % 2 ^ n
  if y < 2 ^ (n - 1) then (y : Int) else (y : Int) - (2 ^ n : Nat)

end Sys2Proof
end

