-- ==== Sys2Proof/Syntax.lean ====
section
/-! DEFINITION. The instructions: one constructor of `Instr` per row of the opcode table. The rows with a source
mnemonic are words of the Scakel ISA (spec 09 to 12, 16); the others are the command registers and events of the part
(spec 95), whose arguments name the unit the event happens to and the data the outside world brings. -/

namespace Sys2Proof

/-- R215: the chain bit and the guard that every word but SEL carries (R229: SEL uses the guard field as selector). -/
structure Hdr where
  c : Bool
  g : BitVec 2
  deriving DecidableEq, Repr

/-- R230: signed packet offset. -/
structure OpBr where
  off : BitVec 22
  deriving DecidableEq, Repr

/-- R231: count minus one, predicates and offsets. -/
structure OpBrm where
  cnt : BitVec 2
  p0 : BitVec 5
  p1 : BitVec 5
  p2 : BitVec 5
  p3 : BitVec 5
  o0 : BitVec 16
  o1 : BitVec 16
  o2 : BitVec 16
  o3 : BitVec 16
  deriving DecidableEq, Repr

/-- R235: one operand code in A. -/
structure OpA where
  a : BitVec 7
  deriving DecidableEq, Repr

/-- R235: one operand code in D. -/
structure OpD where
  d : BitVec 7
  deriving DecidableEq, Repr

/-- R235: D and A. -/
structure OpDA where
  d : BitVec 7
  a : BitVec 7
  deriving DecidableEq, Repr

/-- R232: destination and the constant of the next word. -/
structure OpLit where
  d : BitVec 7
  k : Word
  deriving DecidableEq, Repr

/-- R257: trap code. -/
structure OpTrap where
  code : BitVec 7
  deriving DecidableEq, Repr

/-- R259: source code and hitch register. -/
structure OpHset where
  a : BitVec 7
  hitch : BitVec 4
  deriving DecidableEq, Repr

/-- R260: hitch register. -/
structure OpHitch where
  hitch : BitVec 4
  deriving DecidableEq, Repr

/-- R263: quad and scope. -/
structure OpWait where
  a : BitVec 7
  scope : BitVec 3
  deriving DecidableEq, Repr

/-- R264: promise pair, quad and scope. -/
structure OpWaitP where
  d : BitVec 7
  a : BitVec 7
  scope : BitVec 3
  deriving DecidableEq, Repr

/-- R226, format RR (and SL): D, A, B and N. -/
structure OpRR where
  n : Bool
  d : BitVec 7
  a : BitVec 7
  b : BitVec 7
  deriving DecidableEq, Repr

/-- R226, format RRD: D is also a source. -/
structure OpRRD where
  n : Bool
  d : BitVec 7
  a : BitVec 7
  b : BitVec 7
  deriving DecidableEq, Repr

/-- R226, format RI: imm7. -/
structure OpRI where
  n : Bool
  d : BitVec 7
  a : BitVec 7
  imm : BitVec 7
  deriving DecidableEq, Repr

/-- R267: shift amount. -/
structure OpSh where
  n : Bool
  d : BitVec 7
  a : BitVec 7
  amt : BitVec 5
  deriving DecidableEq, Repr

/-- R226, format I14. -/
structure OpI14 where
  n : Bool
  d : BitVec 7
  imm : BitVec 14
  deriving DecidableEq, Repr

/-- R226, format RF: D and A; fn7 is in the constructor. -/
structure OpRF where
  n : Bool
  d : BitVec 7
  a : BitVec 7
  deriving DecidableEq, Repr

/-- R274, P2V: D. -/
structure OpND where
  n : Bool
  d : BitVec 7
  deriving DecidableEq, Repr

/-- R227, format CP. -/
structure OpCP where
  cond : BitVec 2
  pd : BitVec 5
  a : BitVec 7
  b : BitVec 7
  deriving DecidableEq, Repr

/-- R228, format PL. -/
structure OpPL where
  pd : BitVec 5
  pa : BitVec 5
  pb : BitVec 5
  tbl : BitVec 4
  deriving DecidableEq, Repr

/-- R239, CVT. -/
structure OpCvt where
  n : Bool
  d : BitVec 7
  a : BitVec 7
  src : BitVec 3
  dst : BitVec 3
  rz : Bool
  deriving DecidableEq, Repr

/-- R291, VOTE ALL and ANY. -/
structure OpVoteP where
  pd : BitVec 5
  ps : BitVec 5
  deriving DecidableEq, Repr

/-- R291, VOTE BALLOT. -/
structure OpVoteB where
  d : BitVec 7
  ps : BitVec 5
  deriving DecidableEq, Repr

/-- R291, VOTE EQ. -/
structure OpVoteE where
  pd : BitVec 5
  a : BitVec 7
  deriving DecidableEq, Repr

/-- R293: stage. -/
structure OpHb where
  n : Bool
  d : BitVec 7
  a : BitVec 7
  stage : BitVec 3
  deriving DecidableEq, Repr

/-- R294: pair and format code. -/
structure OpUnpk where
  n : Bool
  d : BitVec 7
  a : BitVec 7
  pair : BitVec 2
  fmt : BitVec 4
  deriving DecidableEq, Repr

/-- R233, format MA. -/
structure OpMA where
  w : Bool
  d : BitVec 7
  a : BitVec 7
  hint : BitVec 2
  off : BitVec 5
  deriving DecidableEq, Repr

/-- R302: scratchpad access. -/
structure OpS where
  d : BitVec 7
  a : BitVec 7
  off : BitVec 5
  deriving DecidableEq, Repr

/-- R303. -/
structure OpPf where
  w : Bool
  a : BitVec 7
  hint : BitVec 2
  off : BitVec 5
  deriving DecidableEq, Repr

/-- R234, ATOM. -/
structure OpAT where
  w : Bool
  d : BitVec 7
  a : BitVec 7
  scope : BitVec 3
  deriving DecidableEq, Repr

/-- R234, ATOMS.32. -/
structure OpATS where
  d : BitVec 7
  a : BitVec 7
  scope : BitVec 3
  deriving DecidableEq, Repr

/-- R306: scope. -/
structure OpScope where
  scope : BitVec 3
  deriving DecidableEq, Repr

/-- R308: length register and base. -/
structure OpFlush where
  w : Bool
  d : BitVec 7
  a : BitVec 7
  deriving DecidableEq, Repr

/-- R343, R345: descriptor, hitch register and tile. -/
structure OpEnA where
  a : BitVec 7
  hitch : BitVec 4
  q : BitVec 3
  deriving DecidableEq, Repr

/-- R350, R351: promise pair, descriptor, hitch register and queue. -/
structure OpEn where
  d : BitVec 7
  a : BitVec 7
  hitch : BitVec 4
  q : BitVec 3
  deriving DecidableEq, Repr

/-- R355: promise pair, descriptor, hitch register and splice queue. -/
structure OpEnS where
  d : BitVec 7
  a : BitVec 7
  hitch : BitVec 4
  q : BitVec 2
  deriving DecidableEq, Repr

/-- R357: descriptor pair and hitch register. -/
structure OpEnN where
  a : BitVec 7
  hitch : BitVec 4
  deriving DecidableEq, Repr

/-- R347: D, A and tile. -/
structure OpDAQ where
  d : BitVec 7
  a : BitVec 7
  q : BitVec 3
  deriving DecidableEq, Repr

/-- R348: D quad and tile. -/
structure OpDQ where
  d : BitVec 7
  q : BitVec 3
  deriving DecidableEq, Repr

/-- R353: pair and stream. -/
structure OpAQ where
  a : BitVec 7
  q : BitVec 3
  deriving DecidableEq, Repr

/-- R358, MAC. -/
structure OpNbMac where
  a : BitVec 7
  all : Bool
  clr : Bool
  fb : Bool
  deriving DecidableEq, Repr

/-- R358, BCST. -/
structure OpNbBcst where
  d : BitVec 7
  a : BitVec 7
  all : Bool
  deriving DecidableEq, Repr

/-- R358, RDAC. -/
structure OpNbRdac where
  d : BitVec 7
  a : BitVec 7
  clr : Bool
  fb : Bool
  deriving DecidableEq, Repr

/-- R358, LMAC. -/
structure OpNbLmac where
  tb : BitVec 2
  a : BitVec 7
  clr : Bool
  deriving DecidableEq, Repr

/-- R361. -/
structure OpCnt where
  w : Bool
  d : BitVec 7
  a : BitVec 7
  scope : BitVec 3
  deriving DecidableEq, Repr

/-- R235: system register number. -/
structure OpSys where
  d : BitVec 7
  num : BitVec 14
  deriving DecidableEq, Repr

/-- Who writes a command register (R364): the host over CXL.io, or a privileged thread of partition `p`. -/
inductive Who where
  | host
  | part (p : Nat)
  deriving DecidableEq, Repr

/-- R459: the storage an error strikes. -/
inductive ErrSite where
  | instrCache (unit : Nat)
  | regFile (wg t r : Nat)
  | scratch (core off : Nat)
  | accumulator (cluster tile row col : Nat)
  | matrixTable (cluster : Nat)
  | l1 (core line : Nat)
  | l2 (die line : Nat)
  | msc (stack block : Nat)
  | dram (stack spa : Nat)
  | shadow (part wg : Nat)
  deriving DecidableEq, Repr

/-- One constructor per row of the opcode table. -/
inductive Instr where
  | nop (h : Hdr)
  | br (h : Hdr) (o : OpBr)
  | call (h : Hdr) (o : OpBr)
  | brm (h : Hdr) (o : OpBrm)
  | jmpr (h : Hdr) (o : OpA)
  | callr (h : Hdr) (o : OpDA)
  | exit (h : Hdr)
  | lit32 (h : Hdr) (o : OpLit)
  | trap (h : Hdr) (o : OpTrap)
  | yieldTurn (h : Hdr)
  | hset (h : Hdr) (o : OpHset)
  | rejoin (h : Hdr) (o : OpHitch)
  | bar (h : Hdr)
  | sleep (h : Hdr) (o : OpA)
  | waitge (h : Hdr) (o : OpWait)
  | waitp (h : Hdr) (o : OpWaitP)
  | iadd (h : Hdr) (o : OpRR)
  | isub (h : Hdr) (o : OpRR)
  | imul (h : Hdr) (o : OpRR)
  | imulhiI (h : Hdr) (o : OpRR)
  | imulhiN (h : Hdr) (o : OpRR)
  | imad (h : Hdr) (o : OpRRD)
  | iminI (h : Hdr) (o : OpRR)
  | imaxI (h : Hdr) (o : OpRR)
  | iminN (h : Hdr) (o : OpRR)
  | imaxN (h : Hdr) (o : OpRR)
  | land (h : Hdr) (o : OpRR)
  | lor (h : Hdr) (o : OpRR)
  | lxor (h : Hdr) (o : OpRR)
  | shl (h : Hdr) (o : OpRR)
  | shr (h : Hdr) (o : OpRR)
  | sar (h : Hdr) (o : OpRR)
  | iaddi (h : Hdr) (o : OpRI)
  | andi (h : Hdr) (o : OpRI)
  | ori (h : Hdr) (o : OpRI)
  | xori (h : Hdr) (o : OpRI)
  | shli (h : Hdr) (o : OpSh)
  | shri (h : Hdr) (o : OpSh)
  | sari (h : Hdr) (o : OpSh)
  | movi (h : Hdr) (o : OpI14)
  | iadd64 (h : Hdr) (o : OpRR)
  | addx64 (h : Hdr) (o : OpRR)
  | isetpI (h : Hdr) (o : OpCP)
  | isetpN (h : Hdr) (o : OpCP)
  | sel (h : Hdr) (o : OpRR)
  | plop (h : Hdr) (o : OpPL)
  | p2v (h : Hdr) (o : OpND)
  | v2p (h : Hdr) (o : OpA)
  | popc (h : Hdr) (o : OpRF)
  | clz (h : Hdr) (o : OpRF)
  | brev (h : Hdr) (o : OpRF)
  | ctz (h : Hdr) (o : OpRF)
  | lnot (h : Hdr) (o : OpRF)
  | neg (h : Hdr) (o : OpRF)
  | abs (h : Hdr) (o : OpRF)
  | bswz (h : Hdr) (o : OpRRD)
  | fadd (h : Hdr) (o : OpRR)
  | fsub (h : Hdr) (o : OpRR)
  | fmul (h : Hdr) (o : OpRR)
  | ffma (h : Hdr) (o : OpRRD)
  | fmin (h : Hdr) (o : OpRR)
  | fmax (h : Hdr) (o : OpRR)
  | fdiv (h : Hdr) (o : OpRR)
  | fsetp (h : Hdr) (o : OpCP)
  | fabs (h : Hdr) (o : OpRF)
  | fneg (h : Hdr) (o : OpRF)
  | ffloor (h : Hdr) (o : OpRF)
  | fceil (h : Hdr) (o : OpRF)
  | ftrunc (h : Hdr) (o : OpRF)
  | frint (h : Hdr) (o : OpRF)
  | hadd2Bf16 (h : Hdr) (o : OpRR)
  | hadd2F16 (h : Hdr) (o : OpRR)
  | hmul2Bf16 (h : Hdr) (o : OpRR)
  | hmul2F16 (h : Hdr) (o : OpRR)
  | hfma2Bf16 (h : Hdr) (o : OpRRD)
  | hfma2F16 (h : Hdr) (o : OpRRD)
  | hminmax2Bf16 (h : Hdr) (o : OpRR)
  | hminmax2F16 (h : Hdr) (o : OpRR)
  | cvt (h : Hdr) (o : OpCvt)
  | gqcvtQ (h : Hdr) (o : OpRR)
  | gqcvtF (h : Hdr) (o : OpRR)
  | rcp (h : Hdr) (o : OpRF)
  | rsqrt (h : Hdr) (o : OpRF)
  | sqrt (h : Hdr) (o : OpRF)
  | ex2 (h : Hdr) (o : OpRF)
  | lg2 (h : Hdr) (o : OpRF)
  | sin (h : Hdr) (o : OpRF)
  | cos (h : Hdr) (o : OpRF)
  | tanh (h : Hdr) (o : OpRF)
  | shflIdx (h : Hdr) (o : OpRR)
  | shflXor (h : Hdr) (o : OpRR)
  | shflUp (h : Hdr) (o : OpRR)
  | shflDn (h : Hdr) (o : OpRR)
  | voteAll (h : Hdr) (o : OpVoteP)
  | voteAny (h : Hdr) (o : OpVoteP)
  | voteBallot (h : Hdr) (o : OpVoteB)
  | voteEq (h : Hdr) (o : OpVoteE)
  | reduxAdd (h : Hdr) (o : OpRF)
  | reduxMinI (h : Hdr) (o : OpRF)
  | reduxMaxI (h : Hdr) (o : OpRF)
  | reduxMinN (h : Hdr) (o : OpRF)
  | reduxMaxN (h : Hdr) (o : OpRF)
  | reduxAnd (h : Hdr) (o : OpRF)
  | reduxOr (h : Hdr) (o : OpRF)
  | reduxXor (h : Hdr) (o : OpRF)
  | reduxFmin (h : Hdr) (o : OpRF)
  | reduxFmax (h : Hdr) (o : OpRF)
  | hbfly (h : Hdr) (o : OpHb)
  | unpk (h : Hdr) (o : OpUnpk)
  | cbld (h : Hdr) (o : OpA)
  | qmap (h : Hdr) (o : OpDA)
  | clkrd (h : Hdr) (o : OpD)
  | ld8s (h : Hdr) (o : OpMA)
  | ld8z (h : Hdr) (o : OpMA)
  | ld16s (h : Hdr) (o : OpMA)
  | ld16z (h : Hdr) (o : OpMA)
  | ld32 (h : Hdr) (o : OpMA)
  | ld64 (h : Hdr) (o : OpMA)
  | ld128 (h : Hdr) (o : OpMA)
  | st8 (h : Hdr) (o : OpMA)
  | st16 (h : Hdr) (o : OpMA)
  | st32 (h : Hdr) (o : OpMA)
  | st64 (h : Hdr) (o : OpMA)
  | st128 (h : Hdr) (o : OpMA)
  | lds32 (h : Hdr) (o : OpS)
  | lds64 (h : Hdr) (o : OpS)
  | lds128 (h : Hdr) (o : OpS)
  | sts32 (h : Hdr) (o : OpS)
  | sts64 (h : Hdr) (o : OpS)
  | sts128 (h : Hdr) (o : OpS)
  | prefetch (h : Hdr) (o : OpPf)
  | atom32Add (h : Hdr) (o : OpAT)
  | atom32And (h : Hdr) (o : OpAT)
  | atom32Or (h : Hdr) (o : OpAT)
  | atom32Xor (h : Hdr) (o : OpAT)
  | atom32MinI (h : Hdr) (o : OpAT)
  | atom32MaxI (h : Hdr) (o : OpAT)
  | atom32MinN (h : Hdr) (o : OpAT)
  | atom32MaxN (h : Hdr) (o : OpAT)
  | atom32Exch (h : Hdr) (o : OpAT)
  | atom32Cas (h : Hdr) (o : OpAT)
  | atom32Fadd (h : Hdr) (o : OpAT)
  | atom32Fmin (h : Hdr) (o : OpAT)
  | atom32Fmax (h : Hdr) (o : OpAT)
  | atom64Add (h : Hdr) (o : OpAT)
  | atom64And (h : Hdr) (o : OpAT)
  | atom64Or (h : Hdr) (o : OpAT)
  | atom64Xor (h : Hdr) (o : OpAT)
  | atom64MinI (h : Hdr) (o : OpAT)
  | atom64MaxI (h : Hdr) (o : OpAT)
  | atom64MinN (h : Hdr) (o : OpAT)
  | atom64MaxN (h : Hdr) (o : OpAT)
  | atom64Exch (h : Hdr) (o : OpAT)
  | atom64Cas (h : Hdr) (o : OpAT)
  | atoms32Add (h : Hdr) (o : OpATS)
  | atoms32And (h : Hdr) (o : OpATS)
  | atoms32Or (h : Hdr) (o : OpATS)
  | atoms32Xor (h : Hdr) (o : OpATS)
  | atoms32MinI (h : Hdr) (o : OpATS)
  | atoms32MaxI (h : Hdr) (o : OpATS)
  | atoms32MinN (h : Hdr) (o : OpATS)
  | atoms32MaxN (h : Hdr) (o : OpATS)
  | atoms32Exch (h : Hdr) (o : OpATS)
  | atoms32Cas (h : Hdr) (o : OpATS)
  | atoms32Fadd (h : Hdr) (o : OpATS)
  | atoms32Fmin (h : Hdr) (o : OpATS)
  | atoms32Fmax (h : Hdr) (o : OpATS)
  | fenceAcq (h : Hdr) (o : OpScope)
  | fenceRel (h : Hdr) (o : OpScope)
  | fenceFull (h : Hdr) (o : OpScope)
  | qfence (h : Hdr) (o : OpA)
  | flush (h : Hdr) (o : OpFlush)
  | mxs (h : Hdr) (o : OpEnA)
  | smx (h : Hdr) (o : OpEnA)
  | mxrd (h : Hdr) (o : OpDAQ)
  | mxstat (h : Hdr) (o : OpDQ)
  | cpbox (h : Hdr) (o : OpEn)
  | cplin (h : Hdr) (o : OpEn)
  | stcfg (h : Hdr) (o : OpAQ)
  | rtplan (h : Hdr) (o : OpEnS)
  | rtscat (h : Hdr) (o : OpEnS)
  | rtcomb (h : Hdr) (o : OpEnS)
  | nmcall (h : Hdr) (o : OpEnN)
  | nmbkMac (h : Hdr) (o : OpNbMac)
  | nmbkBcst (h : Hdr) (o : OpNbBcst)
  | nmbkRdac (h : Hdr) (o : OpNbRdac)
  | nmbkLmac (h : Hdr) (o : OpNbLmac)
  | cntadd (h : Hdr) (o : OpCnt)
  | sysrd (h : Hdr) (o : OpSys)
  | syswr (h : Hdr) (o : OpSys)
  | trapret (h : Hdr)
  | flagsWrite (h : Hdr) (o : OpD)
  | rrcommitCommit (who : Who)
  | rrcommitFetch (who : Who)
  | stinv (who : Who) (stack : Nat)
  | nmcinv (who : Who) (stack : Nat)
  | icinv (who : Who)
  | reload (who : Who) (part : Nat)
  | kill (who : Who) (part : Nat) (asid : Nat)
  | nmkickScrub (who : Who) (stack : Nat) (ia : Nat)
  | nmkickMigrationCopy (who : Who) (stack : Nat) (ia : Nat)
  | nmkickZero (who : Who) (stack : Nat) (ia : Nat)
  | portmapEnable (who : Who) (port : Nat) (val : Dword)
  | issueTurn (core : Nat)
  | rhizoidIssue (stack : Nat) (pos : Nat)
  | hitchDeadlock (wg : Nat)
  | waitgeReread (wg : Nat) (t : Nat)
  | waitpRead (wg : Nat) (t : Nat)
  | storeDrain (wg : Nat) (braid : Nat)
  | storePerformHome (core : Nat) (idx : Nat)
  | loadReturn (wg : Nat) (t : Nat) (seq : Nat)
  | fenceToken (core : Nat) (idx : Nat)
  | workgroupRetire (wg : Nat)
  | leaveRequest (die : Nat) (asker : Nat) (id : Nat)
  | matrixSelect (cluster : Nat)
  | matrixPass (cluster : Nat)
  | tileClaimPass (cluster : Nat) (tile : Nat)
  | smxNormPass (cluster : Nat)
  | aliasBuild (cluster : Nat)
  | smxSamplePass (cluster : Nat)
  | copyBegin (cluster : Nat) (queue : Nat)
  | copyChunk (cluster : Nat) (queue : Nat)
  | copyComplete (cluster : Nat) (queue : Nat)
  | splicePlanRun (die : Nat) (queue : Nat)
  | spliceScatterRow (die : Nat) (queue : Nat)
  | spliceCombineRow (die : Nat) (queue : Nat)
  | spliceComplete (die : Nat) (queue : Nat)
  | callDispatch (stack : Nat)
  | blockComplete (wg : Nat)
  | bankCommandExecute (stack : Nat) (pch : Nat)
  | allbankWave (stack : Nat)
  | microcodeRowStep (stack : Nat)
  | microcodeKernelEnd (stack : Nat)
  | reductionAdd (stack : Nat)
  | graphDone (part : Nat)
  | asyncTrap (wg : Nat) (t : Nat)
  | workgroupFatal (wg : Nat)
  | pageNotResident (stack : Nat) (id : Nat)
  | peerRetry (id : Nat)
  | laneRetrainDone (port : Nat)
  | clusterSubstitute (cluster : Nat)
  | rowRetire (stack : Nat) (row : Nat)
  | hainv
  | piinv
  | cminv
  | engineRequestPass
  | sleepWake
  | dispatchStep
  | launchComplete
  | budgetPeriod
  | timeSliceEnd
  | partitionSwap
  | contextRestore
  | pageEvict
  | pageBringBack
  | powerWindowStart
  | leaveGrant
  | thermalTrip
  | walkerNodeStep
  | launchNodeRetry
  | graphArm
  | regionFatal
  | counterAddFail
  | uncorrectableError
  | hostMemRead
  | hostMemWrite
  | hostSnoop
  | hostRegisterAccess
  | msixUnmask
  | peerRead
  | peerWrite
  | peerAtomic
  | peerLost
  | laneFailure
  | cxlLinkDown
  | resetDevice
  | spdmGetVersion
  | spdmGetCapabilities
  | spdmNegotiateAlgorithms
  | spdmGetDigests
  | spdmGetCertificate
  | spdmChallenge
  | spdmGetMeasurements
  | correctedError
  | ualinkPortUp
  | cxlLinkUp
  deriving DecidableEq, Repr

end Sys2Proof
end

