-- ==== Sys2Proof/WellFormed.lean ====
section
/-! DEFINITION. Which words are legal encodings (R222, R226, R413). Operand codes that name no register of the launch
(R415), guards on signed commands (R417) and values in registers are no part of it: the meanings judge them. -/

namespace Sys2Proof

/-- R139: scope codes 0b110 and 0b111 are unallocated. -/
def scopeOk (s : BitVec 3) : Bool := s != 6#3 && s != 7#3

/-- R222: with N = 1, D is 0. -/
def nOk (n : Bool) (d : BitVec 7) : Bool := !n || d == 0#7

/-- R239: the CVT codes that are allocated. -/
def cvtOk (src dst : BitVec 3) (rz : Bool) : Bool :=
  src != dst &&
  !(rz && ((src == 5#3 || src == 6#3 || src == 7#3) && (dst == 5#3 || dst == 6#3 || dst == 7#3))) &&
  !(rz && ((src == 3#3 && dst == 4#3) || (src == 4#3 && dst == 3#3)))

/-- R231: fields at or beyond the count are zero, and C is 0 (R414 judges C). -/
def OpBrm.ok (o : OpBrm) : Bool :=
  (o.cnt != 0#2 || (o.p1 == 0#5 && o.o1 == 0#16)) &&
  (o.cnt == 3#2 || o.cnt == 2#2 || (o.p2 == 0#5 && o.o2 == 0#16)) &&
  (o.cnt == 3#2 || (o.p3 == 0#5 && o.o3 == 0#16))

/-- R294: format codes 0x4 to 0x8; pairs 2 and 3 only for 4-bit sources. -/
def OpUnpk.ok (o : OpUnpk) : Bool :=
  nOk o.n o.d && decide (4 ≤ o.fmt.toNat) && decide (o.fmt.toNat ≤ 8) &&
  (o.fmt == 7#4 || o.fmt == 8#4 || o.pair == 0#2 || o.pair == 1#2)

/-- The legal encodings of the Scakel words; a command or an event is no word and has no encoding. -/
def Instr.wf : Instr → Bool
  | .nop _ => true
  | .br _ _ => true
  | .call _ _ => true
  | .brm _ o => o.ok
  | .jmpr _ _ => true
  | .callr _ _ => true
  | .exit _ => true
  | .lit32 _ _ => true
  | .trap _ _ => true
  | .yieldTurn _ => true
  | .hset _ _ => true
  | .rejoin _ _ => true
  | .bar _ => true
  | .sleep _ _ => true
  | .waitge _ o => scopeOk o.scope
  | .waitp _ o => scopeOk o.scope
  | .iadd _ o => nOk o.n o.d
  | .isub _ o => nOk o.n o.d
  | .imul _ o => nOk o.n o.d
  | .imulhiI _ o => nOk o.n o.d
  | .imulhiN _ o => nOk o.n o.d
  | .imad _ _ => true
  | .iminI _ o => nOk o.n o.d
  | .imaxI _ o => nOk o.n o.d
  | .iminN _ o => nOk o.n o.d
  | .imaxN _ o => nOk o.n o.d
  | .land _ o => nOk o.n o.d
  | .lor _ o => nOk o.n o.d
  | .lxor _ o => nOk o.n o.d
  | .shl _ o => nOk o.n o.d
  | .shr _ o => nOk o.n o.d
  | .sar _ o => nOk o.n o.d
  | .iaddi _ o => nOk o.n o.d
  | .andi _ o => nOk o.n o.d
  | .ori _ o => nOk o.n o.d
  | .xori _ o => nOk o.n o.d
  | .shli _ o => nOk o.n o.d
  | .shri _ o => nOk o.n o.d
  | .sari _ o => nOk o.n o.d
  | .movi _ o => nOk o.n o.d
  | .iadd64 _ o => nOk o.n o.d
  | .addx64 _ o => nOk o.n o.d
  | .isetpI _ _ => true
  | .isetpN _ _ => true
  | .sel _ o => nOk o.n o.d
  | .plop _ _ => true
  | .p2v _ o => nOk o.n o.d
  | .v2p _ _ => true
  | .popc _ o => nOk o.n o.d
  | .clz _ o => nOk o.n o.d
  | .brev _ o => nOk o.n o.d
  | .ctz _ o => nOk o.n o.d
  | .lnot _ o => nOk o.n o.d
  | .neg _ o => nOk o.n o.d
  | .abs _ o => nOk o.n o.d
  | .bswz _ _ => true
  | .fadd _ o => nOk o.n o.d
  | .fsub _ o => nOk o.n o.d
  | .fmul _ o => nOk o.n o.d
  | .ffma _ _ => true
  | .fmin _ o => nOk o.n o.d
  | .fmax _ o => nOk o.n o.d
  | .fdiv _ o => nOk o.n o.d
  | .fsetp _ _ => true
  | .fabs _ o => nOk o.n o.d
  | .fneg _ o => nOk o.n o.d
  | .ffloor _ o => nOk o.n o.d
  | .fceil _ o => nOk o.n o.d
  | .ftrunc _ o => nOk o.n o.d
  | .frint _ o => nOk o.n o.d
  | .hadd2Bf16 _ o => nOk o.n o.d
  | .hadd2F16 _ o => nOk o.n o.d
  | .hmul2Bf16 _ o => nOk o.n o.d
  | .hmul2F16 _ o => nOk o.n o.d
  | .hfma2Bf16 _ _ => true
  | .hfma2F16 _ _ => true
  | .hminmax2Bf16 _ o => nOk o.n o.d
  | .hminmax2F16 _ o => nOk o.n o.d
  | .cvt _ o => nOk o.n o.d && cvtOk o.src o.dst o.rz
  | .gqcvtQ _ o => nOk o.n o.d
  | .gqcvtF _ o => nOk o.n o.d
  | .rcp _ o => nOk o.n o.d
  | .rsqrt _ o => nOk o.n o.d
  | .sqrt _ o => nOk o.n o.d
  | .ex2 _ o => nOk o.n o.d
  | .lg2 _ o => nOk o.n o.d
  | .sin _ o => nOk o.n o.d
  | .cos _ o => nOk o.n o.d
  | .tanh _ o => nOk o.n o.d
  | .shflIdx _ o => nOk o.n o.d
  | .shflXor _ o => nOk o.n o.d
  | .shflUp _ o => nOk o.n o.d
  | .shflDn _ o => nOk o.n o.d
  | .voteAll _ _ => true
  | .voteAny _ _ => true
  | .voteBallot _ _ => true
  | .voteEq _ _ => true
  | .reduxAdd _ o => nOk o.n o.d
  | .reduxMinI _ o => nOk o.n o.d
  | .reduxMaxI _ o => nOk o.n o.d
  | .reduxMinN _ o => nOk o.n o.d
  | .reduxMaxN _ o => nOk o.n o.d
  | .reduxAnd _ o => nOk o.n o.d
  | .reduxOr _ o => nOk o.n o.d
  | .reduxXor _ o => nOk o.n o.d
  | .reduxFmin _ o => nOk o.n o.d
  | .reduxFmax _ o => nOk o.n o.d
  | .hbfly _ o => nOk o.n o.d && decide (o.stage.toNat ≤ 5)
  | .unpk _ o => o.ok
  | .cbld _ _ => true
  | .qmap _ _ => true
  | .clkrd _ _ => true
  | .ld8s _ _ => true
  | .ld8z _ _ => true
  | .ld16s _ _ => true
  | .ld16z _ _ => true
  | .ld32 _ _ => true
  | .ld64 _ _ => true
  | .ld128 _ _ => true
  | .st8 _ _ => true
  | .st16 _ _ => true
  | .st32 _ _ => true
  | .st64 _ _ => true
  | .st128 _ _ => true
  | .lds32 _ _ => true
  | .lds64 _ _ => true
  | .lds128 _ _ => true
  | .sts32 _ _ => true
  | .sts64 _ _ => true
  | .sts128 _ _ => true
  | .prefetch _ _ => true
  | .atom32Add _ o => scopeOk o.scope
  | .atom32And _ o => scopeOk o.scope
  | .atom32Or _ o => scopeOk o.scope
  | .atom32Xor _ o => scopeOk o.scope
  | .atom32MinI _ o => scopeOk o.scope
  | .atom32MaxI _ o => scopeOk o.scope
  | .atom32MinN _ o => scopeOk o.scope
  | .atom32MaxN _ o => scopeOk o.scope
  | .atom32Exch _ o => scopeOk o.scope
  | .atom32Cas _ o => scopeOk o.scope
  | .atom32Fadd _ o => scopeOk o.scope
  | .atom32Fmin _ o => scopeOk o.scope
  | .atom32Fmax _ o => scopeOk o.scope
  | .atom64Add _ o => scopeOk o.scope
  | .atom64And _ o => scopeOk o.scope
  | .atom64Or _ o => scopeOk o.scope
  | .atom64Xor _ o => scopeOk o.scope
  | .atom64MinI _ o => scopeOk o.scope
  | .atom64MaxI _ o => scopeOk o.scope
  | .atom64MinN _ o => scopeOk o.scope
  | .atom64MaxN _ o => scopeOk o.scope
  | .atom64Exch _ o => scopeOk o.scope
  | .atom64Cas _ o => scopeOk o.scope
  | .atoms32Add _ o => scopeOk o.scope
  | .atoms32And _ o => scopeOk o.scope
  | .atoms32Or _ o => scopeOk o.scope
  | .atoms32Xor _ o => scopeOk o.scope
  | .atoms32MinI _ o => scopeOk o.scope
  | .atoms32MaxI _ o => scopeOk o.scope
  | .atoms32MinN _ o => scopeOk o.scope
  | .atoms32MaxN _ o => scopeOk o.scope
  | .atoms32Exch _ o => scopeOk o.scope
  | .atoms32Cas _ o => scopeOk o.scope && !(o.d.getLsbD 0)
  | .atoms32Fadd _ o => scopeOk o.scope
  | .atoms32Fmin _ o => scopeOk o.scope
  | .atoms32Fmax _ o => scopeOk o.scope
  | .fenceAcq _ o => scopeOk o.scope
  | .fenceRel _ o => scopeOk o.scope
  | .fenceFull _ o => scopeOk o.scope
  | .qfence _ _ => true
  | .flush _ _ => true
  | .mxs _ _ => true
  | .smx _ _ => true
  | .mxrd _ _ => true
  | .mxstat _ _ => true
  | .cpbox _ _ => true
  | .cplin _ _ => true
  | .stcfg _ _ => true
  | .rtplan _ _ => true
  | .rtscat _ _ => true
  | .rtcomb _ _ => true
  | .nmcall _ _ => true
  | .nmbkMac _ _ => true
  | .nmbkBcst _ _ => true
  | .nmbkRdac _ _ => true
  | .nmbkLmac _ _ => true
  | .cntadd _ o => scopeOk o.scope
  | .sysrd _ _ => true
  | .syswr _ o => o.num != 0x40#14
  | .trapret _ => true
  | .flagsWrite _ _ => true
  | .rrcommitCommit _ => false
  | .rrcommitFetch _ => false
  | .stinv _ _ => false
  | .nmcinv _ _ => false
  | .icinv _ => false
  | .reload _ _ => false
  | .kill _ _ _ => false
  | .nmkickScrub _ _ _ => false
  | .nmkickMigrationCopy _ _ _ => false
  | .nmkickZero _ _ _ => false
  | .portmapEnable _ _ _ => false
  | .issueTurn _ => false
  | .rhizoidIssue _ _ => false
  | .hitchDeadlock _ => false
  | .waitgeReread _ _ => false
  | .waitpRead _ _ => false
  | .storeDrain _ _ => false
  | .storePerformHome _ _ => false
  | .loadReturn _ _ _ => false
  | .fenceToken _ _ => false
  | .workgroupRetire _ => false
  | .leaveRequest _ _ _ => false
  | .matrixSelect _ => false
  | .matrixPass _ => false
  | .tileClaimPass _ _ => false
  | .smxNormPass _ => false
  | .aliasBuild _ => false
  | .smxSamplePass _ => false
  | .copyBegin _ _ => false
  | .copyChunk _ _ => false
  | .copyComplete _ _ => false
  | .splicePlanRun _ _ => false
  | .spliceScatterRow _ _ => false
  | .spliceCombineRow _ _ => false
  | .spliceComplete _ _ => false
  | .callDispatch _ => false
  | .blockComplete _ => false
  | .bankCommandExecute _ _ => false
  | .allbankWave _ => false
  | .microcodeRowStep _ => false
  | .microcodeKernelEnd _ => false
  | .reductionAdd _ => false
  | .graphDone _ => false
  | .asyncTrap _ _ => false
  | .workgroupFatal _ => false
  | .pageNotResident _ _ => false
  | .peerRetry _ => false
  | .laneRetrainDone _ => false
  | .clusterSubstitute _ => false
  | .rowRetire _ _ => false
  | .hainv => false
  | .piinv => false
  | .cminv => false
  | .engineRequestPass => false
  | .sleepWake => false
  | .dispatchStep => false
  | .launchComplete => false
  | .budgetPeriod => false
  | .timeSliceEnd => false
  | .partitionSwap => false
  | .contextRestore => false
  | .pageEvict => false
  | .pageBringBack => false
  | .powerWindowStart => false
  | .leaveGrant => false
  | .thermalTrip => false
  | .walkerNodeStep => false
  | .launchNodeRetry => false
  | .graphArm => false
  | .regionFatal => false
  | .counterAddFail => false
  | .uncorrectableError => false
  | .hostMemRead => false
  | .hostMemWrite => false
  | .hostSnoop => false
  | .hostRegisterAccess => false
  | .msixUnmask => false
  | .peerRead => false
  | .peerWrite => false
  | .peerAtomic => false
  | .peerLost => false
  | .laneFailure => false
  | .cxlLinkDown => false
  | .resetDevice => false
  | .spdmGetVersion => false
  | .spdmGetCapabilities => false
  | .spdmNegotiateAlgorithms => false
  | .spdmGetDigests => false
  | .spdmGetCertificate => false
  | .spdmChallenge => false
  | .spdmGetMeasurements => false
  | .correctedError => false
  | .ualinkPortUp => false
  | .cxlLinkUp => false

/-- Well-formedness as a proposition. -/
abbrev WellFormed (i : Instr) : Prop := i.wf = true

end Sys2Proof
end

