-- ==== Sys2Proof/Decode.lean ====
section
/-! DEFINITION. Decoding and encoding of instruction words (spec 09). -/

namespace Sys2Proof

/-- R215: the fields of an instruction word. -/
structure Fields where
  c : Bool
  op : BitVec 7
  g : BitVec 2
  n : Bool
  d : BitVec 7
  a : BitVec 7
  b : BitVec 7
  deriving DecidableEq, Repr

/-- R215. -/
def Fields.ofWord (w : Word) : Fields :=
  { c := w.getLsbD 31, op := w.extractLsb' 24 7, g := w.extractLsb' 22 2, n := w.getLsbD 21,
    d := w.extractLsb' 14 7, a := w.extractLsb' 7 7, b := w.extractLsb' 0 7 }

/-- R215. -/
def Fields.toWord (f : Fields) : Word :=
  BitVec.ofBool f.c ++ f.op ++ f.g ++ BitVec.ofBool f.n ++ f.d ++ f.a ++ f.b

/-- R230, R231: bits [21:0]. -/
def Fields.off22 (f : Fields) : BitVec 22 := BitVec.ofBool f.n ++ f.d ++ f.a ++ f.b

def Fields.hdr (f : Fields) : Hdr := ⟨f.c, f.g⟩

/-- Why a word is no instruction (all of them raise cause 0x10, R412, R413). -/
inductive DecErr where
  /-- R412: the major opcode is unallocated. -/
  | unallocatedMajor
  /-- R413: the function code or kind is unallocated. -/
  | unallocatedFunction
  /-- R413: a reserved field is nonzero, N is not allowed, or a scope is unallocated. -/
  | reservedField
  /-- A data word that the word needs is missing. -/
  | truncated
  deriving DecidableEq, Repr

/-- The fields of the first word of an instruction and the data words that follow it (R232, R231). Events have
none. -/
def Instr.fields : Instr → Option (Fields × List Word)
  | .nop h => some (⟨h.c, 0#7, h.g, false, 0#7, 0#7, 0#7⟩, [])
  | .br h o => some (⟨h.c, 1#7, h.g, o.off.getLsbD 21, o.off.extractLsb' 14 7, o.off.extractLsb' 7 7, o.off.extractLsb' 0 7⟩, [])
  | .call h o => some (⟨h.c, 3#7, h.g, o.off.getLsbD 21, o.off.extractLsb' 14 7, o.off.extractLsb' 7 7, o.off.extractLsb' 0 7⟩, [])
  | .brm h o => some (⟨h.c, 2#7, h.g, o.cnt.getLsbD 1, (o.cnt.extractLsb' 0 1 ++ o.p3 ++ o.p2.extractLsb' 4 1), (o.p2.extractLsb' 0 4 ++ o.p1.extractLsb' 2 3), (o.p1.extractLsb' 0 2 ++ o.p0)⟩, [o.o1 ++ o.o0, o.o3 ++ o.o2])
  | .jmpr h o => some (⟨h.c, 4#7, h.g, false, 0#7, o.a, 0#7⟩, [])
  | .callr h o => some (⟨h.c, 5#7, h.g, false, o.d, o.a, 0#7⟩, [])
  | .exit h => some (⟨h.c, 6#7, h.g, false, 0#7, 0#7, 0#7⟩, [])
  | .lit32 h o => some (⟨h.c, 13#7, h.g, false, o.d, 0#7, 0#7⟩, [o.k])
  | .trap h o => some (⟨h.c, 15#7, h.g, false, 0#7, 0#7, o.code⟩, [])
  | .yieldTurn h => some (⟨h.c, 14#7, h.g, false, 0#7, 0#7, 0#7⟩, [])
  | .hset h o => some (⟨h.c, 7#7, h.g, false, 0#7, o.a, (0#3 ++ o.hitch)⟩, [])
  | .rejoin h o => some (⟨h.c, 8#7, h.g, false, 0#7, 0#7, (0#3 ++ o.hitch)⟩, [])
  | .bar h => some (⟨h.c, 9#7, h.g, false, 0#7, 0#7, 0#7⟩, [])
  | .sleep h o => some (⟨h.c, 10#7, h.g, false, 0#7, o.a, 0#7⟩, [])
  | .waitge h o => some (⟨h.c, 11#7, h.g, false, 0#7, o.a, (0#4 ++ o.scope)⟩, [])
  | .waitp h o => some (⟨h.c, 12#7, h.g, false, o.d, o.a, (0#4 ++ o.scope)⟩, [])
  | .iadd h o => some (⟨h.c, 16#7, h.g, o.n, o.d, o.a, o.b⟩, [])
  | .isub h o => some (⟨h.c, 17#7, h.g, o.n, o.d, o.a, o.b⟩, [])
  | .imul h o => some (⟨h.c, 18#7, h.g, o.n, o.d, o.a, o.b⟩, [])
  | .imulhiI h o => some (⟨h.c, 19#7, h.g, o.n, o.d, o.a, o.b⟩, [])
  | .imulhiN h o => some (⟨h.c, 20#7, h.g, o.n, o.d, o.a, o.b⟩, [])
  | .imad h o => some (⟨h.c, 21#7, h.g, o.n, o.d, o.a, o.b⟩, [])
  | .iminI h o => some (⟨h.c, 22#7, h.g, o.n, o.d, o.a, o.b⟩, [])
  | .imaxI h o => some (⟨h.c, 23#7, h.g, o.n, o.d, o.a, o.b⟩, [])
  | .iminN h o => some (⟨h.c, 24#7, h.g, o.n, o.d, o.a, o.b⟩, [])
  | .imaxN h o => some (⟨h.c, 25#7, h.g, o.n, o.d, o.a, o.b⟩, [])
  | .land h o => some (⟨h.c, 26#7, h.g, o.n, o.d, o.a, o.b⟩, [])
  | .lor h o => some (⟨h.c, 27#7, h.g, o.n, o.d, o.a, o.b⟩, [])
  | .lxor h o => some (⟨h.c, 28#7, h.g, o.n, o.d, o.a, o.b⟩, [])
  | .shl h o => some (⟨h.c, 29#7, h.g, o.n, o.d, o.a, o.b⟩, [])
  | .shr h o => some (⟨h.c, 30#7, h.g, o.n, o.d, o.a, o.b⟩, [])
  | .sar h o => some (⟨h.c, 31#7, h.g, o.n, o.d, o.a, o.b⟩, [])
  | .iaddi h o => some (⟨h.c, 32#7, h.g, o.n, o.d, o.a, o.imm⟩, [])
  | .andi h o => some (⟨h.c, 33#7, h.g, o.n, o.d, o.a, o.imm⟩, [])
  | .ori h o => some (⟨h.c, 34#7, h.g, o.n, o.d, o.a, o.imm⟩, [])
  | .xori h o => some (⟨h.c, 35#7, h.g, o.n, o.d, o.a, o.imm⟩, [])
  | .shli h o => some (⟨h.c, 36#7, h.g, o.n, o.d, o.a, (0#2 ++ o.amt)⟩, [])
  | .shri h o => some (⟨h.c, 36#7, h.g, o.n, o.d, o.a, (1#2 ++ o.amt)⟩, [])
  | .sari h o => some (⟨h.c, 36#7, h.g, o.n, o.d, o.a, (2#2 ++ o.amt)⟩, [])
  | .movi h o => some (⟨h.c, 37#7, h.g, o.n, o.d, o.imm.extractLsb' 7 7, o.imm.extractLsb' 0 7⟩, [])
  | .iadd64 h o => some (⟨h.c, 38#7, h.g, o.n, o.d, o.a, o.b⟩, [])
  | .addx64 h o => some (⟨h.c, 39#7, h.g, o.n, o.d, o.a, o.b⟩, [])
  | .isetpI h o => some (⟨h.c, 40#7, h.g, false, (o.cond ++ o.pd), o.a, o.b⟩, [])
  | .isetpN h o => some (⟨h.c, 41#7, h.g, false, (o.cond ++ o.pd), o.a, o.b⟩, [])
  | .sel h o => some (⟨h.c, 42#7, h.g, o.n, o.d, o.a, o.b⟩, [])
  | .plop h o => some (⟨h.c, 43#7, h.g, false, (0#2 ++ o.pd), (o.tbl.extractLsb' 2 2 ++ o.pa), (o.tbl.extractLsb' 0 2 ++ o.pb)⟩, [])
  | .p2v h o => some (⟨h.c, 44#7, h.g, o.n, o.d, 0#7, 0#7⟩, [])
  | .v2p h o => some (⟨h.c, 44#7, h.g, false, 0#7, o.a, 1#7⟩, [])
  | .popc h o => some (⟨h.c, 45#7, h.g, o.n, o.d, o.a, 0#7⟩, [])
  | .clz h o => some (⟨h.c, 45#7, h.g, o.n, o.d, o.a, 1#7⟩, [])
  | .brev h o => some (⟨h.c, 45#7, h.g, o.n, o.d, o.a, 2#7⟩, [])
  | .ctz h o => some (⟨h.c, 45#7, h.g, o.n, o.d, o.a, 3#7⟩, [])
  | .lnot h o => some (⟨h.c, 45#7, h.g, o.n, o.d, o.a, 4#7⟩, [])
  | .neg h o => some (⟨h.c, 45#7, h.g, o.n, o.d, o.a, 5#7⟩, [])
  | .abs h o => some (⟨h.c, 45#7, h.g, o.n, o.d, o.a, 6#7⟩, [])
  | .bswz h o => some (⟨h.c, 46#7, h.g, o.n, o.d, o.a, o.b⟩, [])
  | .fadd h o => some (⟨h.c, 48#7, h.g, o.n, o.d, o.a, o.b⟩, [])
  | .fsub h o => some (⟨h.c, 49#7, h.g, o.n, o.d, o.a, o.b⟩, [])
  | .fmul h o => some (⟨h.c, 50#7, h.g, o.n, o.d, o.a, o.b⟩, [])
  | .ffma h o => some (⟨h.c, 51#7, h.g, o.n, o.d, o.a, o.b⟩, [])
  | .fmin h o => some (⟨h.c, 52#7, h.g, o.n, o.d, o.a, o.b⟩, [])
  | .fmax h o => some (⟨h.c, 53#7, h.g, o.n, o.d, o.a, o.b⟩, [])
  | .fdiv h o => some (⟨h.c, 66#7, h.g, o.n, o.d, o.a, o.b⟩, [])
  | .fsetp h o => some (⟨h.c, 54#7, h.g, false, (o.cond ++ o.pd), o.a, o.b⟩, [])
  | .fabs h o => some (⟨h.c, 55#7, h.g, o.n, o.d, o.a, 0#7⟩, [])
  | .fneg h o => some (⟨h.c, 55#7, h.g, o.n, o.d, o.a, 1#7⟩, [])
  | .ffloor h o => some (⟨h.c, 55#7, h.g, o.n, o.d, o.a, 2#7⟩, [])
  | .fceil h o => some (⟨h.c, 55#7, h.g, o.n, o.d, o.a, 3#7⟩, [])
  | .ftrunc h o => some (⟨h.c, 55#7, h.g, o.n, o.d, o.a, 4#7⟩, [])
  | .frint h o => some (⟨h.c, 55#7, h.g, o.n, o.d, o.a, 5#7⟩, [])
  | .hadd2Bf16 h o => some (⟨h.c, 56#7, h.g, o.n, o.d, o.a, o.b⟩, [])
  | .hadd2F16 h o => some (⟨h.c, 57#7, h.g, o.n, o.d, o.a, o.b⟩, [])
  | .hmul2Bf16 h o => some (⟨h.c, 58#7, h.g, o.n, o.d, o.a, o.b⟩, [])
  | .hmul2F16 h o => some (⟨h.c, 59#7, h.g, o.n, o.d, o.a, o.b⟩, [])
  | .hfma2Bf16 h o => some (⟨h.c, 60#7, h.g, o.n, o.d, o.a, o.b⟩, [])
  | .hfma2F16 h o => some (⟨h.c, 61#7, h.g, o.n, o.d, o.a, o.b⟩, [])
  | .hminmax2Bf16 h o => some (⟨h.c, 62#7, h.g, o.n, o.d, o.a, o.b⟩, [])
  | .hminmax2F16 h o => some (⟨h.c, 63#7, h.g, o.n, o.d, o.a, o.b⟩, [])
  | .cvt h o => some (⟨h.c, 64#7, h.g, o.n, o.d, o.a, (o.src ++ o.dst ++ BitVec.ofBool o.rz)⟩, [])
  | .gqcvtQ h o => some (⟨h.c, 76#7, h.g, o.n, o.d, o.a, o.b⟩, [])
  | .gqcvtF h o => some (⟨h.c, 79#7, h.g, o.n, o.d, o.a, o.b⟩, [])
  | .rcp h o => some (⟨h.c, 65#7, h.g, o.n, o.d, o.a, 0#7⟩, [])
  | .rsqrt h o => some (⟨h.c, 65#7, h.g, o.n, o.d, o.a, 1#7⟩, [])
  | .sqrt h o => some (⟨h.c, 65#7, h.g, o.n, o.d, o.a, 2#7⟩, [])
  | .ex2 h o => some (⟨h.c, 65#7, h.g, o.n, o.d, o.a, 3#7⟩, [])
  | .lg2 h o => some (⟨h.c, 65#7, h.g, o.n, o.d, o.a, 4#7⟩, [])
  | .sin h o => some (⟨h.c, 65#7, h.g, o.n, o.d, o.a, 5#7⟩, [])
  | .cos h o => some (⟨h.c, 65#7, h.g, o.n, o.d, o.a, 6#7⟩, [])
  | .tanh h o => some (⟨h.c, 65#7, h.g, o.n, o.d, o.a, 7#7⟩, [])
  | .shflIdx h o => some (⟨h.c, 67#7, h.g, o.n, o.d, o.a, o.b⟩, [])
  | .shflXor h o => some (⟨h.c, 68#7, h.g, o.n, o.d, o.a, o.b⟩, [])
  | .shflUp h o => some (⟨h.c, 69#7, h.g, o.n, o.d, o.a, o.b⟩, [])
  | .shflDn h o => some (⟨h.c, 70#7, h.g, o.n, o.d, o.a, o.b⟩, [])
  | .voteAll h o => some (⟨h.c, 71#7, h.g, false, (0#2 ++ o.pd), 0#7, (0#2 ++ o.ps)⟩, [])
  | .voteAny h o => some (⟨h.c, 71#7, h.g, false, (0#2 ++ o.pd), 0#7, (1#2 ++ o.ps)⟩, [])
  | .voteBallot h o => some (⟨h.c, 71#7, h.g, false, o.d, 0#7, (2#2 ++ o.ps)⟩, [])
  | .voteEq h o => some (⟨h.c, 71#7, h.g, false, (0#2 ++ o.pd), o.a, (3#2 ++ 0#5)⟩, [])
  | .reduxAdd h o => some (⟨h.c, 72#7, h.g, o.n, o.d, o.a, 0#7⟩, [])
  | .reduxMinI h o => some (⟨h.c, 72#7, h.g, o.n, o.d, o.a, 1#7⟩, [])
  | .reduxMaxI h o => some (⟨h.c, 72#7, h.g, o.n, o.d, o.a, 2#7⟩, [])
  | .reduxMinN h o => some (⟨h.c, 72#7, h.g, o.n, o.d, o.a, 3#7⟩, [])
  | .reduxMaxN h o => some (⟨h.c, 72#7, h.g, o.n, o.d, o.a, 4#7⟩, [])
  | .reduxAnd h o => some (⟨h.c, 72#7, h.g, o.n, o.d, o.a, 5#7⟩, [])
  | .reduxOr h o => some (⟨h.c, 72#7, h.g, o.n, o.d, o.a, 6#7⟩, [])
  | .reduxXor h o => some (⟨h.c, 72#7, h.g, o.n, o.d, o.a, 7#7⟩, [])
  | .reduxFmin h o => some (⟨h.c, 72#7, h.g, o.n, o.d, o.a, 8#7⟩, [])
  | .reduxFmax h o => some (⟨h.c, 72#7, h.g, o.n, o.d, o.a, 9#7⟩, [])
  | .hbfly h o => some (⟨h.c, 73#7, h.g, o.n, o.d, o.a, (0#4 ++ o.stage)⟩, [])
  | .unpk h o => some (⟨h.c, 74#7, h.g, o.n, o.d, o.a, (0#1 ++ o.pair ++ o.fmt)⟩, [])
  | .cbld h o => some (⟨h.c, 75#7, h.g, false, 0#7, o.a, 0#7⟩, [])
  | .qmap h o => some (⟨h.c, 77#7, h.g, false, o.d, o.a, 0#7⟩, [])
  | .clkrd h o => some (⟨h.c, 78#7, h.g, false, o.d, 0#7, 0#7⟩, [])
  | .ld8s h o => some (⟨h.c, 80#7, h.g, o.w, o.d, o.a, (o.hint ++ o.off)⟩, [])
  | .ld8z h o => some (⟨h.c, 81#7, h.g, o.w, o.d, o.a, (o.hint ++ o.off)⟩, [])
  | .ld16s h o => some (⟨h.c, 82#7, h.g, o.w, o.d, o.a, (o.hint ++ o.off)⟩, [])
  | .ld16z h o => some (⟨h.c, 83#7, h.g, o.w, o.d, o.a, (o.hint ++ o.off)⟩, [])
  | .ld32 h o => some (⟨h.c, 84#7, h.g, o.w, o.d, o.a, (o.hint ++ o.off)⟩, [])
  | .ld64 h o => some (⟨h.c, 85#7, h.g, o.w, o.d, o.a, (o.hint ++ o.off)⟩, [])
  | .ld128 h o => some (⟨h.c, 86#7, h.g, o.w, o.d, o.a, (o.hint ++ o.off)⟩, [])
  | .st8 h o => some (⟨h.c, 88#7, h.g, o.w, o.d, o.a, (o.hint ++ o.off)⟩, [])
  | .st16 h o => some (⟨h.c, 89#7, h.g, o.w, o.d, o.a, (o.hint ++ o.off)⟩, [])
  | .st32 h o => some (⟨h.c, 90#7, h.g, o.w, o.d, o.a, (o.hint ++ o.off)⟩, [])
  | .st64 h o => some (⟨h.c, 91#7, h.g, o.w, o.d, o.a, (o.hint ++ o.off)⟩, [])
  | .st128 h o => some (⟨h.c, 92#7, h.g, o.w, o.d, o.a, (o.hint ++ o.off)⟩, [])
  | .lds32 h o => some (⟨h.c, 96#7, h.g, false, o.d, o.a, (0#2 ++ o.off)⟩, [])
  | .lds64 h o => some (⟨h.c, 97#7, h.g, false, o.d, o.a, (0#2 ++ o.off)⟩, [])
  | .lds128 h o => some (⟨h.c, 98#7, h.g, false, o.d, o.a, (0#2 ++ o.off)⟩, [])
  | .sts32 h o => some (⟨h.c, 99#7, h.g, false, o.d, o.a, (0#2 ++ o.off)⟩, [])
  | .sts64 h o => some (⟨h.c, 100#7, h.g, false, o.d, o.a, (0#2 ++ o.off)⟩, [])
  | .sts128 h o => some (⟨h.c, 101#7, h.g, false, o.d, o.a, (0#2 ++ o.off)⟩, [])
  | .prefetch h o => some (⟨h.c, 108#7, h.g, o.w, 0#7, o.a, (o.hint ++ o.off)⟩, [])
  | .atom32Add h o => some (⟨h.c, 102#7, h.g, o.w, o.d, o.a, (0#4 ++ o.scope)⟩, [])
  | .atom32And h o => some (⟨h.c, 102#7, h.g, o.w, o.d, o.a, (1#4 ++ o.scope)⟩, [])
  | .atom32Or h o => some (⟨h.c, 102#7, h.g, o.w, o.d, o.a, (2#4 ++ o.scope)⟩, [])
  | .atom32Xor h o => some (⟨h.c, 102#7, h.g, o.w, o.d, o.a, (3#4 ++ o.scope)⟩, [])
  | .atom32MinI h o => some (⟨h.c, 102#7, h.g, o.w, o.d, o.a, (4#4 ++ o.scope)⟩, [])
  | .atom32MaxI h o => some (⟨h.c, 102#7, h.g, o.w, o.d, o.a, (5#4 ++ o.scope)⟩, [])
  | .atom32MinN h o => some (⟨h.c, 102#7, h.g, o.w, o.d, o.a, (6#4 ++ o.scope)⟩, [])
  | .atom32MaxN h o => some (⟨h.c, 102#7, h.g, o.w, o.d, o.a, (7#4 ++ o.scope)⟩, [])
  | .atom32Exch h o => some (⟨h.c, 102#7, h.g, o.w, o.d, o.a, (8#4 ++ o.scope)⟩, [])
  | .atom32Cas h o => some (⟨h.c, 102#7, h.g, o.w, o.d, o.a, (9#4 ++ o.scope)⟩, [])
  | .atom32Fadd h o => some (⟨h.c, 102#7, h.g, o.w, o.d, o.a, (10#4 ++ o.scope)⟩, [])
  | .atom32Fmin h o => some (⟨h.c, 102#7, h.g, o.w, o.d, o.a, (11#4 ++ o.scope)⟩, [])
  | .atom32Fmax h o => some (⟨h.c, 102#7, h.g, o.w, o.d, o.a, (12#4 ++ o.scope)⟩, [])
  | .atom64Add h o => some (⟨h.c, 103#7, h.g, o.w, o.d, o.a, (0#4 ++ o.scope)⟩, [])
  | .atom64And h o => some (⟨h.c, 103#7, h.g, o.w, o.d, o.a, (1#4 ++ o.scope)⟩, [])
  | .atom64Or h o => some (⟨h.c, 103#7, h.g, o.w, o.d, o.a, (2#4 ++ o.scope)⟩, [])
  | .atom64Xor h o => some (⟨h.c, 103#7, h.g, o.w, o.d, o.a, (3#4 ++ o.scope)⟩, [])
  | .atom64MinI h o => some (⟨h.c, 103#7, h.g, o.w, o.d, o.a, (4#4 ++ o.scope)⟩, [])
  | .atom64MaxI h o => some (⟨h.c, 103#7, h.g, o.w, o.d, o.a, (5#4 ++ o.scope)⟩, [])
  | .atom64MinN h o => some (⟨h.c, 103#7, h.g, o.w, o.d, o.a, (6#4 ++ o.scope)⟩, [])
  | .atom64MaxN h o => some (⟨h.c, 103#7, h.g, o.w, o.d, o.a, (7#4 ++ o.scope)⟩, [])
  | .atom64Exch h o => some (⟨h.c, 103#7, h.g, o.w, o.d, o.a, (8#4 ++ o.scope)⟩, [])
  | .atom64Cas h o => some (⟨h.c, 103#7, h.g, o.w, o.d, o.a, (9#4 ++ o.scope)⟩, [])
  | .atoms32Add h o => some (⟨h.c, 104#7, h.g, false, o.d, o.a, (0#4 ++ o.scope)⟩, [])
  | .atoms32And h o => some (⟨h.c, 104#7, h.g, false, o.d, o.a, (1#4 ++ o.scope)⟩, [])
  | .atoms32Or h o => some (⟨h.c, 104#7, h.g, false, o.d, o.a, (2#4 ++ o.scope)⟩, [])
  | .atoms32Xor h o => some (⟨h.c, 104#7, h.g, false, o.d, o.a, (3#4 ++ o.scope)⟩, [])
  | .atoms32MinI h o => some (⟨h.c, 104#7, h.g, false, o.d, o.a, (4#4 ++ o.scope)⟩, [])
  | .atoms32MaxI h o => some (⟨h.c, 104#7, h.g, false, o.d, o.a, (5#4 ++ o.scope)⟩, [])
  | .atoms32MinN h o => some (⟨h.c, 104#7, h.g, false, o.d, o.a, (6#4 ++ o.scope)⟩, [])
  | .atoms32MaxN h o => some (⟨h.c, 104#7, h.g, false, o.d, o.a, (7#4 ++ o.scope)⟩, [])
  | .atoms32Exch h o => some (⟨h.c, 104#7, h.g, false, o.d, o.a, (8#4 ++ o.scope)⟩, [])
  | .atoms32Cas h o => some (⟨h.c, 104#7, h.g, false, o.d, o.a, (9#4 ++ o.scope)⟩, [])
  | .atoms32Fadd h o => some (⟨h.c, 104#7, h.g, false, o.d, o.a, (10#4 ++ o.scope)⟩, [])
  | .atoms32Fmin h o => some (⟨h.c, 104#7, h.g, false, o.d, o.a, (11#4 ++ o.scope)⟩, [])
  | .atoms32Fmax h o => some (⟨h.c, 104#7, h.g, false, o.d, o.a, (12#4 ++ o.scope)⟩, [])
  | .fenceAcq h o => some (⟨h.c, 105#7, h.g, false, 0#7, 0#7, (0#4 ++ o.scope)⟩, [])
  | .fenceRel h o => some (⟨h.c, 105#7, h.g, false, 0#7, 0#7, (1#4 ++ o.scope)⟩, [])
  | .fenceFull h o => some (⟨h.c, 105#7, h.g, false, 0#7, 0#7, (2#4 ++ o.scope)⟩, [])
  | .qfence h o => some (⟨h.c, 106#7, h.g, false, 0#7, o.a, 0#7⟩, [])
  | .flush h o => some (⟨h.c, 107#7, h.g, o.w, o.d, o.a, 0#7⟩, [])
  | .mxs h o => some (⟨h.c, 112#7, h.g, false, 0#7, o.a, (o.hitch ++ o.q)⟩, [])
  | .smx h o => some (⟨h.c, 115#7, h.g, false, 0#7, o.a, (o.hitch ++ o.q)⟩, [])
  | .mxrd h o => some (⟨h.c, 113#7, h.g, false, o.d, o.a, (0#4 ++ o.q)⟩, [])
  | .mxstat h o => some (⟨h.c, 114#7, h.g, false, o.d, 0#7, (0#4 ++ o.q)⟩, [])
  | .cpbox h o => some (⟨h.c, 116#7, h.g, false, o.d, o.a, (o.hitch ++ o.q)⟩, [])
  | .cplin h o => some (⟨h.c, 117#7, h.g, false, o.d, o.a, (o.hitch ++ o.q)⟩, [])
  | .stcfg h o => some (⟨h.c, 118#7, h.g, false, 0#7, o.a, (0#4 ++ o.q)⟩, [])
  | .rtplan h o => some (⟨h.c, 119#7, h.g, false, o.d, o.a, (o.hitch ++ 0#1 ++ o.q)⟩, [])
  | .rtscat h o => some (⟨h.c, 120#7, h.g, false, o.d, o.a, (o.hitch ++ 0#1 ++ o.q)⟩, [])
  | .rtcomb h o => some (⟨h.c, 121#7, h.g, false, o.d, o.a, (o.hitch ++ 0#1 ++ o.q)⟩, [])
  | .nmcall h o => some (⟨h.c, 122#7, h.g, false, 0#7, o.a, (o.hitch ++ 0#3)⟩, [])
  | .nmbkMac h o => some (⟨h.c, 127#7, h.g, false, 0#7, o.a, (BitVec.ofBool o.all ++ BitVec.ofBool o.clr ++ BitVec.ofBool o.fb ++ 0#1 ++ 1#3)⟩, [])
  | .nmbkBcst h o => some (⟨h.c, 127#7, h.g, false, o.d, o.a, (BitVec.ofBool o.all ++ 0#3 ++ 2#3)⟩, [])
  | .nmbkRdac h o => some (⟨h.c, 127#7, h.g, false, o.d, o.a, (0#1 ++ BitVec.ofBool o.clr ++ BitVec.ofBool o.fb ++ 0#1 ++ 3#3)⟩, [])
  | .nmbkLmac h o => some (⟨h.c, 127#7, h.g, false, (0#5 ++ o.tb), o.a, (0#1 ++ BitVec.ofBool o.clr ++ 1#1 ++ 0#1 ++ 4#3)⟩, [])
  | .cntadd h o => some (⟨h.c, 123#7, h.g, o.w, o.d, o.a, (0#4 ++ o.scope)⟩, [])
  | .sysrd h o => some (⟨h.c, 124#7, h.g, false, o.d, o.num.extractLsb' 7 7, o.num.extractLsb' 0 7⟩, [])
  | .syswr h o => some (⟨h.c, 125#7, h.g, false, o.d, o.num.extractLsb' 7 7, o.num.extractLsb' 0 7⟩, [])
  | .trapret h => some (⟨h.c, 126#7, h.g, false, 0#7, 0#7, 0#7⟩, [])
  | .flagsWrite h o => some (⟨h.c, 125#7, h.g, false, o.d, 0#7, 0x40#7⟩, [])
  | .rrcommitCommit _ => none
  | .rrcommitFetch _ => none
  | .stinv _ _ => none
  | .nmcinv _ _ => none
  | .icinv _ => none
  | .reload _ _ => none
  | .kill _ _ _ => none
  | .nmkickScrub _ _ _ => none
  | .nmkickMigrationCopy _ _ _ => none
  | .nmkickZero _ _ _ => none
  | .portmapEnable _ _ _ => none
  | .issueTurn _ => none
  | .rhizoidIssue _ _ => none
  | .hitchDeadlock _ => none
  | .waitgeReread _ _ => none
  | .waitpRead _ _ => none
  | .storeDrain _ _ => none
  | .storePerformHome _ _ => none
  | .loadReturn _ _ _ => none
  | .fenceToken _ _ => none
  | .workgroupRetire _ => none
  | .leaveRequest _ _ _ => none
  | .matrixSelect _ => none
  | .matrixPass _ => none
  | .tileClaimPass _ _ => none
  | .smxNormPass _ => none
  | .aliasBuild _ => none
  | .smxSamplePass _ => none
  | .copyBegin _ _ => none
  | .copyChunk _ _ => none
  | .copyComplete _ _ => none
  | .splicePlanRun _ _ => none
  | .spliceScatterRow _ _ => none
  | .spliceCombineRow _ _ => none
  | .spliceComplete _ _ => none
  | .callDispatch _ => none
  | .blockComplete _ => none
  | .bankCommandExecute _ _ => none
  | .allbankWave _ => none
  | .microcodeRowStep _ => none
  | .microcodeKernelEnd _ => none
  | .reductionAdd _ => none
  | .graphDone _ => none
  | .asyncTrap _ _ => none
  | .workgroupFatal _ => none
  | .pageNotResident _ _ => none
  | .peerRetry _ => none
  | .laneRetrainDone _ => none
  | .clusterSubstitute _ => none
  | .rowRetire _ _ => none
  | .hainv => none
  | .piinv => none
  | .cminv => none
  | .engineRequestPass => none
  | .sleepWake => none
  | .dispatchStep => none
  | .launchComplete => none
  | .budgetPeriod => none
  | .timeSliceEnd => none
  | .partitionSwap => none
  | .contextRestore => none
  | .pageEvict => none
  | .pageBringBack => none
  | .powerWindowStart => none
  | .leaveGrant => none
  | .thermalTrip => none
  | .walkerNodeStep => none
  | .launchNodeRetry => none
  | .graphArm => none
  | .regionFatal => none
  | .counterAddFail => none
  | .uncorrectableError => none
  | .hostMemRead => none
  | .hostMemWrite => none
  | .hostSnoop => none
  | .hostRegisterAccess => none
  | .msixUnmask => none
  | .peerRead => none
  | .peerWrite => none
  | .peerAtomic => none
  | .peerLost => none
  | .laneFailure => none
  | .cxlLinkDown => none
  | .resetDevice => none
  | .spdmGetVersion => none
  | .spdmGetCapabilities => none
  | .spdmNegotiateAlgorithms => none
  | .spdmGetDigests => none
  | .spdmGetCertificate => none
  | .spdmChallenge => none
  | .spdmGetMeasurements => none
  | .correctedError => none
  | .ualinkPortUp => none
  | .cxlLinkUp => none

/-- encode: the words of an instruction; a command or an event has none. -/
def encode (i : Instr) : List Word :=
  match i.fields with
  | some (f, ws) => f.toWord :: ws
  | none => []

/-- R238, majors 0x0 to 0xf: the one instruction a word can be, before its zero fields are judged. -/
def candidate0 (f : Fields) (w1 w2 : Word) : Except DecErr Instr :=
  if f.op == 0#7 then .ok (.nop f.hdr)
  else if f.op == 1#7 then .ok (.br f.hdr ⟨f.off22⟩)
  else if f.op == 2#7 then .ok (.brm f.hdr ⟨f.off22.extractLsb' 20 2, f.off22.extractLsb' 0 5, f.off22.extractLsb' 5 5, f.off22.extractLsb' 10 5, f.off22.extractLsb' 15 5, w1.extractLsb' 0 16, w1.extractLsb' 16 16, w2.extractLsb' 0 16, w2.extractLsb' 16 16⟩)
  else if f.op == 3#7 then .ok (.call f.hdr ⟨f.off22⟩)
  else if f.op == 4#7 then .ok (.jmpr f.hdr ⟨f.a⟩)
  else if f.op == 5#7 then .ok (.callr f.hdr ⟨f.d, f.a⟩)
  else if f.op == 6#7 then .ok (.exit f.hdr)
  else if f.op == 7#7 then .ok (.hset f.hdr ⟨f.a, f.b.extractLsb' 0 4⟩)
  else if f.op == 8#7 then .ok (.rejoin f.hdr ⟨f.b.extractLsb' 0 4⟩)
  else if f.op == 9#7 then .ok (.bar f.hdr)
  else if f.op == 10#7 then .ok (.sleep f.hdr ⟨f.a⟩)
  else if f.op == 11#7 then .ok (.waitge f.hdr ⟨f.a, f.b.extractLsb' 0 3⟩)
  else if f.op == 12#7 then .ok (.waitp f.hdr ⟨f.d, f.a, f.b.extractLsb' 0 3⟩)
  else if f.op == 13#7 then .ok (.lit32 f.hdr ⟨f.d, w1⟩)
  else if f.op == 14#7 then .ok (.yieldTurn f.hdr)
  else if f.op == 15#7 then .ok (.trap f.hdr ⟨f.b⟩)
  else .error .unallocatedMajor

/-- R238, majors 0x10 to 0x1f: the one instruction a word can be, before its zero fields are judged. -/
def candidate1 (f : Fields) (_w1 _w2 : Word) : Except DecErr Instr :=
  if f.op == 16#7 then .ok (.iadd f.hdr ⟨f.n, f.d, f.a, f.b⟩)
  else if f.op == 17#7 then .ok (.isub f.hdr ⟨f.n, f.d, f.a, f.b⟩)
  else if f.op == 18#7 then .ok (.imul f.hdr ⟨f.n, f.d, f.a, f.b⟩)
  else if f.op == 19#7 then .ok (.imulhiI f.hdr ⟨f.n, f.d, f.a, f.b⟩)
  else if f.op == 20#7 then .ok (.imulhiN f.hdr ⟨f.n, f.d, f.a, f.b⟩)
  else if f.op == 21#7 then .ok (.imad f.hdr ⟨f.n, f.d, f.a, f.b⟩)
  else if f.op == 22#7 then .ok (.iminI f.hdr ⟨f.n, f.d, f.a, f.b⟩)
  else if f.op == 23#7 then .ok (.imaxI f.hdr ⟨f.n, f.d, f.a, f.b⟩)
  else if f.op == 24#7 then .ok (.iminN f.hdr ⟨f.n, f.d, f.a, f.b⟩)
  else if f.op == 25#7 then .ok (.imaxN f.hdr ⟨f.n, f.d, f.a, f.b⟩)
  else if f.op == 26#7 then .ok (.land f.hdr ⟨f.n, f.d, f.a, f.b⟩)
  else if f.op == 27#7 then .ok (.lor f.hdr ⟨f.n, f.d, f.a, f.b⟩)
  else if f.op == 28#7 then .ok (.lxor f.hdr ⟨f.n, f.d, f.a, f.b⟩)
  else if f.op == 29#7 then .ok (.shl f.hdr ⟨f.n, f.d, f.a, f.b⟩)
  else if f.op == 30#7 then .ok (.shr f.hdr ⟨f.n, f.d, f.a, f.b⟩)
  else if f.op == 31#7 then .ok (.sar f.hdr ⟨f.n, f.d, f.a, f.b⟩)
  else .error .unallocatedMajor

/-- R238, majors 0x20 to 0x2f: the one instruction a word can be, before its zero fields are judged. -/
def candidate2 (f : Fields) (_w1 _w2 : Word) : Except DecErr Instr :=
  if f.op == 32#7 then .ok (.iaddi f.hdr ⟨f.n, f.d, f.a, f.b⟩)
  else if f.op == 33#7 then .ok (.andi f.hdr ⟨f.n, f.d, f.a, f.b⟩)
  else if f.op == 34#7 then .ok (.ori f.hdr ⟨f.n, f.d, f.a, f.b⟩)
  else if f.op == 35#7 then .ok (.xori f.hdr ⟨f.n, f.d, f.a, f.b⟩)
  else if f.op == 36#7 then
    if f.b.extractLsb' 5 2 == 0#2 then .ok (.shli f.hdr ⟨f.n, f.d, f.a, f.b.extractLsb' 0 5⟩)
    else if f.b.extractLsb' 5 2 == 1#2 then .ok (.shri f.hdr ⟨f.n, f.d, f.a, f.b.extractLsb' 0 5⟩)
    else if f.b.extractLsb' 5 2 == 2#2 then .ok (.sari f.hdr ⟨f.n, f.d, f.a, f.b.extractLsb' 0 5⟩)
    else .error .unallocatedFunction
  else if f.op == 37#7 then .ok (.movi f.hdr ⟨f.n, f.d, (f.a ++ f.b)⟩)
  else if f.op == 38#7 then .ok (.iadd64 f.hdr ⟨f.n, f.d, f.a, f.b⟩)
  else if f.op == 39#7 then .ok (.addx64 f.hdr ⟨f.n, f.d, f.a, f.b⟩)
  else if f.op == 40#7 then .ok (.isetpI f.hdr ⟨f.d.extractLsb' 5 2, f.d.extractLsb' 0 5, f.a, f.b⟩)
  else if f.op == 41#7 then .ok (.isetpN f.hdr ⟨f.d.extractLsb' 5 2, f.d.extractLsb' 0 5, f.a, f.b⟩)
  else if f.op == 42#7 then .ok (.sel f.hdr ⟨f.n, f.d, f.a, f.b⟩)
  else if f.op == 43#7 then .ok (.plop f.hdr ⟨f.d.extractLsb' 0 5, f.a.extractLsb' 0 5, f.b.extractLsb' 0 5, (f.a.extractLsb' 5 2 ++ f.b.extractLsb' 5 2)⟩)
  else if f.op == 44#7 then
    if f.b == 0#7 then .ok (.p2v f.hdr ⟨f.n, f.d⟩)
    else if f.b == 1#7 then .ok (.v2p f.hdr ⟨f.a⟩)
    else .error .unallocatedFunction
  else if f.op == 45#7 then
    if f.b == 0#7 then .ok (.popc f.hdr ⟨f.n, f.d, f.a⟩)
    else if f.b == 1#7 then .ok (.clz f.hdr ⟨f.n, f.d, f.a⟩)
    else if f.b == 2#7 then .ok (.brev f.hdr ⟨f.n, f.d, f.a⟩)
    else if f.b == 3#7 then .ok (.ctz f.hdr ⟨f.n, f.d, f.a⟩)
    else if f.b == 4#7 then .ok (.lnot f.hdr ⟨f.n, f.d, f.a⟩)
    else if f.b == 5#7 then .ok (.neg f.hdr ⟨f.n, f.d, f.a⟩)
    else if f.b == 6#7 then .ok (.abs f.hdr ⟨f.n, f.d, f.a⟩)
    else .error .unallocatedFunction
  else if f.op == 46#7 then .ok (.bswz f.hdr ⟨f.n, f.d, f.a, f.b⟩)
  else .error .unallocatedMajor

/-- R238, majors 0x30 to 0x3f: the one instruction a word can be, before its zero fields are judged. -/
def candidate3 (f : Fields) (_w1 _w2 : Word) : Except DecErr Instr :=
  if f.op == 48#7 then .ok (.fadd f.hdr ⟨f.n, f.d, f.a, f.b⟩)
  else if f.op == 49#7 then .ok (.fsub f.hdr ⟨f.n, f.d, f.a, f.b⟩)
  else if f.op == 50#7 then .ok (.fmul f.hdr ⟨f.n, f.d, f.a, f.b⟩)
  else if f.op == 51#7 then .ok (.ffma f.hdr ⟨f.n, f.d, f.a, f.b⟩)
  else if f.op == 52#7 then .ok (.fmin f.hdr ⟨f.n, f.d, f.a, f.b⟩)
  else if f.op == 53#7 then .ok (.fmax f.hdr ⟨f.n, f.d, f.a, f.b⟩)
  else if f.op == 54#7 then .ok (.fsetp f.hdr ⟨f.d.extractLsb' 5 2, f.d.extractLsb' 0 5, f.a, f.b⟩)
  else if f.op == 55#7 then
    if f.b == 0#7 then .ok (.fabs f.hdr ⟨f.n, f.d, f.a⟩)
    else if f.b == 1#7 then .ok (.fneg f.hdr ⟨f.n, f.d, f.a⟩)
    else if f.b == 2#7 then .ok (.ffloor f.hdr ⟨f.n, f.d, f.a⟩)
    else if f.b == 3#7 then .ok (.fceil f.hdr ⟨f.n, f.d, f.a⟩)
    else if f.b == 4#7 then .ok (.ftrunc f.hdr ⟨f.n, f.d, f.a⟩)
    else if f.b == 5#7 then .ok (.frint f.hdr ⟨f.n, f.d, f.a⟩)
    else .error .unallocatedFunction
  else if f.op == 56#7 then .ok (.hadd2Bf16 f.hdr ⟨f.n, f.d, f.a, f.b⟩)
  else if f.op == 57#7 then .ok (.hadd2F16 f.hdr ⟨f.n, f.d, f.a, f.b⟩)
  else if f.op == 58#7 then .ok (.hmul2Bf16 f.hdr ⟨f.n, f.d, f.a, f.b⟩)
  else if f.op == 59#7 then .ok (.hmul2F16 f.hdr ⟨f.n, f.d, f.a, f.b⟩)
  else if f.op == 60#7 then .ok (.hfma2Bf16 f.hdr ⟨f.n, f.d, f.a, f.b⟩)
  else if f.op == 61#7 then .ok (.hfma2F16 f.hdr ⟨f.n, f.d, f.a, f.b⟩)
  else if f.op == 62#7 then .ok (.hminmax2Bf16 f.hdr ⟨f.n, f.d, f.a, f.b⟩)
  else if f.op == 63#7 then .ok (.hminmax2F16 f.hdr ⟨f.n, f.d, f.a, f.b⟩)
  else .error .unallocatedMajor

/-- R238, majors 0x40 to 0x4f: the one instruction a word can be, before its zero fields are judged. -/
def candidate4 (f : Fields) (_w1 _w2 : Word) : Except DecErr Instr :=
  if f.op == 64#7 then .ok (.cvt f.hdr ⟨f.n, f.d, f.a, f.b.extractLsb' 4 3, f.b.extractLsb' 1 3, f.b.getLsbD 0⟩)
  else if f.op == 65#7 then
    if f.b == 0#7 then .ok (.rcp f.hdr ⟨f.n, f.d, f.a⟩)
    else if f.b == 1#7 then .ok (.rsqrt f.hdr ⟨f.n, f.d, f.a⟩)
    else if f.b == 2#7 then .ok (.sqrt f.hdr ⟨f.n, f.d, f.a⟩)
    else if f.b == 3#7 then .ok (.ex2 f.hdr ⟨f.n, f.d, f.a⟩)
    else if f.b == 4#7 then .ok (.lg2 f.hdr ⟨f.n, f.d, f.a⟩)
    else if f.b == 5#7 then .ok (.sin f.hdr ⟨f.n, f.d, f.a⟩)
    else if f.b == 6#7 then .ok (.cos f.hdr ⟨f.n, f.d, f.a⟩)
    else if f.b == 7#7 then .ok (.tanh f.hdr ⟨f.n, f.d, f.a⟩)
    else .error .unallocatedFunction
  else if f.op == 66#7 then .ok (.fdiv f.hdr ⟨f.n, f.d, f.a, f.b⟩)
  else if f.op == 67#7 then .ok (.shflIdx f.hdr ⟨f.n, f.d, f.a, f.b⟩)
  else if f.op == 68#7 then .ok (.shflXor f.hdr ⟨f.n, f.d, f.a, f.b⟩)
  else if f.op == 69#7 then .ok (.shflUp f.hdr ⟨f.n, f.d, f.a, f.b⟩)
  else if f.op == 70#7 then .ok (.shflDn f.hdr ⟨f.n, f.d, f.a, f.b⟩)
  else if f.op == 71#7 then
    if f.b.extractLsb' 5 2 == 0#2 then .ok (.voteAll f.hdr ⟨f.d.extractLsb' 0 5, f.b.extractLsb' 0 5⟩)
    else if f.b.extractLsb' 5 2 == 1#2 then .ok (.voteAny f.hdr ⟨f.d.extractLsb' 0 5, f.b.extractLsb' 0 5⟩)
    else if f.b.extractLsb' 5 2 == 2#2 then .ok (.voteBallot f.hdr ⟨f.d, f.b.extractLsb' 0 5⟩)
    else if f.b.extractLsb' 5 2 == 3#2 then .ok (.voteEq f.hdr ⟨f.d.extractLsb' 0 5, f.a⟩)
    else .error .unallocatedFunction
  else if f.op == 72#7 then
    if f.b == 0#7 then .ok (.reduxAdd f.hdr ⟨f.n, f.d, f.a⟩)
    else if f.b == 1#7 then .ok (.reduxMinI f.hdr ⟨f.n, f.d, f.a⟩)
    else if f.b == 2#7 then .ok (.reduxMaxI f.hdr ⟨f.n, f.d, f.a⟩)
    else if f.b == 3#7 then .ok (.reduxMinN f.hdr ⟨f.n, f.d, f.a⟩)
    else if f.b == 4#7 then .ok (.reduxMaxN f.hdr ⟨f.n, f.d, f.a⟩)
    else if f.b == 5#7 then .ok (.reduxAnd f.hdr ⟨f.n, f.d, f.a⟩)
    else if f.b == 6#7 then .ok (.reduxOr f.hdr ⟨f.n, f.d, f.a⟩)
    else if f.b == 7#7 then .ok (.reduxXor f.hdr ⟨f.n, f.d, f.a⟩)
    else if f.b == 8#7 then .ok (.reduxFmin f.hdr ⟨f.n, f.d, f.a⟩)
    else if f.b == 9#7 then .ok (.reduxFmax f.hdr ⟨f.n, f.d, f.a⟩)
    else .error .unallocatedFunction
  else if f.op == 73#7 then .ok (.hbfly f.hdr ⟨f.n, f.d, f.a, f.b.extractLsb' 0 3⟩)
  else if f.op == 74#7 then .ok (.unpk f.hdr ⟨f.n, f.d, f.a, f.b.extractLsb' 4 2, f.b.extractLsb' 0 4⟩)
  else if f.op == 75#7 then .ok (.cbld f.hdr ⟨f.a⟩)
  else if f.op == 76#7 then .ok (.gqcvtQ f.hdr ⟨f.n, f.d, f.a, f.b⟩)
  else if f.op == 77#7 then .ok (.qmap f.hdr ⟨f.d, f.a⟩)
  else if f.op == 78#7 then .ok (.clkrd f.hdr ⟨f.d⟩)
  else if f.op == 79#7 then .ok (.gqcvtF f.hdr ⟨f.n, f.d, f.a, f.b⟩)
  else .error .unallocatedMajor

/-- R238, majors 0x50 to 0x5f: the one instruction a word can be, before its zero fields are judged. -/
def candidate5 (f : Fields) (_w1 _w2 : Word) : Except DecErr Instr :=
  if f.op == 80#7 then .ok (.ld8s f.hdr ⟨f.n, f.d, f.a, f.b.extractLsb' 5 2, f.b.extractLsb' 0 5⟩)
  else if f.op == 81#7 then .ok (.ld8z f.hdr ⟨f.n, f.d, f.a, f.b.extractLsb' 5 2, f.b.extractLsb' 0 5⟩)
  else if f.op == 82#7 then .ok (.ld16s f.hdr ⟨f.n, f.d, f.a, f.b.extractLsb' 5 2, f.b.extractLsb' 0 5⟩)
  else if f.op == 83#7 then .ok (.ld16z f.hdr ⟨f.n, f.d, f.a, f.b.extractLsb' 5 2, f.b.extractLsb' 0 5⟩)
  else if f.op == 84#7 then .ok (.ld32 f.hdr ⟨f.n, f.d, f.a, f.b.extractLsb' 5 2, f.b.extractLsb' 0 5⟩)
  else if f.op == 85#7 then .ok (.ld64 f.hdr ⟨f.n, f.d, f.a, f.b.extractLsb' 5 2, f.b.extractLsb' 0 5⟩)
  else if f.op == 86#7 then .ok (.ld128 f.hdr ⟨f.n, f.d, f.a, f.b.extractLsb' 5 2, f.b.extractLsb' 0 5⟩)
  else if f.op == 88#7 then .ok (.st8 f.hdr ⟨f.n, f.d, f.a, f.b.extractLsb' 5 2, f.b.extractLsb' 0 5⟩)
  else if f.op == 89#7 then .ok (.st16 f.hdr ⟨f.n, f.d, f.a, f.b.extractLsb' 5 2, f.b.extractLsb' 0 5⟩)
  else if f.op == 90#7 then .ok (.st32 f.hdr ⟨f.n, f.d, f.a, f.b.extractLsb' 5 2, f.b.extractLsb' 0 5⟩)
  else if f.op == 91#7 then .ok (.st64 f.hdr ⟨f.n, f.d, f.a, f.b.extractLsb' 5 2, f.b.extractLsb' 0 5⟩)
  else if f.op == 92#7 then .ok (.st128 f.hdr ⟨f.n, f.d, f.a, f.b.extractLsb' 5 2, f.b.extractLsb' 0 5⟩)
  else .error .unallocatedMajor

/-- R238, majors 0x60 to 0x6f: the one instruction a word can be, before its zero fields are judged. -/
def candidate6 (f : Fields) (_w1 _w2 : Word) : Except DecErr Instr :=
  if f.op == 96#7 then .ok (.lds32 f.hdr ⟨f.d, f.a, f.b.extractLsb' 0 5⟩)
  else if f.op == 97#7 then .ok (.lds64 f.hdr ⟨f.d, f.a, f.b.extractLsb' 0 5⟩)
  else if f.op == 98#7 then .ok (.lds128 f.hdr ⟨f.d, f.a, f.b.extractLsb' 0 5⟩)
  else if f.op == 99#7 then .ok (.sts32 f.hdr ⟨f.d, f.a, f.b.extractLsb' 0 5⟩)
  else if f.op == 100#7 then .ok (.sts64 f.hdr ⟨f.d, f.a, f.b.extractLsb' 0 5⟩)
  else if f.op == 101#7 then .ok (.sts128 f.hdr ⟨f.d, f.a, f.b.extractLsb' 0 5⟩)
  else if f.op == 102#7 then
    if f.b.extractLsb' 3 4 == 0#4 then .ok (.atom32Add f.hdr ⟨f.n, f.d, f.a, f.b.extractLsb' 0 3⟩)
    else if f.b.extractLsb' 3 4 == 1#4 then .ok (.atom32And f.hdr ⟨f.n, f.d, f.a, f.b.extractLsb' 0 3⟩)
    else if f.b.extractLsb' 3 4 == 2#4 then .ok (.atom32Or f.hdr ⟨f.n, f.d, f.a, f.b.extractLsb' 0 3⟩)
    else if f.b.extractLsb' 3 4 == 3#4 then .ok (.atom32Xor f.hdr ⟨f.n, f.d, f.a, f.b.extractLsb' 0 3⟩)
    else if f.b.extractLsb' 3 4 == 4#4 then .ok (.atom32MinI f.hdr ⟨f.n, f.d, f.a, f.b.extractLsb' 0 3⟩)
    else if f.b.extractLsb' 3 4 == 5#4 then .ok (.atom32MaxI f.hdr ⟨f.n, f.d, f.a, f.b.extractLsb' 0 3⟩)
    else if f.b.extractLsb' 3 4 == 6#4 then .ok (.atom32MinN f.hdr ⟨f.n, f.d, f.a, f.b.extractLsb' 0 3⟩)
    else if f.b.extractLsb' 3 4 == 7#4 then .ok (.atom32MaxN f.hdr ⟨f.n, f.d, f.a, f.b.extractLsb' 0 3⟩)
    else if f.b.extractLsb' 3 4 == 8#4 then .ok (.atom32Exch f.hdr ⟨f.n, f.d, f.a, f.b.extractLsb' 0 3⟩)
    else if f.b.extractLsb' 3 4 == 9#4 then .ok (.atom32Cas f.hdr ⟨f.n, f.d, f.a, f.b.extractLsb' 0 3⟩)
    else if f.b.extractLsb' 3 4 == 10#4 then .ok (.atom32Fadd f.hdr ⟨f.n, f.d, f.a, f.b.extractLsb' 0 3⟩)
    else if f.b.extractLsb' 3 4 == 11#4 then .ok (.atom32Fmin f.hdr ⟨f.n, f.d, f.a, f.b.extractLsb' 0 3⟩)
    else if f.b.extractLsb' 3 4 == 12#4 then .ok (.atom32Fmax f.hdr ⟨f.n, f.d, f.a, f.b.extractLsb' 0 3⟩)
    else .error .unallocatedFunction
  else if f.op == 103#7 then
    if f.b.extractLsb' 3 4 == 0#4 then .ok (.atom64Add f.hdr ⟨f.n, f.d, f.a, f.b.extractLsb' 0 3⟩)
    else if f.b.extractLsb' 3 4 == 1#4 then .ok (.atom64And f.hdr ⟨f.n, f.d, f.a, f.b.extractLsb' 0 3⟩)
    else if f.b.extractLsb' 3 4 == 2#4 then .ok (.atom64Or f.hdr ⟨f.n, f.d, f.a, f.b.extractLsb' 0 3⟩)
    else if f.b.extractLsb' 3 4 == 3#4 then .ok (.atom64Xor f.hdr ⟨f.n, f.d, f.a, f.b.extractLsb' 0 3⟩)
    else if f.b.extractLsb' 3 4 == 4#4 then .ok (.atom64MinI f.hdr ⟨f.n, f.d, f.a, f.b.extractLsb' 0 3⟩)
    else if f.b.extractLsb' 3 4 == 5#4 then .ok (.atom64MaxI f.hdr ⟨f.n, f.d, f.a, f.b.extractLsb' 0 3⟩)
    else if f.b.extractLsb' 3 4 == 6#4 then .ok (.atom64MinN f.hdr ⟨f.n, f.d, f.a, f.b.extractLsb' 0 3⟩)
    else if f.b.extractLsb' 3 4 == 7#4 then .ok (.atom64MaxN f.hdr ⟨f.n, f.d, f.a, f.b.extractLsb' 0 3⟩)
    else if f.b.extractLsb' 3 4 == 8#4 then .ok (.atom64Exch f.hdr ⟨f.n, f.d, f.a, f.b.extractLsb' 0 3⟩)
    else if f.b.extractLsb' 3 4 == 9#4 then .ok (.atom64Cas f.hdr ⟨f.n, f.d, f.a, f.b.extractLsb' 0 3⟩)
    else .error .unallocatedFunction
  else if f.op == 104#7 then
    if f.b.extractLsb' 3 4 == 0#4 then .ok (.atoms32Add f.hdr ⟨f.d, f.a, f.b.extractLsb' 0 3⟩)
    else if f.b.extractLsb' 3 4 == 1#4 then .ok (.atoms32And f.hdr ⟨f.d, f.a, f.b.extractLsb' 0 3⟩)
    else if f.b.extractLsb' 3 4 == 2#4 then .ok (.atoms32Or f.hdr ⟨f.d, f.a, f.b.extractLsb' 0 3⟩)
    else if f.b.extractLsb' 3 4 == 3#4 then .ok (.atoms32Xor f.hdr ⟨f.d, f.a, f.b.extractLsb' 0 3⟩)
    else if f.b.extractLsb' 3 4 == 4#4 then .ok (.atoms32MinI f.hdr ⟨f.d, f.a, f.b.extractLsb' 0 3⟩)
    else if f.b.extractLsb' 3 4 == 5#4 then .ok (.atoms32MaxI f.hdr ⟨f.d, f.a, f.b.extractLsb' 0 3⟩)
    else if f.b.extractLsb' 3 4 == 6#4 then .ok (.atoms32MinN f.hdr ⟨f.d, f.a, f.b.extractLsb' 0 3⟩)
    else if f.b.extractLsb' 3 4 == 7#4 then .ok (.atoms32MaxN f.hdr ⟨f.d, f.a, f.b.extractLsb' 0 3⟩)
    else if f.b.extractLsb' 3 4 == 8#4 then .ok (.atoms32Exch f.hdr ⟨f.d, f.a, f.b.extractLsb' 0 3⟩)
    else if f.b.extractLsb' 3 4 == 9#4 then .ok (.atoms32Cas f.hdr ⟨f.d, f.a, f.b.extractLsb' 0 3⟩)
    else if f.b.extractLsb' 3 4 == 10#4 then .ok (.atoms32Fadd f.hdr ⟨f.d, f.a, f.b.extractLsb' 0 3⟩)
    else if f.b.extractLsb' 3 4 == 11#4 then .ok (.atoms32Fmin f.hdr ⟨f.d, f.a, f.b.extractLsb' 0 3⟩)
    else if f.b.extractLsb' 3 4 == 12#4 then .ok (.atoms32Fmax f.hdr ⟨f.d, f.a, f.b.extractLsb' 0 3⟩)
    else .error .unallocatedFunction
  else if f.op == 105#7 then
    if f.b.extractLsb' 3 4 == 0#4 then .ok (.fenceAcq f.hdr ⟨f.b.extractLsb' 0 3⟩)
    else if f.b.extractLsb' 3 4 == 1#4 then .ok (.fenceRel f.hdr ⟨f.b.extractLsb' 0 3⟩)
    else if f.b.extractLsb' 3 4 == 2#4 then .ok (.fenceFull f.hdr ⟨f.b.extractLsb' 0 3⟩)
    else .error .unallocatedFunction
  else if f.op == 106#7 then .ok (.qfence f.hdr ⟨f.a⟩)
  else if f.op == 107#7 then .ok (.flush f.hdr ⟨f.n, f.d, f.a⟩)
  else if f.op == 108#7 then .ok (.prefetch f.hdr ⟨f.n, f.a, f.b.extractLsb' 5 2, f.b.extractLsb' 0 5⟩)
  else .error .unallocatedMajor

/-- R238, majors 0x70 to 0x7f: the one instruction a word can be, before its zero fields are judged. -/
def candidate7 (f : Fields) (_w1 _w2 : Word) : Except DecErr Instr :=
  if f.op == 112#7 then .ok (.mxs f.hdr ⟨f.a, f.b.extractLsb' 3 4, f.b.extractLsb' 0 3⟩)
  else if f.op == 113#7 then .ok (.mxrd f.hdr ⟨f.d, f.a, f.b.extractLsb' 0 3⟩)
  else if f.op == 114#7 then .ok (.mxstat f.hdr ⟨f.d, f.b.extractLsb' 0 3⟩)
  else if f.op == 115#7 then .ok (.smx f.hdr ⟨f.a, f.b.extractLsb' 3 4, f.b.extractLsb' 0 3⟩)
  else if f.op == 116#7 then .ok (.cpbox f.hdr ⟨f.d, f.a, f.b.extractLsb' 3 4, f.b.extractLsb' 0 3⟩)
  else if f.op == 117#7 then .ok (.cplin f.hdr ⟨f.d, f.a, f.b.extractLsb' 3 4, f.b.extractLsb' 0 3⟩)
  else if f.op == 118#7 then .ok (.stcfg f.hdr ⟨f.a, f.b.extractLsb' 0 3⟩)
  else if f.op == 119#7 then .ok (.rtplan f.hdr ⟨f.d, f.a, f.b.extractLsb' 3 4, f.b.extractLsb' 0 2⟩)
  else if f.op == 120#7 then .ok (.rtscat f.hdr ⟨f.d, f.a, f.b.extractLsb' 3 4, f.b.extractLsb' 0 2⟩)
  else if f.op == 121#7 then .ok (.rtcomb f.hdr ⟨f.d, f.a, f.b.extractLsb' 3 4, f.b.extractLsb' 0 2⟩)
  else if f.op == 122#7 then .ok (.nmcall f.hdr ⟨f.a, f.b.extractLsb' 3 4⟩)
  else if f.op == 123#7 then .ok (.cntadd f.hdr ⟨f.n, f.d, f.a, f.b.extractLsb' 0 3⟩)
  else if f.op == 124#7 then .ok (.sysrd f.hdr ⟨f.d, (f.a ++ f.b)⟩)
  else if f.op == 125#7 then (if (f.a ++ f.b) == 0x40#14 then .ok (.flagsWrite f.hdr ⟨f.d⟩) else .ok (.syswr f.hdr ⟨f.d, (f.a ++ f.b)⟩))
  else if f.op == 126#7 then .ok (.trapret f.hdr)
  else if f.op == 127#7 then
    if f.b.extractLsb' 0 3 == 1#3 then .ok (.nmbkMac f.hdr ⟨f.a, f.b.getLsbD 6, f.b.getLsbD 5, f.b.getLsbD 4⟩)
    else if f.b.extractLsb' 0 3 == 2#3 then .ok (.nmbkBcst f.hdr ⟨f.d, f.a, f.b.getLsbD 6⟩)
    else if f.b.extractLsb' 0 3 == 3#3 then .ok (.nmbkRdac f.hdr ⟨f.d, f.a, f.b.getLsbD 5, f.b.getLsbD 4⟩)
    else if f.b.extractLsb' 0 3 == 4#3 then .ok (.nmbkLmac f.hdr ⟨f.d.extractLsb' 0 2, f.a, f.b.getLsbD 5⟩)
    else .error .unallocatedFunction
  else .error .unallocatedMajor

/-- R238: by row of the opcode map. -/
def candidate (f : Fields) (w1 w2 : Word) : Except DecErr Instr :=
  let r := f.op.extractLsb' 4 3
  if r == 0#3 then candidate0 f w1 w2
  else if r == 1#3 then candidate1 f w1 w2
  else if r == 2#3 then candidate2 f w1 w2
  else if r == 3#3 then candidate3 f w1 w2
  else if r == 4#3 then candidate4 f w1 w2
  else if r == 5#3 then candidate5 f w1 w2
  else if r == 6#3 then candidate6 f w1 w2
  else candidate7 f w1 w2

/-- Decoding of one instruction from a word and the words after it (`w1`, `w2`: zero where there are none). A word
that its own instruction would not encode to has a nonzero reserved field (R226, R413). -/
def decodeWord (w w1 w2 : Word) : Except DecErr Instr :=
  match candidate (Fields.ofWord w) w1 w2 with
  | .error e => .error e
  | .ok i =>
    match i.fields with
    | none => .error .unallocatedMajor
    | some (f, _) => if f = Fields.ofWord w ∧ i.wf = true then .ok i else .error .reservedField

/-- How many data words follow the first word of an instruction (R216). -/
def Instr.dataWords : Instr → Nat
  | .lit32 _ _ => 1
  | .brm _ _ => 2
  | _ => 0

/-- Decoding from a list of words: the instruction and the words after it. Total on any words. -/
def decode : List Word → Except DecErr (Instr × List Word)
  | [] => .error .truncated
  | w :: ws =>
    match decodeWord w (ws.headD 0#32) ((ws.drop 1).headD 0#32) with
    | .error e => .error e
    | .ok i => if ws.length < i.dataWords then .error .truncated else .ok (i, ws.drop i.dataWords)

/-- R217, R218: the pipes; NOP has none. -/
inductive Pipe where
  | k | v | x | m
  deriving DecidableEq, Repr

/-- R218: by the range of the major opcode. -/
def pipeOf (op : BitVec 7) : Pipe :=
  if op.toNat < 0x10 ∨ 0x70 ≤ op.toNat then .k
  else if op.toNat < 0x40 then .v
  else if op.toNat < 0x50 then .x
  else .m

/-- The instruction the decoder reads from bits numbered as the opcode table numbers them: word 0 of a packet is bits
[31:0], word 1 bits [63:32] and word 2 bits [95:64] (R2, R216); every bit above `nbits` is 0. -/
def decodeTableWord (nbits w : Nat) : Option Instr :=
  let w := w % 2 ^ nbits
  match decodeWord (BitVec.ofNat 32 w) (BitVec.ofNat 32 (w / 2 ^ 32)) (BitVec.ofNat 32 (w / 2 ^ 64)) with
  | .ok i => some i
  | .error _ => none

end Sys2Proof
end

