-- ==== Sys2Proof/Config.lean ====
section
/-! DEFINITION. What the manual leaves open, as opaque constants (free values) with no body, and the fixed
figures of the part (spec 01). A statement that mentions a free value holds for every value of it. -/

namespace Sys2Proof.Config

/-- FREE VALUE (DESIGN CHOICE, log entry 4). The F32 bits that SFU function `fn` (3 EX2, 4 LG2, 5 SIN, 6 COS, 7 TANH) returns for
`a` where R287 gives an accuracy and no bits. The same bits for the same input on every run (R287). -/
opaque sfuBits : (fn : Nat) → (a : Word) → Word

/-- FREE VALUE (DESIGN CHOICE, log entry 7). The promise an engine estimates at acceptance (R188), by draw number. -/
opaque promise : Nat → Dword

/-- FREE VALUE (DESIGN CHOICE, log entry 5). A byte of host memory, at a host physical address nothing has written. -/
opaque hostByte : Nat → Byte

/-- FREE VALUE (DESIGN CHOICE, log entry 6). A byte that another device of the pod answers with, by draw number and byte index. -/
opaque peerByte : Nat → Nat → Byte

/-- FREE VALUE (DESIGN CHOICE, log entry 6). Whether another agent has changed a byte that this device wrote to a peer, by draw number
and byte index. -/
opaque peerChanged : Nat → Nat → Bool

/-- FREE VALUE (DESIGN CHOICE, log entry 6). Whether a peer refuses an access (R376), by draw number, CLK and IA, and whether what it
answers is poisoned (R460), by draw number. -/
opaque peerRefuses : Nat → Nat → Nat → Bool
opaque peerPoison : Nat → Bool

/-- FREE VALUE (DESIGN CHOICE, log entry 6). Whether the answer of a peer to an engine's or an increment's request comes in a cc (R455), by CLK
and the request's number. -/
opaque peerAnswers : Nat → Nat → Bool

/-- FREE VALUE (DESIGN CHOICE, log entry 5). Whether the host answers a CXL.cache access with an error (R458), by draw number and
CLK. -/
opaque hostError : Nat → Nat → Bool

/-- FREE VALUE (DESIGN CHOICE, log entry 12). The nonce of an SPDM response (R475), by draw number. -/
opaque spdmNonce : Nat → List Byte

/-- FREE VALUE (DESIGN CHOICE, log entry 1). Which of the events that may happen in a cc do happen, and in which order, by CLK: all of
them in the order of the list, or those at the given indices of it. -/
opaque asyncPick : Nat → Option (List Nat)

/-- FREE VALUE (DESIGN CHOICE, log entry 1). The same for the acts of the base dies at an edge of the memory clock, by CLK. -/
opaque basePick : Nat → Option (List Nat)

/-- FREE VALUE (DESIGN CHOICE, log entry 10). Whether a translator uses a cached entry it still holds (R129), by draw number. -/
opaque tlbHit : Nat → Bool

/-- FREE VALUE (DESIGN CHOICE, log entry 9). How many pending invalidation notifications a core applies in a cc (R149), by CLK
and core. -/
opaque notesApplied : Nat → Nat → Nat

/-- FREE VALUE (DESIGN CHOICE, log entry 9). Which of the lines that a die's L2 holds dirty it writes back in a cc without being asked to, by CLK
and die: the one at the index, if there is one. -/
opaque l2Back : Nat → Nat → Nat

/-- FREE VALUE (DESIGN CHOICE, log entry 12). The SM2 signature of an SPDM response over its transcript (R475). -/
opaque sm2Sign : (slot : Nat) → (transcript : List Byte) → List Byte

/-- FREE VALUE (DESIGN CHOICE, log entry 12). The SM3 digest of a byte string (R474 to R476). -/
opaque sm3 : List Byte → List Byte

/-- FREE VALUE (DESIGN CHOICE, log entry 12). Whether an SM2 signature of a digest verifies under a public key (R474). -/
opaque sm2Verify : (key digest sig : List Byte) → Bool

/-- FREE VALUE (DESIGN CHOICE, log entry 70). Whether the step of the reset sequence that runs ends in a cc, before its bound has come (R473),
by CLK and step. -/
opaque bootDone : Nat → Nat → Bool

/-- FREE VALUE (DESIGN CHOICE, log entry 12). The certificate chain of a slot (R475), by slot and accepted firmware digest. -/
opaque certChain : (slot : Nat) → (fw : List Byte) → List Byte

/-- FREE VALUE (DESIGN CHOICE, log entry 12). The bytes of the root ROM (R476). -/
opaque rootRom : List Byte

/-- FREE VALUE (DESIGN CHOICE, log entry 12). The base-die microcode that an accepted firmware image loads (R473, R476). -/
opaque microcode : (image : List Byte) → List Byte

/-- FREE VALUE (DESIGN CHOICE, log entry 12). Fields of an SPDM CAPABILITIES response that the manual gives no value: 0 CTExponent,
1 DataTransferSize, 2 MaxSPDMmsgSize. -/
opaque spdmSize : Nat → Nat

/-- FREE VALUE (DESIGN CHOICE, log entry 13). Whether a store that a killed thread has issued and that has not left its queue, a trap frame's
among them, is performed or discarded (R427), by draw number. -/
opaque killedStore : Nat → Bool

/-- FREE VALUE (DESIGN CHOICE, log entry 15). What the temperature sensor of a die reads at the end of a power window, by die and window
number: a 16-bit reading (R477, R478). -/
opaque sensorTemp : Nat → Nat → Word

/-- FREE VALUE (DESIGN CHOICE, log entry 16). Spare rows of each bank, and spare banks, of a stack (R130, R479). -/
opaque spareRows : Nat → Nat
opaque spareBanks : Nat → Nat

/-- FREE VALUE (DESIGN CHOICE, log entry 16). Which two of the working lanes of a port are the best (R479), by draw number. -/
opaque bestLanes : Nat → Nat

/-- FREE VALUE (DESIGN CHOICE, log entry 17). What a read-only register of the CXL link capability block reads (R367), by offset and CLK. -/
opaque cxlLink : Nat → Nat → Word

/-- FREE VALUE (DESIGN CHOICE, log entry 17). What a word of the configuration space outside the register locator DVSEC reads, by offset. -/
opaque cfgSpace : Nat → Word

/-! ## Figures of the part (R11 to R23) -/

/-- R17: row slots of a core. -/
def rowSlots : Nat := 32
/-- R18: 32-bit registers of a lane column. -/
def laneRegs : Nat := 1536
/-- R17, R119: 32-byte units of a core's scratchpad. -/
def scrUnits : Nat := 12288
/-- R196: a 64 KiB register file over 16 lanes. -/
def rhizoidLaneRegs : Nat := 1024
/-- R196: row slots of a rhizoid core. -/
def rhizoidRows : Nat := 16
/-- R130: the first SPA that names no DRAM. -/
def spaLimit : Nat := 0xFFFC00000
/-- R71: cc of a power window. -/
def windowCc : Nat := 1800
/-- R20: cc in one microsecond at 1.8 GHz. -/
def ccPerUs : Nat := 1800
/-- R152, R153: the lease of a copy of an off-die line. -/
def leaseCc : Nat := 8192
/-- R205: the first VA of a rhizoid frame. -/
def frameVa : Nat := 0x1FFFFFFFFF00000
/-- R456, R461: what a load of a lost peer or of poison writes to each word. -/
def poisonWord : Word := 0x7FC0DEAD#32

end Sys2Proof.Config
end

