-- ==== Sys2Proof/Machine/Num.lean ====
section
/-! DEFINITION. Number formats and exact arithmetic (spec 04, R88 to R113): exact values, the one rounding, conversions,
blocks, KG64. -/

namespace Sys2Proof.Machine.Num

/-- An exact value: a NaN, an infinity, or (-1)^neg times m times 2^e (a zero keeps its sign). -/
inductive Val where
  | nan
  | inf (neg : Bool)
  | fin (neg : Bool) (m : Nat) (e : Int)
  deriving DecidableEq, Repr

/-- R88: a floating format. `p` counts the hidden bit; `qmin` is the exponent of the smallest subnormal. -/
structure Fmt where
  width : Nat
  p : Nat
  qmin : Int
  maxBits : Nat
  infBits : Option Nat
  nanBits : Nat
  /-- R98: a finite value beyond the range saturates. -/
  sat : Bool
  deriving DecidableEq, Repr

def f32 : Fmt := ⟨32, 24, -149, 0x7F7FFFFF, some 0x7F800000, 0x7FC00000, false⟩
def bf16 : Fmt := ⟨16, 8, -133, 0x7F7F, some 0x7F80, 0x7FC0, false⟩
def f16 : Fmt := ⟨16, 11, -24, 0x7BFF, some 0x7C00, 0x7E00, false⟩
def e4m3 : Fmt := ⟨8, 4, -9, 0x7E, none, 0x7F, true⟩
def e5m2 : Fmt := ⟨8, 3, -16, 0x7B, some 0x7C, 0x7E, true⟩

/-- R58: the five flags, bit 4 invalid, 3 divide-by-zero, 2 overflow, 1 underflow, 0 inexact. -/
abbrev Flags := BitVec 5
def fInvalid : Flags := 16#5
def fDivZero : Flags := 8#5
def fOverflow : Flags := 4#5
def fUnderflow : Flags := 2#5
def fInexact : Flags := 1#5

def Val.isNan : Val → Bool
  | .nan => true
  | _ => false

def Val.isZero : Val → Bool
  | .fin _ 0 _ => true
  | _ => false

def Val.isInf : Val → Bool
  | .inf _ => true
  | _ => false

def Val.neg : Val → Bool
  | .nan => false
  | .inf s => s
  | .fin s _ _ => s

def Val.negate : Val → Val
  | .nan => .nan
  | .inf s => .inf (!s)
  | .fin s m e => .fin (!s) m e

def Val.abs : Val → Val
  | .nan => .nan
  | .inf _ => .inf false
  | .fin _ m e => .fin false m e

/-- R88: the exact value of an encoding. -/
def decode (f : Fmt) (bits : Nat) : Val :=
  let s := nbit bits (f.width - 1)
  let x := bits % 2 ^ (f.width - 1)
  let ef := x / 2 ^ (f.p - 1)
  let fr := x % 2 ^ (f.p - 1)
  if f.infBits = some x then .inf s
  else if f.maxBits < x then .nan
  else if ef = 0 then .fin s fr f.qmin
  else .fin s (2 ^ (f.p - 1) + fr) (f.qmin + (ef : Int) - 1)

/-- One rounding of m times 2^e (m positive) to precision `p` at a quantum not below `qmin` (where one is given):
the significand, its exponent and whether the value changed. -/
def roundMag (p : Nat) (qmin : Option Int) (rz : Bool) (m : Nat) (e : Int) : Nat × Int × Bool :=
  let q0 : Int := (Nat.log2 m : Int) + e - ((p : Int) - 1)
  let q : Int := match qmin with
    | some k => if q0 < k then k else q0
    | none => q0
  if q ≤ e then (m * 2 ^ (e - q).toNat, q, false)
  else
    let s := (q - e).toNat
    let hi := m / 2 ^ s
    let rem := m % 2 ^ s
    let half := 2 ^ (s - 1)
    let up := !rz && (decide (half < rem) || (rem == half && hi % 2 == 1))
    (if up then hi + 1 else hi, q, rem != 0)

/-- The signed encoding. -/
def putSign (f : Fmt) (s : Bool) (x : Nat) : Nat := if s then x + 2 ^ (f.width - 1) else x

/-- R98, R105, R284: one rounding of an exact value to `f`, to nearest even or toward zero, with its flags. -/
def roundTo (f : Fmt) (rz : Bool) : Val → Nat × Flags
  | .nan => (f.nanBits, 0#5)
  | .inf s => match f.infBits with
    | some i => (putSign f s i, 0#5)
    | none => (putSign f s f.maxBits, fInexact)
  | .fin s 0 _ => (putSign f s 0, 0#5)
  | .fin s m e =>
    let (mn, qn, _) := roundMag f.p (some f.qmin) false m e
    if f.maxBits < (qn - f.qmin).toNat * 2 ^ (f.p - 1) + mn then
      (putSign f s (if rz || f.sat then f.maxBits else f.infBits.getD f.maxBits), fOverflow ||| fInexact)
    else
      let (mt, q, ix) := roundMag f.p (some f.qmin) rz m e
      let bits := (q - f.qmin).toNat * 2 ^ (f.p - 1) + mt
      let (mu, qu, _) := roundMag f.p none rz m e
      let tiny := decide ((Nat.log2 mu : Int) + qu < f.qmin + ((f.p : Int) - 1))
      (putSign f s (if f.maxBits < bits then f.maxBits else bits),
        (if ix then fInexact else 0#5) ||| (if ix && tiny then fUnderflow else 0#5))

/-- R98: rne_fmt. -/
def rne (f : Fmt) (x : Val) : Nat := (roundTo f false x).1

/-- m times 2^e as an integer over 2^k, for k not above e. -/
def alignTo (k : Int) (s : Bool) (m : Nat) (e : Int) : Int :=
  let x : Int := (m * 2 ^ (e - k).toNat : Nat)
  if s then -x else x

/-- A dyadic number as a value; an exact zero is +0. -/
def ofInt (x : Int) (e : Int) : Val := .fin (decide (x < 0)) x.natAbs e

/-- The exact sum (R103): infinities of both signs give a NaN; an exact zero is +0 unless both are -0. -/
def add : Val → Val → Val
  | .nan, _ => .nan
  | .inf _, .nan => .nan
  | .inf s, .inf t => if s == t then .inf s else .nan
  | .inf s, .fin _ _ _ => .inf s
  | .fin _ _ _, .nan => .nan
  | .fin _ _ _, .inf t => .inf t
  | .fin s m e, .fin t n d =>
    if m == 0 && n == 0 then .fin (s && t) 0 0
    else
      let k := if e < d then e else d
      ofInt (alignTo k s m e + alignTo k t n d) k

/-- The exact product. -/
def mul : Val → Val → Val
  | .nan, _ => .nan
  | .inf _, .nan => .nan
  | .inf s, .inf t => .inf (s != t)
  | .inf s, .fin t n _ => if n == 0 then .nan else .inf (s != t)
  | .fin _ _ _, .nan => .nan
  | .fin s m _, .inf t => if m == 0 then .nan else .inf (s != t)
  | .fin s m e, .fin t n d => .fin (s != t) (m * n) (e + d)

/-- The quotient of two magnitudes, with a sticky bit below 60 correct bits. -/
def divMag (m : Nat) (n : Nat) : Nat × Int :=
  let k := 62 + Nat.log2 n
  let x := m * 2 ^ k
  (2 * (x / n) + (if x % n == 0 then 0 else 1), -((k : Int) + 1))

/-- The quotient, good for one rounding to any format of R88, and its divide-by-zero flag (R104). -/
def div : Val → Val → Val × Flags
  | .nan, _ => (.nan, 0#5)
  | _, .nan => (.nan, 0#5)
  | .inf _, .inf _ => (.nan, fInvalid)
  | .inf s, .fin t _ _ => (.inf (s != t), 0#5)
  | .fin s _ _, .inf t => (.fin (s != t) 0 0, 0#5)
  | .fin s m e, .fin t n d =>
    if n == 0 then (if m == 0 then (.nan, fInvalid) else (.inf (s != t), fDivZero))
    else if m == 0 then (.fin (s != t) 0 0, 0#5)
    else
      let (q, k) := divMag m n
      (.fin (s != t) q (e - d + k), 0#5)

/-- The integer square root by bits: `k` counts the bits left, `r` is the root so far. -/
def isqrtGo (n : Nat) : Nat → Nat → Nat
  | 0, r => r
  | k + 1, r => let t := r + 2 ^ k; isqrtGo n k (if t * t ≤ n then t else r)

def isqrt (n : Nat) : Nat := isqrtGo n (Nat.log2 n / 2 + 1) 0

/-- The square root of a nonnegative value, with a sticky bit below at least 40 correct bits. -/
def sqrtVal : Val → Val × Flags
  | .nan => (.nan, 0#5)
  | .inf s => if s then (.nan, fInvalid) else (.inf false, 0#5)
  | .fin s m e =>
    if m == 0 then (.fin s 0 0, 0#5)
    else if s then (.nan, fInvalid)
    else
      let odd := e % 2 != 0
      let m1 := (if odd then 2 * m else m) * 2 ^ 100
      let e1 := (if odd then e - 1 else e) / 2 - 50
      let r := isqrt m1
      (.fin false (2 * r + (if r * r == m1 then 0 else 1)) (e1 - 1), 0#5)

/-- R104, R287: the reciprocal square root. -/
def rsqrtVal : Val → Val × Flags
  | .nan => (.nan, 0#5)
  | .inf s => if s then (.nan, fInvalid) else (.fin false 0 0, 0#5)
  | .fin s m e =>
    if m == 0 then (.inf s, fDivZero)
    else if s then (.nan, fInvalid)
    else
      let odd := e % 2 != 0
      let m1 := if odd then 2 * m else m
      let e1 := (if odd then e - 1 else e) / 2
      let k := 50 + Nat.log2 m1
      let r := isqrt (2 ^ (2 * k) / m1)
      (.fin false (2 * r + (if r * r * m1 == 2 ^ (2 * k) then 0 else 1)) (-e1 - (k : Int) - 1), 0#5)

/-- The order of two values that are not NaN (zeros are equal): .lt, .eq or .gt. -/
def cmp (a b : Val) : Ordering :=
  match add a b.negate with
  | .nan => .eq
  | .inf s => if s then .lt else .gt
  | .fin s m _ => if m == 0 then .eq else if s then .lt else .gt

/-- a is below or equal to b; false where either is a NaN. -/
def le (a b : Val) : Bool := !a.isNan && !b.isNan && cmp a b != .gt

def lt (a b : Val) : Bool := !a.isNan && !b.isNan && cmp a b == .lt

/-- A value rounded to an integer (to nearest even, or toward zero), and whether it changed. -/
def toInt (rz : Bool) (s : Bool) (m : Nat) (e : Int) : Int × Bool :=
  if 0 ≤ e then
    let x : Int := (m * 2 ^ e.toNat : Nat)
    (if s then -x else x, false)
  else
    let k := (-e).toNat
    let hi := m / 2 ^ k
    let rem := m % 2 ^ k
    let half := 2 ^ (k - 1)
    let up := !rz && (decide (half < rem) || (rem == half && hi % 2 == 1))
    let r : Int := ((if up then hi + 1 else hi : Nat) : Int)
    (if s then -r else r, rem != 0)

/-- R98, R284: conversion to an integer format spanning lo to hi, with its flags. -/
def toIntFmt (lo hi : Int) (rz : Bool) : Val → Int × Flags
  | .nan => (0, fInvalid)
  | .inf s => (if s then lo else hi, fInvalid)
  | .fin s m e =>
    let (r, ix) := toInt rz s m e
    if r < lo then (lo, fInvalid) else if hi < r then (hi, fInvalid)
    else (r, if ix then fInexact else 0#5)

/-- An integer as an exact value. -/
def ofI (x : Int) : Val := ofInt x 0

/-! ## Element formats (R97) -/

/-- R88, R90, R92: the exact value of element code `x` of format `fmt` (R97), with the codebook of CB4. -/
def elem (book : List Nat) (fmt x : Nat) : Val :=
  if fmt == 1 then decode f32 x
  else if fmt == 2 then decode bf16 x
  else if fmt == 3 then decode f16 x
  else if fmt == 4 then decode e4m3 x
  else if fmt == 5 then decode e5m2 x
  else if fmt == 6 then ofI (sextNat x 8)
  else if fmt == 7 then ofI (sextNat x 4)
  else if fmt == 8 then decode bf16 (book.getD x 0)
  else if fmt == 9 then ofI (sextNat x 32)
  else ofI (sextNat x 64)

/-- Bits of an element of a format code (R88, R90, R91). -/
def elemBits (fmt : Nat) : Nat :=
  if fmt == 1 || fmt == 9 then 32 else if fmt == 2 || fmt == 3 then 16
  else if fmt == 7 || fmt == 8 then 4 else if fmt == 10 then 64 else 8

/-- The floating format of a code, where it is one. -/
def fmtOf (fmt : Nat) : Option Fmt :=
  if fmt == 1 then some f32 else if fmt == 2 then some bf16 else if fmt == 3 then some f16
  else if fmt == 4 then some e4m3 else if fmt == 5 then some e5m2 else none

/-- The distance of two values that are not NaN. -/
def dist (a b : Val) : Val := (add a b.negate).abs

/-- The least index whose entry satisfies `p`. -/
def leastIdx (p : Val → Bool) : List Val → Nat → Option Nat
  | [], _ => none
  | x :: xs, i => if p x then some i else leastIdx p xs (i + 1)

/-- The least index whose key is least. -/
def argMin (key : Val → Option Val) : List Val → Nat → Option (Nat × Val) → Option (Nat × Val)
  | [], _, best => best
  | x :: xs, i, best =>
    let best' := match key x, best with
      | none, b => b
      | some k, none => some (i, k)
      | some k, some (j, kb) => if lt k kb then some (i, k) else some (j, kb)
    argMin key xs (i + 1) best'

/-- R101: the CB4 code of value `x` at scale `s`: the least code minimising the distance to x / s, over entries that
are not NaN (the distance is compared after multiplying by s). -/
def cb4Code (book : List Nat) (s x : Val) : Nat :=
  let es := book.map (decode bf16)
  match x with
  | .nan => (leastIdx Val.isNan es 0).getD 0
  | .inf neg =>
    let real := es.filter (fun v => !v.isNan)
    match leastIdx (fun v => v == .inf neg) es 0 with
    | some c => c
    | none =>
      match argMin (fun v => if v.isNan then none else some (if neg then v else v.negate)) es 0 none with
      | some (c, _) => if real.isEmpty then 0 else c
      | none => 0
  | .fin .. =>
    match argMin (fun v => if v.isNan then none else some (if v.isInf then .inf false else dist x (mul v s))) es 0 none with
    | some (c, _) => c
    | none => 0

/-- R95: the scale of a SCALE byte other than 0xFF. -/
def scaleVal (b : Nat) : Val := .fin false (4 + b % 4) ((b / 4 : Nat) - 33)

/-- R101: x / scale(b), good for one rounding to a block format. -/
def unscale (x : Val) (b : Nat) : Val :=
  match x with
  | .fin s m e =>
    if m == 0 then .fin s 0 0
    else
      let (q, k) := divMag m (4 + b % 4)
      .fin s q (e - ((b / 4 : Nat) - 33) + k)
  | v => v

/-- The maximum of magnitudes. -/
def maxAbs (xs : List Val) : Val :=
  xs.foldl (fun m x => if lt m x.abs then x.abs else m) (.fin false 0 0)

/-- R101: T(f), the largest finite value of a block format; for CB4 the largest magnitude in the codebook, where it has
an entry that is no NaN. -/
def blockMax (book : List Nat) (fmt : Nat) : Option Val :=
  if fmt == 4 then some (ofI 448) else if fmt == 5 then some (ofI 57344) else if fmt == 6 then some (ofI 127)
  else if fmt == 7 then some (ofI 7)
  else if fmt == 8 then
    let es := (book.map (decode bf16)).filter (fun v => !v.isNan)
    if es.isEmpty then none else some (maxAbs es)
  else some (decode bf16 0x7F7F)

/-- R101: the least SCALE byte that suffices, searched upward with fuel. -/
def leastScale (t mx : Val) : Nat → Nat → Nat
  | 0, b => b
  | k + 1, b => if 0xFE ≤ b then 0xFE else if le mx (mul t (scaleVal b)) then b else leastScale t mx k (b + 1)

/-- One element of a plain or block format from an exact value (R98, R101), at scale 1. -/
def encodeElem (book : List Nat) (fmt : Nat) (x : Val) : Nat :=
  match fmtOf fmt with
  | some f => rne f x
  | none =>
    if fmt == 8 then cb4Code book (ofI 1) x
    else
      let (lo, hi) : Int × Int :=
        if fmt == 6 then (-127, 127) else if fmt == 7 then (-7, 7)
        else if fmt == 9 then (-2147483648, 2147483647) else (-9223372036854775808, 9223372036854775807)
      let r := (toIntFmt lo hi false x).1
      (r % (2 ^ elemBits fmt : Nat)).toNat

/-- R101: the SCALE byte and the element codes of one block. `rec` is the recorded byte in replay mode. -/
def quantise (book : List Nat) (fmt : Nat) (replay : Option Nat) (xs : List Val) : Nat × List Nat :=
  let zeros := xs.map (fun _ => 0)
  if xs.any (fun x => x.isNan || x.isInf) then (0xFF, zeros)
  else
    match blockMax book fmt with
    | none => (0xFF, zeros)
    | some t =>
      let mx := maxAbs xs
      let b := match replay with
        | some r => r
        | none => if fmt == 2 then 0x7C else if mx.isZero then 0 else leastScale t mx 255 0
      if b == 0xFF then (0xFF, zeros)
      else (b, xs.map fun x =>
        if fmt == 8 then cb4Code book (scaleVal b) x else encodeElem book fmt (unscale x b))

/-- R94: elements per block of a base format. -/
def blockCap (fmt : Nat) : Nat := if fmt == 2 then 31 else if fmt == 7 || fmt == 8 then 124 else 62

/-! ## KG64 (R99) -/

def kgRound (x y : BitVec 64) : BitVec 64 × BitVec 64 :=
  let x := x * 0x8F3B6D15E2A7C94B#64
  let x := x ^^^ (x >>> 29)
  let x := x + y
  let y := y.rotateLeft 23
  (x * 0x5C21E9D73A84F06D#64, y)

/-- R99. -/
def kg64 (key ctr : BitVec 64) : BitVec 64 :=
  let r1 := kgRound (ctr + key) (key ^^^ 0x3E971B5CD408A26F#64)
  let r2 := kgRound r1.1 r1.2
  let r3 := kgRound r2.1 r2.2
  let r4 := kgRound r3.1 r3.2
  r4.1 ^^^ (r4.1 >>> 32)

/-- R99: the upper 32 bits as an integer. -/
def u32 (x : BitVec 64) : Nat := x.toNat / 2 ^ 32
/-- R99: a uniform in [0, 1). -/
def u24 (x : BitVec 64) : Val := .fin false (x.toNat / 2 ^ 40) (-24)

/-- R104: the minimum. -/
def minVal (a b : Val) : Val :=
  if a.isNan then b else if b.isNan then a
  else if a.isZero && b.isZero then (if a.neg then a else b)
  else if lt b a then b else a

/-- R104: the maximum. -/
def maxVal (a b : Val) : Val :=
  if a.isNan then b else if b.isNan then a
  else if a.isZero && b.isZero then (if a.neg then b else a)
  else if lt a b then b else a

/-! ## F32 helpers -/

def d32 (w : Word) : Val := decode f32 w.toNat
def r32 (x : Val) : Word := BitVec.ofNat 32 (rne f32 x)

/-- Exact sum of a list, from +0. -/
def sum (xs : List Val) : Val := xs.foldl add (.fin false 0 0)

/-- R108: the new value of a tile element: exact sum, one rounding, and the sign of an exact zero. -/
def passElem (c : Val) (ps : List Val) : Word :=
  let s := ps.foldl add c
  match s with
  | .fin _ 0 _ =>
    BitVec.ofNat 32 (putSign f32 (c.isZero && c.neg && ps.all Val.isZero) 0)
  | v => r32 v

/-- Bit count. -/
def popcount : Nat → Nat → Nat
  | 0, _ => 0
  | k + 1, x => x % 2 + popcount k (x / 2)

/-- R100: one group of the Hadamard transform over 2^L elements (1 / sqrt of H is a power of two times 1 or 1 / sqrt 2;
the exact real is rounded once). -/
def hadamard (l : Nat) (xs : List Val) : List Val :=
  (List.range xs.length).map fun i =>
    let s := sum ((List.range xs.length).map fun k =>
      let x := xs.getD k (.fin false 0 0)
      if popcount 8 (Nat.land i k) % 2 == 1 then x.negate else x)
    match s with
    | .fin _ 0 _ => .fin false 0 0
    | .fin neg m e =>
      -- s / sqrt(2^l): sqrt(s^2 / 2^l) keeps one rounding
      let (r, _) := sqrtVal (.fin false (m * m) (2 * e - l))
      match r with
      | .fin _ rm re => d32 (r32 (.fin neg rm re))
      | v => v
    | v => v

end Sys2Proof.Machine.Num
end

