-- ==== Sys2Proof/Machine/Tbl.lean ====
section
/-! DEFINITION. Sparse tables: a list of keys and values, keys strictly rising. They hold registers, memories and every
collection of units; equal tables are equal data. -/

namespace Sys2Proof.Machine

/-- A table keyed by a number, keys strictly rising. -/
abbrev Tbl (α : Type) := List (Nat × α)

def Tbl.get? {α : Type} : Tbl α → Nat → Option α
  | [], _ => none
  | (k, v) :: r, x => if k = x then some v else Tbl.get? r x

/-- The entry of a key, or a default. -/
def Tbl.getD {α : Type} (t : Tbl α) (x : Nat) (d : α) : α := (Tbl.get? t x).getD d

/-- Insert or replace, keeping keys rising. -/
def Tbl.put {α : Type} : Tbl α → Nat → α → Tbl α
  | [], x, v => [(x, v)]
  | (k, w) :: r, x, v => if x < k then (x, v) :: (k, w) :: r else if x = k then (x, v) :: r else (k, w) :: Tbl.put r x v

/-- Remove a key. -/
def Tbl.del {α : Type} (t : Tbl α) (x : Nat) : Tbl α := t.filter (fun p => p.1 != x)

/-- Write a value where an unlisted key reads as `d`: the canonical form lists no entry equal to `d`. -/
def Tbl.set {α : Type} [DecidableEq α] (t : Tbl α) (d : α) (x : Nat) (v : α) : Tbl α :=
  if v = d then Tbl.del t x else Tbl.put t x v

/-- Update the entry of a key where it is present. -/
def Tbl.mod {α : Type} (t : Tbl α) (x : Nat) (f : α → α) : Tbl α :=
  t.map (fun p => if p.1 = x then (p.1, f p.2) else p)

/-- Change every entry. -/
def Tbl.each {α : Type} (t : Tbl α) (f : Nat → α → α) : Tbl α := t.map (fun p => (p.1, f p.1 p.2))

/-- Keys strictly rising. -/
def Tbl.sorted {α : Type} : Tbl α → Bool
  | [] => true
  | [_] => true
  | (k, _) :: (l, w) :: r => decide (k < l) && Tbl.sorted ((l, w) :: r)

/-- The canonical form: keys strictly rising and no entry equal to the default. -/
def Tbl.wf {α : Type} [DecidableEq α] (d : α) (t : Tbl α) : Bool := Tbl.sorted t && t.all (fun p => decide (p.2 ≠ d))

def Tbl.keys {α : Type} (t : Tbl α) : List Nat := t.map Prod.fst
def Tbl.vals {α : Type} (t : Tbl α) : List α := t.map Prod.snd

/-- Replace element `i` of a list. -/
def setAt {α : Type} (l : List α) (i : Nat) (v : α) : List α := l.set i v

/-- Change element `i` of a list where it exists. -/
def modAt {α : Type} : List α → Nat → (α → α) → List α
  | [], _, _ => []
  | x :: r, 0, f => f x :: r
  | x :: r, i + 1, f => x :: modAt r i f

/-- Insert into a list sorted by a natural key, after equal keys. -/
def insertBy {α : Type} (key : α → Nat) (x : α) : List α → List α
  | [] => [x]
  | y :: r => if key x < key y then x :: y :: r else y :: insertBy key x r

/-- Sort by a natural key (stable). -/
def sortBy {α : Type} (key : α → Nat) (l : List α) : List α := l.foldl (fun acc x => insertBy key x acc) []

/-- The least element by a natural key; the first of equals. -/
def minBy {α : Type} (key : α → Nat) : List α → Option α
  | [] => none
  | x :: r => match minBy key r with
    | none => some x
    | some y => if key y < key x then some y else some x

/-- The greatest element by a natural key; the first of equals. -/
def maxBy {α : Type} (key : α → Nat) : List α → Option α
  | [] => none
  | x :: r => match maxBy key r with
    | none => some x
    | some y => if key x < key y then some y else some x

/-- The numbers a, a+1, …, a+n-1. -/
def rangeFrom (a n : Nat) : List Nat := (List.range n).map (a + ·)

/-- Little-endian value of a byte list (R2). -/
def leVal : List Byte → Nat
  | [] => 0
  | b :: r => b.toNat + 256 * leVal r

/-- The n bytes of a number, little-endian (R2). -/
def leBytes : Nat → Nat → List Byte
  | 0, _ => []
  | n + 1, x => BitVec.ofNat 8 x :: leBytes n (x / 256)

end Sys2Proof.Machine
end

