-- ==== Sys2Proof/Machine/Types.lean ====
section
/-! DEFINITION. The parts of the state of threads, braids, workgroups, turns and the memory path (spec 02, 06, 09, 16,
17). Plain data. -/

namespace Sys2Proof.Machine

/-- Memory bytes by address, canonical against the value an unlisted address reads as. -/
abbrev Mem := Tbl Byte

/-- R52: the engine commands that sign a hitch register. -/
inductive EngOp where
  | mxs | smx | cpbox | cplin | rtplan | rtscat | rtcomb | nmcall
  deriving DecidableEq, Repr

/-- R48: the kind of an open round. -/
inductive HKind where
  | none | rejoin | engine (op : EngOp)
  deriving DecidableEq, Repr

/-- R52: what a round has captured: the key of the lowest signer so far (home lane or thread number), its descriptor,
SEGB and B[2:0]; each braid's own part; and every signer with its D code. -/
structure Captured where
  key : Nat
  t : Nat
  regs : List Word
  segb : Nat
  q : Nat
  pc : Nat
  word : Word
  wpos : Nat
  parts : Tbl (Nat × List Word)
  signers : List (Nat × Nat)
  /-- R158: the releases of the signers' earlier stores that were not complete at their signatures. -/
  rels : List Nat
  deriving DecidableEq, Repr

/-- R48: one hitch register. h0 to h11 use the masks, h12 to h15 the counts. -/
structure Hitch where
  members : BitVec 64
  arrived : BitVec 64
  expected : Nat
  count : Nat
  kind : HKind
  cap : Option Captured
  deriving DecidableEq, Repr

/-- R30, R247: what a thread waits for. -/
inductive Wait where
  | ready
  | hitch (n : Nat)
  | bar
  | sleep (wake : Nat)
  | waitge (va target : Nat) (scope : Nat) (lastRead : Option Nat)
  | waitp (promise va target : Nat) (scope : Nat)
  deriving DecidableEq, Repr

/-- What a pending memory word of a thread does (spec 11). -/
inductive MKind where
  | load (d size : Nat) (signed : Bool)
  | lds (d size : Nat)
  | atom (op size d : Nat) (v cmp : Nat)
  | atoms (op d : Nat) (v cmp : Nat)
  | fence (kind : Nat)
  | flush (len : Nat)
  | cntadd (v : Nat)
  | waitRead (once : Bool)
  | prefetch
  | syswr (num val : Nat) (started : Bool)
  deriving DecidableEq, Repr

/-- R306, R436: a memory word of a thread that is not yet complete. `logged` names the translator that found its page
not resident, `lseq` the place of its entry in the log; `posted` says that a release has posted its tokens; `grp` is the issue
cycle of its group (R44; 0 for none) and `born` the CLK of its issue. -/
structure MOp where
  seq : Nat
  word : Nat
  kind : MKind
  va : Nat
  ia : Nat
  pol : Nat
  hint : Nat
  scope : Nat
  core : Nat
  addr : Nat
  pc : Nat
  raw : Word
  wpos : Nat
  dep : Nat
  posted : Bool
  logged : Option Nat
  replay : Bool
  asid : Nat
  grp : Nat
  born : Nat
  lseq : Nat
  deriving DecidableEq, Repr

/-- R146: a store in a braid's queue; `born` is the CLK of its issue (R154), `grp` the issue cycle of its group (R44), `trap` the
cause for which its thread was entering the handler, where it is a store of a trap frame (R401). -/
structure SEntry where
  seq : Nat
  asid : Nat
  t : Nat
  scratch : Bool
  core : Nat
  addr : Nat
  va : Nat
  ia : Nat
  pol : Nat
  hint : Nat
  data : List Byte
  pc : Nat
  raw : Word
  logged : Option Nat
  replay : Bool
  born : Nat
  wpos : Nat
  grp : Nat
  lseq : Nat
  trap : Option Nat
  deriving DecidableEq, Repr

/-- R146, R149: a store in core store order that is not yet performed at its home: a store of a thread with its packet and word,
or a write-back of software-managed bytes (`wg` 0). -/
structure WStore where
  seq : Nat
  wg : Nat
  t : Nat
  asid : Nat
  va : Nat
  ia : Nat
  pol : Nat
  hint : Nat
  data : List Byte
  pc : Nat
  raw : Word
  wpos : Nat
  logged : Option Nat
  replay : Bool
  born : Nat
  lseq : Nat
  trap : Option Nat
  /-- The partition and domain of the workgroup that stored it, where it is a write-back. -/
  own : Nat × Nat
  deriving DecidableEq, Repr

/-- R155: a fence token of a core at an endpoint (0 the Zezor bridge, 1 the host, 2 + d the peer d). -/
structure Token where
  endpoint : Nat
  count : Nat
  seq : Nat
  born : Nat
  deriving DecidableEq, Repr

/-- R151, R158, R163, R297: a release that no memory word carries: of a channel push or of the signers of an engine request. It
covers the stores that the threads `ts` of `wg` issued or observed before the stamp `upto`; once those have left their queues
it writes back and takes the stamp `sent`, and it is complete when every store of the core before `sent` is performed. -/
structure Rel where
  id : Nat
  wg : Nat
  ts : List Nat
  upto : Nat
  scope : Nat
  sent : Option Nat
  /-- Memory words of the threads come before it too. -/
  words : Bool
  deriving DecidableEq, Repr

/-- R132, R152, R153, R460: a cache line: its class, order of access, tags of an off-die copy, dirty bytes and poisoned
blocks. `off` is 0 for a line homed in the die, 1 for class .dev and 2 for class .sys. -/
structure Line where
  tag : Nat
  data : Tbl Byte
  dirty : List Nat
  pol : Nat
  cls : Nat
  used : Nat
  gen : Nat
  expiry : Nat
  fillReq : Nat
  off : Nat
  poison : List Nat
  /-- The partition and domain of the workgroup that last stored into the line. -/
  own : Nat × Nat
  deriving DecidableEq, Repr

/-- A line with no byte yet, of a policy and class, placed by the access `now`. -/
def Line.fresh (tag pol cls now : Nat) : Line := ⟨tag, [], [], pol, cls, now, 0, 0, 0, 0, [], (0, 0)⟩

/-- R132, R435: a write-back of a home line from the L2: the IA of its 64-byte sector, the dirty bytes by their offset in it, and the sector's
poison mark. -/
structure Back where
  ia : Nat
  data : Tbl Byte
  poison : Bool
  deriving DecidableEq, Repr

/-- R401: a wait held by a thread that is waiting and trapped. -/
structure Held where
  wait : Wait
  met : Bool
  resume : Nat
  deriving DecidableEq, Repr

/-- R430: a pending asynchronous trap: cause, INFO, packet and word, and the CLK at which it was detected (R405). -/
structure Async where
  cause : Nat
  info : Nat
  pc : Nat
  raw : Word
  wpos : Nat
  clk : Nat
  deriving DecidableEq, Repr

/-- R221: a valid latch entry: its value, the CLK at which it is delivered, and the notification it depends on. -/
structure Latch where
  v : Word
  ready : Nat
  dep : Nat
  deriving DecidableEq, Repr

/-- R30 and the rules that add to it: a thread. -/
structure Thread where
  wg : Nat
  t : Nat
  pc : Nat
  p : BitVec 32
  v : Tbl Word
  latch : List (Option Latch)
  wait : Wait
  resume : Nat
  sig : BitVec 16
  exited : Bool
  off : Bool
  row : Nat
  lane : Nat
  priv : Bool
  held : Option Held
  skip : BitVec 3
  async : List Async
  hold : Bool
  starve : Nat
  /-- R45: the CLK of the first turn of its window that passed it over, of those that `starve` counts. -/
  since : Nat
  bound : Option Nat
  /-- R223: codes not yet clear (general registers; 128 + i for predicate i), with the CLK at which they are, where it
  is known. -/
  busy : Tbl (Option Nat)
  /-- R224: registers that a higher word has written while an earlier word's result for them is pending. -/
  covered : List Nat
  mops : List MOp
  /-- R150: what each register depends on (128 + i: predicate i; 4096: every load). -/
  dep : Tbl Nat
  /-- R151: the greatest stamp of a store in its braid's queue whose bytes a load of the thread has taken. -/
  fwd : Nat
  /-- The word on which the thread waits (R423): its packet and its bits. -/
  waitWord : Nat × Word
  /-- The position of that word, and the other words of its packet (R402). -/
  waitAt : Nat × BitVec 3
  /-- R459: registers whose entry is uncorrectable. -/
  badRegs : List Nat
  /-- The last turn of its core that included it (R43). -/
  lastTurn : Nat
  /-- R171: the CLK of the first issue attempt of the packet at its PC. -/
  attempt : Option Nat
  deriving DecidableEq, Repr

/-- R296: a port binding. -/
inductive Binding where
  | unbound
  | stream (n : Nat)
  | completion (q : Nat)
  | channel (send : Bool) (member n : Nat)
  deriving DecidableEq, Repr

/-- R48, R58, R233, R295, R297, R364, R146: a braid. -/
structure Braid where
  wg : Nat
  idx : Nat
  hitch : List Hitch
  flags : Num.Flags
  /-- R106: flags on their way to the register, with the CLK at which they reach it. -/
  flagsDue : List (Nat × Num.Flags)
  segb : Nat
  /-- R150: what SEGB depends on. -/
  segbDep : Nat
  fmask : BitVec 64
  firstLane : Option Async
  firstT : Nat
  ports : List Binding
  comp : Tbl (List (Word × Nat))
  codebook : List Half
  storeQ : List SEntry
  deriving DecidableEq, Repr

/-- R177: the state of a slot of a stream. -/
inductive Slot where
  | free | filling | filled | popped
  deriving DecidableEq, Repr

/-- R177: a stream. -/
structure Stream where
  base : Nat
  slotBytes : Nat
  slots : List Slot
  fillPos : Nat
  readPos : Nat
  freePos : Nat
  deriving DecidableEq, Repr

/-- Why a workgroup ended (R405, R407). -/
structure FaultInfo where
  cause : Nat
  info : Nat
  t : Nat
  pc : Nat
  word : Word
  /-- R405: the CLK at which it was detected. -/
  clk : Nat
  deriving DecidableEq, Repr

/-- R35 to R38, R199 to R207: a resident workgroup, or a near-memory block (`stack` names its stack). -/
structure Workgroup where
  id : Nat
  /-- Logical core (R405 numbering); for a block the first core of its stack. -/
  core : Nat
  stack : Option Nat
  part : Nat
  leaf : Nat
  launch : Nat
  launchIa : Nat
  asid : Nat
  dom : Nat
  t : Nat
  w : Nat
  n : Nat
  rows : List Nat
  wgnum : Nat
  grid : Nat
  args : Nat
  csize : Nat
  member : Nat
  gang : List Nat
  scrBase : Nat
  scrUnits : Nat
  hitch : List Hitch
  bar : List Nat
  streams : List Stream
  /-- R297: 16 channels; an entry is its value and the core and number of its release. -/
  chans : List (List (Word × Nat × Nat))
  charge : Nat
  ended : Option FaultInfo
  stopping : Bool
  retired : Bool
  /-- Near-memory block: entry descriptor, frame, call record, sequence number, out-ranges (R199 to R207). -/
  entry : Nat
  frameBase : Nat
  frameSize : Nat
  callVa : Nat
  callSeq : Nat
  call : List Nat
  msg : List Nat
  callCore : Nat
  /-- The NMCALL request of a block. -/
  req : Nat
  /-- R83: its context is not on the core. -/
  swapped : Bool
  deriving DecidableEq, Repr

/-- R246, R247, R398: what one thread has met in the packet that its group issues. -/
structure Member where
  wg : Nat
  t : Nat
  lane : Nat
  snap : Tbl Word
  p0 : BitVec 32
  ps : BitVec 32
  skip : BitVec 3
  failed : BitVec 3
  target : Option Nat
  wait : Option Wait
  waitPos : Nat
  exit : Bool
  yielded : Bool
  trapret : Bool
  /-- R221: which latches were valid when the cycle began. -/
  lv : List Bool
  /-- Word position and fault; a workgroup-fatal cause takes precedence over a recoverable one (R398). -/
  fault : Option (Nat × Async)
  deriving DecidableEq, Repr

/-- One packet of a group. -/
structure Packet where
  pc : Nat
  words : List Word
  bad : Bool
  members : List Member
  deriving DecidableEq, Repr

/-- Effects that land at the end of an issue cycle (R106, R295, R296, R307, R354, R362), each with the thread number or lane
that decides among writers. -/
inductive CycAct where
  | flagsSet (wg braid lane : Nat) (f : Num.Flags)
  | flags (wg braid ready : Nat) (f : Num.Flags)
  | segb (wg braid lane : Nat) (v dep : Nat)
  | bind (wg braid port lane : Nat) (b : Binding)
  | code (wg braid idx : Nat) (v : Half)
  | stcfg (wg stream t : Nat) (s : Option Stream)
  | qfence (wg braid pkt lane : Nat) (v : Word)
  | priv (wg braid t lane num val pc : Nat) (raw : Word) (wpos : Nat)
  | pred (wg t i : Nat) (v : Bool)
  deriving DecidableEq, Repr

/-- R44, R220: the one pop or free that a word makes of a stream port for a braid, or a push that it makes on a channel for a thread:
the resource, the home lane and the cycle of the turn. -/
structure PortUse where
  wg : Nat
  braid : Nat
  port : Nat
  pkt : Nat
  pos : Nat
  write : Bool
  value : Word
  res : Nat
  lane : Nat
  cyc : Nat
  deriving DecidableEq, Repr

/-- R43: a turn in progress on a core: its packets, the cycle being issued and the effects due at its end. -/
structure Turn where
  num : Nat
  cycle : Nat
  pkts : List Packet
  acts : List CycAct
  uses : List PortUse
  /-- R335: words of the cycle that wait for a command register's write of their own cycle, by packet and position. -/
  held : List (Nat × Nat)
  deriving DecidableEq, Repr

/-- R40, R132, R152, R155, R436: a core (R405 numbering: 0 to 191 main-die, 192 to 575 rhizoid). -/
structure Core where
  turn : Option Turn
  turns : Nat
  lastWin : Option Nat
  halted : Bool
  l1d : List Line
  l1i : List Line
  genDev : Nat
  genSys : Nat
  acqDev : Nat
  acqSys : Nat
  /-- R149: notifications not yet applied: order stamp, line and CLK. -/
  notes : List (Nat × Nat × Nat)
  wstores : List WStore
  /-- R155: stores sent and performed, by endpoint, and the total at the last token. -/
  sent : Tbl Nat
  performed : Tbl Nat
  lastTok : Tbl Nat
  tokens : List Token
  /-- Releases of channel pushes and engine requests that are not complete. -/
  rels : List Rel
  leaveWait : Nat
  scratch : Mem
  scrPoison : List Nat
  deriving DecidableEq, Repr

/-- The word being executed: the core, the packet of its turn, the word's position. -/
structure Cur where
  core : Nat
  pkt : Nat
  pos : Nat
  word : Word
  deriving DecidableEq, Repr

/-- A formed engine request (R52, R341) with its progress. `regs` is the captured descriptor, `parts` the slices of a
CPBOX in ascending braid order, `recs` the records read at its start, `work` its own counters. -/
structure EReq where
  id : Nat
  op : EngOp
  q : Nat
  regs : List Word
  parts : List (Nat × List Word)
  segb : Nat
  wg : Nat
  gang : List Nat
  t : Nat
  signers : List (Nat × Nat)
  pc : Nat
  word : Word
  wpos : Nat
  core : Nat
  part : Nat
  asid : Nat
  dom : Nat
  launch : Nat
  launchIa : Nat
  /-- R158: the releases of the signers' earlier stores. -/
  rels : List Nat
  formed : Nat
  begun : Bool
  phase : Nat
  pos : Nat
  recs : List (List Nat)
  work : List Nat
  vals : List Num.Val
  waiting : Option Nat
  /-- R446: the translator and page that the request last waited for. -/
  missed : Option (Nat × Nat)
  /-- R455: the peers that have answered what the request asks for next, each with the number of its retries. -/
  opened : List (Nat × Nat)
  replay : Bool
  leave : Nat
  /-- R459: an uncorrectable error has struck the tables that the request works with. -/
  damaged : Bool
  deriving DecidableEq, Repr

/-- What the outside world presents with an event: a transaction at a link (source, address, length, operation, data), a
register access, or the site of an error. -/
structure Msg where
  src : Nat
  addr : Nat
  len : Nat
  op : Nat
  write : Bool
  cmp : Dword
  val : Dword
  data : List Byte
  /-- R460: the poison indication of the link. -/
  poison : Bool
  err : Option ErrSite
  /-- R455: the tag by which the target of a peer request knows a retry of it (DESIGN CHOICE, log entry 94: a number that its source gives to no
  other request). -/
  tag : Nat
  /-- R373: what an atomic request acts on: 0 its whole double, 1 the low word, 2 the high word. -/
  half : Nat
  deriving DecidableEq, Repr

/-- An entry of an engine queue: a request, or a QFENCE of a partition over named queues (R160). -/
inductive QEntry where
  | req (id : Nat)
  | fence (id part : Nat)
  deriving DecidableEq, Repr

end Sys2Proof.Machine
end

