-- ==== Sys2Proof/Machine/State.lean ====
section
/-! DEFINITION. The state of the machine, the reasons a step can stop, and the state after reset (spec 00 to 19;
INVENTORY.md lists every field with the rule that names it). Plain data. -/

namespace Sys2Proof.Machine

/-- No meaning ends in a model fault: every fault of the manual is a state the device goes on from. -/
inductive Fault where
  /-- Raised by nothing: a place for a fault that stops the machine. Safe. -/
  | machineStopped
  deriving DecidableEq, Repr

/-- Refusals. -/
inductive Refusal where
  /-- Raised by an arm of `exec` whose instruction has no meaning yet. Safe. -/
  | notModelled (mnemonic : String)
  deriving DecidableEq, Repr

/-- R62, R63: the effective values of one RCB, in depth-first order of its tree (`path` holds the node's ancestors,
itself first). -/
structure Rcb where
  ia : Nat
  path : List Nat
  leaf : Bool
  queue : Nat
  budget : Nat
  prio : Nat
  eceil : Nat
  fdom : Nat
  asidBase : Nat
  asidCnt : Nat
  quantum : Nat
  deriving DecidableEq, Repr

/-- R67, R69: a launch with a workgroup dispatched and not complete. -/
structure Launch where
  id : Nat
  part : Nat
  leaf : Nat
  ia : Nat
  record : List Nat
  dom : Nat
  total : Nat
  retired : Nat
  nfatal : Nat
  allOut : Bool
  killed : Bool
  /-- R65: the leaf queue that held its record, and its position there. -/
  queue : Nat
  pos : Nat
  firstFatal : Option (Nat × Nat × FaultInfo)
  lanef : Option (Nat × Nat × BitVec 64 × Nat)
  /-- R67: the releases of its retired workgroups that CINC waits for, by core and number. -/
  rels : List (Nat × Nat)
  /-- R406: its status record says that it has completed. -/
  told : Bool
  deriving DecidableEq, Repr

/-- R364, R365, R439, R441: one copy of the RRSEL window. While a commit is incomplete it waits for the accesses of `asid`
that were issued by the stamp `upto` and the CLK `since`. -/
structure Window where
  rrsel : Word
  rrlo : Dword
  rrmid : Dword
  rrhi : Dword
  busy : Bool
  asid : Nat
  upto : Nat
  since : Nat
  deriving DecidableEq, Repr

/-- R371, R79 to R82: a graph being run, by graph-table entry: the nodes that run or wait, and the launches (node, queue,
position) whose completion a LAUNCH node waits for. Arrivals, iterations and pending firings are in the save area (R86). -/
structure Graph where
  entry : Nat
  header : Nat
  nodes : Nat
  first : Nat
  running : List Nat
  queued : List (Nat × Nat × Nat)
  deriving DecidableEq, Repr

/-- R75, R76: an entry of a reservation table. -/
structure Reserve where
  req : Nat
  core : Nat
  left : Nat
  prio : Nat
  cprio : Nat
  age : Nat
  arrival : Nat
  deriving DecidableEq, Repr

/-- R167, R171: a tile of a matrix engine. -/
structure Tile where
  acc : Tbl Word
  shadow : Tbl Word
  m2 : Tbl Word
  npassd : Word
  nsamp : Word
  var : Word
  poison : List Nat
  claim : Option (List Nat)
  queue : List QEntry
  deriving DecidableEq, Repr

/-- R167: the tables of an SMX request in progress. -/
structure SmxSave where
  cluster : Nat
  req : Nat
  norm : Tbl Word
  prob : Tbl Word
  aliasTo : Tbl Nat
  deriving DecidableEq, Repr

/-- R29, R83: what a swap saves beside the threads, braids and workgroups themselves: reservation entries (by cluster),
tiles, queues (kind 0 copy, 1 splice, 2 tile; unit; queue), scratchpad bytes and poison of workgroups, SMX tables and the requests that waited
for a table entry (by cluster); and for each die the bytes taken of the shadow store and of the save area. -/
structure Context where
  reserve : List (Nat × Reserve)
  tiles : List (Nat × Nat × Tile)
  queues : List (Nat × Nat × Nat × List QEntry)
  scratch : List (Nat × List Byte × List Nat)
  smx : List SmxSave
  rooms : List (Nat × Nat)
  used : List Nat
  spilt : List Nat
  /-- R459: a word of what is saved is uncorrectable. -/
  bad : Bool
  deriving DecidableEq, Repr

/-- R60 to R70, R83, R364, R399: a partition. -/
structure Partition where
  cmask : List Dword
  rootRcb : Dword
  bperiod : Word
  tslice : Word
  saveArea : Dword
  tvec : Dword
  tasid : Word
  tfva : Dword
  tctl : Word
  fqtab : Dword
  tcount : Word
  window : Window
  killing : List Nat
  /-- R427: stores of killed work that are on their way to their homes, by stamp. -/
  killStores : List Nat
  resident : Bool
  sliceEnd : Nat
  /-- R61: the stamp at which it last took its cores; 0 before the first time. -/
  tookAt : Nat
  tree : List Rcb
  ptr : Tbl Nat
  halting : Bool
  /-- R83, R84: the partition's context is in the shadow store or save area; the CLK at which a swap step is done. -/
  saved : Bool
  swapAt : Option Nat
  shadow : Context
  graphs : List Graph
  armed : List (Nat × Dword)
  /-- R427: queued launches that a kill skips: leaf queue and position. -/
  skips : List (Nat × Nat)
  /-- R85: ranges (ASID, base, length) of launches dispatched so far, and R87: launches (queue, position) that wait for room
  that the eviction pool does not give. -/
  seen : List (Nat × Nat × Nat)
  starved : List (Nat × Nat)
  /-- R435: services pending, by translator and page. -/
  services : List (Nat × Nat)
  deriving DecidableEq, Repr

/-- A matrix engine with its tables, a box copy engine with its queues, and the errors counted (R167 to R189, R479). -/
structure Cluster where
  tiles : List Tile
  table : List Reserve
  waitRoom : List Nat
  winner : Option Nat
  granted : Option Nat
  smx : Option Nat
  norm : Tbl Word
  prob : Tbl Word
  aliasTo : Tbl Nat
  copyQ : List (List QEntry)
  errors : Nat
  corrected : Nat
  replace : Bool
  physical : Nat
  deriving DecidableEq, Repr

/-- R73: a leave request: asker (0 table, 1 copy, 2 splice, 3 stack), its unit, its request, its cost in units of 2^-10
nJ, the core it counts for and the CLK it entered. -/
structure Leave where
  kind : Nat
  unit : Nat
  id : Nat
  cost : Nat
  core : Nat
  entered : Nat
  deriving DecidableEq, Repr

/-- R71 to R74, R477, R478: a power controller. -/
structure Power where
  pshare : Word
  pbase : Word
  temp : Word
  tfth : Word
  ttrip : Word
  tf : Nat
  debt : Nat
  energy : Nat
  costs : List Word
  cecnt : Dword
  capring : Dword
  captail : Word
  caphead : Word
  spares : Word
  bootst : Nat
  bootSlot : Nat
  bootSvn : Nat
  staged : List (Nat × Nat)
  remaining : Int
  fresh : Bool
  lowHeadroom : Bool
  fifo : List Leave
  /-- R478: the CLK since which TEMP has stood at or above TTRIP. -/
  hotSince : Option Nat
  deriving DecidableEq, Repr

/-- A die: its L2, dispatcher, splice engine, walker, shadow store and power controller. -/
structure Die where
  l2 : List Line
  lastCore : Option Nat
  spliceQ : List (List QEntry)
  walkFifo : List (Nat × Nat × Nat)
  walkCopy : List (Nat × Nat × Nat × Nat)
  waitNodes : List (Nat × Nat × Nat)
  shadowUsed : Nat
  power : Power
  noteSeq : Nat
  deriving DecidableEq, Repr

/-- R208 to R211: a bank command of a co-issue set: its lowest thread, its packet, the VA and IA of its address, its command
word and row, the words of a BCST by lane, and the threads of the set: home lane, thread and register D. `raw` is its instruction word,
`arr` its place in the order of arrival at the stack, and `lseq` the place of its entry in the log while its page is absent. -/
structure BankCmd where
  seq : Nat
  wg : Nat
  t : Nat
  pc : Nat
  va : Nat
  ia : Nat
  cmd : Word
  row : Nat
  bcast : Tbl Word
  dests : List (Nat × Nat × Nat)
  raw : Word
  arr : Nat
  lseq : Nat
  deriving DecidableEq, Repr

/-- R199, R201: a call in a call FIFO. -/
structure Call where
  req : Nat
  seq : Nat
  record : List Nat
  deriving DecidableEq, Repr

/-- R213: a microcode kernel. -/
structure Kernel where
  kern : Nat
  src : Nat
  dst : Nat
  len : Nat
  done : Nat
  cnt : Nat
  cinc : Nat
  deriving DecidableEq, Repr

/-- A base die with its stack (R127 to R132, R196 to R214). DRAM bytes are in `State.dram`. -/
structure Stack where
  stroot : Dword
  nmcode : Dword
  nmframe : Dword
  nmbanks : Word
  banksNow : Nat
  /-- R440: an STINV that is not complete: it waits for the bank commands before this stamp. -/
  inv : Option Nat
  tlb : Tbl Nat
  msc : List Line
  bcast : Tbl Word
  acc : Tbl Word
  lut : Tbl Word
  seqQ : Tbl (List BankCmd)
  allQ : List BankCmd
  allWave : Nat
  /-- R24, R212: the banks of the wave that runs, fixed when its leave was granted. -/
  waveSize : Nat
  leaveAsked : Bool
  leaveGiven : Bool
  calls : List Call
  callSeq : Nat
  frames : List (Nat × Nat × Nat)
  kernels : List Kernel
  /-- R479: rows moved to a spare (pseudo-channel, bank and row as in R480), rows that stay in use because no spare was left, corrected
  errors by row, spare rows used by bank, and spare banks used. -/
  retired : List Nat
  spent : List Nat
  rowErrs : Tbl Nat
  rowsUsed : Tbl Nat
  banksUsed : Nat
  deriving DecidableEq, Repr

/-- R374, R454: a UALink port. -/
structure Port where
  en : Bool
  up : Bool
  lanes : Nat
  spareUsed : Bool
  retrain : Option Nat
  deriving DecidableEq, Repr

/-- R455, R376: a request to a peer that has no response yet. -/
structure PeerReq where
  id : Nat
  dev : Nat
  dom : Nat
  part : Nat
  tries : Nat
  sentAt : Nat
  deriving DecidableEq, Repr

/-- What the device sends to the outside world. -/
inductive Out where
  /-- R372: an MSI-X message. -/
  | msix (vec : Nat)
  /-- The answer of a host read: bytes and poison. -/
  | hostData (data : List Byte) (poison : Bool)
  | hostReg (val : Dword)
  /-- R473: the Configuration Request Retry Status. -/
  | hostRetry
  /-- R376: the answer to a peer: data, or refused (cause 0x69). -/
  | peerData (src : Nat) (data : List Byte) (poison : Bool)
  | peerRefused (src : Nat)
  /-- R127, R373, R376: a write, read or atomic request to a peer: this device's index, the peer, the port, the offset. A byte that
  the request's doubles hold and the store does not write is none. -/
  | peerSend (src dev port off : Nat) (data : List (Option Byte))
  /-- R460: the poison indication of the write of `n` bytes sent to a peer. -/
  | peerPoison (src dev off n : Nat)
  | peerLoad (src dev port off len : Nat)
  /-- R373: an atomic request of a double; `half` as in `Msg`. -/
  | peerAtomic (src dev port off half op v cmp : Nat)
  | spdm (data : List Byte)
  | snoopDone (hpa : Nat)
  deriving DecidableEq, Repr

/-- An act still to be done before CLK advances. -/
inductive Act where
  /-- One event. -/
  | event (i : Instr)
  /-- One word of a group: core, packet of the turn, position. -/
  | word (core pkt pos : Nat)
  /-- The end of an issue cycle of a core. -/
  | cycleEnd (core : Nat)
  /-- The end of a packet of a turn, and of the turn. -/
  | packetEnd (core pkt : Nat)
  | turnEnd (core : Nat)
  deriving DecidableEq, Repr

/-- R474: a firmware image in a flash slot: the header's length, SVN and signature, the public key that signed it, and the slot's bytes from the
end of the header on, of which the image has as many as the length says. -/
structure Image where
  length : Nat
  svn : Nat
  sig : List Byte
  key : List Byte
  flash : List Byte
  deriving DecidableEq, Repr

/-- R475: the DOE responder. -/
structure Spdm where
  version : Bool
  caps : Bool
  algs : Bool
  transcript : List Byte
  deriving DecidableEq, Repr

/-- A counter increment that could not be made (R482): its address, whether it is a VA, the cause and the domain. -/
structure FailedAdd where
  id : Nat
  addr : Nat
  part : Nat
  dom : Nat
  deriving DecidableEq, Repr

/-- A counter increment that waits for a page (R482, R435), or for the answer of peer `tr` - 16 (R375, R455); `addr` is a VA of the ASID, or an
IA where it has none (R439); `block` is the near-memory block whose increment it is (R207), 0 for none. -/
structure HeldAdd where
  die : Nat
  ia : Nat
  inc : Nat
  scope : Nat
  tr : Nat
  part : Nat
  dom : Nat
  addr : Nat
  block : Nat
  asid : Option Nat
  deriving DecidableEq, Repr

/-- R410: a region-fatal fault that is due: partition, domain, workgroup and the fault. -/
structure RegionFault where
  part : Nat
  dom : Nat
  wg : Nat
  info : FaultInfo
  deriving DecidableEq, Repr

/-- The machine. -/
structure State where
  clk : Nat
  seq : Nat
  nextId : Nat
  draws : Nat
  cur : Option Cur
  agenda : List Act
  /-- What the outside world will do, and when; and what it presents now. -/
  inbox : List (Nat × Instr × Msg)
  msg : Msg
  outbox : List Out
  threads : Tbl Thread
  braids : Tbl Braid
  wgs : Tbl Workgroup
  cores : Tbl Core
  clusters : Tbl Cluster
  dies : Tbl Die
  stackTbl : Tbl Stack
  parts : Tbl Partition
  launches : Tbl Launch
  reqs : Tbl EReq
  /-- R52: rounds completed in an earlier cycle, to be passed on. -/
  formed : List Nat
  /-- R307: QFENCE entries to be placed in the next cycle. -/
  qfences : List (Nat × Nat × Word)
  ranges : Tbl (BitVec 192)
  hostWindow : Window
  dram : Mem
  dramPoison : List Nat
  hostMem : Mem
  hostPoison : List Nat
  haroot : Dword
  piroot : Dword
  cmroot : Dword
  hatlb : Tbl Nat
  pitlb : Tbl Nat
  cmtlb : Tbl Nat
  devidx : Word
  ports : List Port
  lost : List Nat
  /-- What this device has written to its peers, by peer and offset (device * 2^40 + offset). -/
  peerMem : Mem
  peerReqs : List PeerReq
  /-- R455: the peers that have answered the access that goes on now, each with the number of its retries. -/
  peerOpen : List (Nat × Nat)
  /-- R455: the writes and atomics of peers that have been performed: source, tag and answer. -/
  peerDone : List (Nat × Nat × Out)
  cxlUp : Bool
  hdmBase : Nat
  hdmSize : Nat
  /-- R367: the words of the other CXL component registers that the host has written. -/
  cxlRegs : Tbl Word
  msixMask : BitVec 64
  msixPend : BitVec 64
  /-- R367: the address and data words of the MSI-X table. -/
  msixTable : Tbl Word
  failedAdds : List FailedAdd
  heldAdds : List HeldAdd
  /-- R435: write-backs of home lines that wait for their page. -/
  heldBacks : List Back
  regionFaults : List RegionFault
  /-- R473, R474: the steps of the reset sequence that have ended: 5 once the device is ready. -/
  bootStep : Nat
  slotA : Image
  slotB : Image
  /-- R374, R473, R474: what fuses hold: the device index, the digest of the signing key and the security version floor. -/
  fuseIdx : Word
  keyDigest : List Byte
  svnFloor : Nat
  reserveUsed : List Nat
  /-- R479: clusters removed from service. -/
  removed : List Nat
  tripped : Bool
  spdm : Spdm
  deriving DecidableEq, Repr

/-- Nothing is presented. -/
def Msg.none : Msg := ⟨0, 0, 0, 0, false, 0#64, 0#64, [], false, Option.none, 0, 0⟩

/-- R364: a window at reset. -/
def Window.reset : Window := ⟨0#32, 0#64, 0#64, 0#64, false, 0, 0, 0⟩

/-- R364, R399: a partition at reset. -/
def Partition.reset : Partition :=
  { cmask := [0#64, 0#64, 0#64], rootRcb := 0#64, bperiod := 10000#32, tslice := 1000#32, saveArea := 0#64,
    tvec := 0#64, tasid := 0#32, tfva := 0#64, tctl := 0#32, fqtab := 0#64, tcount := 0#32, window := Window.reset,
    killing := [], killStores := [], resident := false, sliceEnd := 0, tookAt := 0, tree := [], ptr := [], halting := false,
    saved := false, swapAt := none, shadow := Context.mk [] [] [] [] [] [] [] [] false, graphs := [], armed := [], skips := [], seen := [], starved := [],
    services := [] }

/-- R473: a core at reset. -/
def Core.reset : Core :=
  { turn := none, turns := 0, lastWin := none, halted := false, l1d := [], l1i := [], genDev := 0, genSys := 0,
    acqDev := 0, acqSys := 0, notes := [], wstores := [], sent := [], performed := [], lastTok := [], tokens := [], rels := [],
    leaveWait := 0, scratch := [], scrPoison := [] }

/-- R348, R473: a tile at reset. -/
def Tile.reset : Tile :=
  { acc := [], shadow := [], m2 := [], npassd := 0#32, nsamp := 0#32, var := 0#32, poison := [], claim := none,
    queue := [] }

/-- R473: a cluster at reset; `physical` is the physical cluster of its die that serves it (R15). -/
def Cluster.reset (physical : Nat) : Cluster :=
  { tiles := List.replicate 8 Tile.reset, table := [], waitRoom := [], winner := none, granted := none, smx := none, norm := [],
    prob := [], aliasTo := [], copyQ := List.replicate 8 [], errors := 0, corrected := 0, replace := false, physical := physical }

/-- R477: a power controller at reset; the allowance of the first window is 800,000 nJ (R71), in units of 2^-10 nJ. -/
def Power.reset : Power :=
  { pshare := 1200#32, pbase := 400#32, temp := 0#32, tfth := 0x06900550#32, ttrip := 0x0730#32, tf := 16, debt := 0,
    energy := 0, costs := [430#32, 420#32, 300#32, 12#32, 0x001E0014#32, 22#32], cecnt := 0#64, capring := 0#64,
    captail := 0#32, caphead := 0#32, spares := 0xF2#32, bootst := 0, bootSlot := 0, bootSvn := 0,
    staged := [], remaining := 819200000, fresh := true, lowHeadroom := false, fifo := [], hotSince := none }

/-- R473: a die at reset. -/
def Die.reset : Die :=
  { l2 := [], lastCore := none, spliceQ := List.replicate 4 [], walkFifo := [], walkCopy := [], waitNodes := [],
    shadowUsed := 0, power := Power.reset, noteSeq := 0 }

/-- R24, R364, R473: a stack at reset. -/
def Stack.reset : Stack :=
  { stroot := 0#64, nmcode := 0#64, nmframe := 0#64, nmbanks := 768#32, banksNow := 768, inv := none, tlb := [], msc := [],
    bcast := [], acc := [], lut := [], seqQ := [], allQ := [], allWave := 0, waveSize := 0, leaveAsked := false, leaveGiven := false,
    calls := [], callSeq := 0, frames := [], kernels := [], retired := [],
    spent := [], rowErrs := [], rowsUsed := [], banksUsed := 0 }

/-- R374: a port at reset. -/
def Port.reset : Port := ⟨false, false, 0, false, none⟩

/-- An empty flash slot. -/
def Image.empty : Image := ⟨0, 0, [], [], []⟩

/-- The machine in the first cycle of the reset sequence (R5, R473): no work, memory zero, registers at their reset values, and the root ROM
about to begin. -/
def State.reset : State :=
  { clk := 0, seq := 1, nextId := 1, draws := 0, cur := none, agenda := [], inbox := [], msg := Msg.none, outbox := [],
    threads := [], braids := [], wgs := [], cores := [], clusters := [], dies := [], stackTbl := [], parts := [],
    launches := [], reqs := [], formed := [], qfences := [], ranges := [], hostWindow := Window.reset,
    dram := [], dramPoison := [], hostMem := [], hostPoison := [], haroot := 0#64, piroot := 0#64, cmroot := 0#64,
    hatlb := [], pitlb := [], cmtlb := [], devidx := 0#32, ports := List.replicate 8 Port.reset, lost := [],
    peerMem := [], peerReqs := [], peerOpen := [], peerDone := [], cxlUp := true, hdmBase := 0, hdmSize := 0, cxlRegs := [], msixMask := BitVec.allOnes 64, msixPend := 0#64, msixTable := [],
    failedAdds := [], heldAdds := [], heldBacks := [], regionFaults := [], bootStep := 0, slotA := Image.empty, slotB := Image.empty, fuseIdx := 0#32,
    keyDigest := [], svnFloor := 0, reserveUsed := [], removed := [],
    tripped := false, spdm := ⟨false, false, false, []⟩ }

end Sys2Proof.Machine
end

