-- ==== Sys2Proof/Machine/Units.lean ====
section
/-! DEFINITION. Units, threads, registers, members of a group and the driver of a word
(spec 01, 02, 09, 16). -/

namespace Sys2Proof.Machine

abbrev Res := Host.Outcome State Fault Refusal

/-! ## Units (R12, R16, R405) -/

def isRhizoid (core : Nat) : Bool := decide (192 ≤ core)
def stackOf (core : Nat) : Nat := (core - 192) / 48
/-- R12: the die of a core; a rhizoid core is on the die its stack is attached to. -/
def dieOf (core : Nat) : Nat := if isRhizoid core then stackOf core / 4 else core / 96
def clusterOf (core : Nat) : Nat := core / 4
def dieOfStack (stack : Nat) : Nat := stack / 4
def dieOfCluster (cl : Nat) : Nat := cl / 24

/-- R5: the cc from which what happens at memory-clock edge k is seen; the model does its work there. -/
def ccOf (k : Nat) : Nat := (3 * k + 1) / 2
/-- R5: the memory-clock edge whose work the model does in cc c or next after it: an odd edge falls in the middle of the cc before, and its
work is done first in its cc, before what happens in that cc, which is seen from edge ⌈2c/3⌉ on. -/
def mcOf (c : Nat) : Nat := (2 * c + 1) / 3
/-- R5: a memory-clock edge's work is done in the cc. -/
def onEdge (c : Nat) : Bool := c % 3 != 1
/-- R248, R203: when a result with a latency is ready. -/
def readyAt (core clk lat : Nat) : Nat := if isRhizoid core then ccOf (mcOf clk + lat) else clk + lat

/-! ## Keys and records -/

def tkey (wg t : Nat) : Nat := wg * 16384 + t
def bkey (wg b : Nat) : Nat := wg * 2048 + b

def Thread.blank : Thread :=
  { wg := 0, t := 0, pc := 0, p := 1#32, v := [], latch := [none, none, none, none], wait := .ready, resume := 0,
    sig := 0#16, exited := false, off := false, row := 0, lane := 0, priv := false, held := none, skip := 0#3,
    async := [], hold := false, starve := 0, since := 0, bound := none, busy := [], covered := [], mops := [], dep := [], fwd := 0,
    waitWord := (0, 0#32), waitAt := (0, 0#3), badRegs := [], lastTurn := 0, attempt := none }

def Braid.blank : Braid :=
  { wg := 0, idx := 0, hitch := [], flags := 0#5, flagsDue := [], segb := 0, segbDep := 0, fmask := 0#64, firstLane := none, firstT := 0,
    ports := List.replicate 12 .unbound, comp := [], codebook := List.replicate 16 0#16, storeQ := [] }

def Workgroup.blank : Workgroup :=
  { id := 0, core := 0, stack := none, part := 0, leaf := 0, launch := 0, launchIa := 0, asid := 0, dom := 0, t := 0,
    w := 8, n := 8, rows := [], wgnum := 0, grid := 0, args := 0, csize := 1, member := 0, gang := [],
    scrBase := 0, scrUnits := 0, hitch := [], bar := [], streams := [], chans := List.replicate 16 [], charge := 0,
    ended := none, stopping := false, retired := false, entry := 0, frameBase := 0, frameSize := 0, callVa := 0,
    callSeq := 0, call := [], msg := [], callCore := 0, req := 0, swapped := false }

def State.thr (s : State) (wg t : Nat) : Thread := (Tbl.get? s.threads (tkey wg t)).getD Thread.blank
def State.modThr (s : State) (wg t : Nat) (f : Thread → Thread) : State :=
  { s with threads := Tbl.mod s.threads (tkey wg t) f }
def State.brd (s : State) (wg b : Nat) : Braid := (Tbl.get? s.braids (bkey wg b)).getD Braid.blank
def State.modBrd (s : State) (wg b : Nat) (f : Braid → Braid) : State :=
  { s with braids := Tbl.mod s.braids (bkey wg b) f }
def State.wgrp (s : State) (wg : Nat) : Workgroup := (Tbl.get? s.wgs wg).getD Workgroup.blank
def State.modWg (s : State) (wg : Nat) (f : Workgroup → Workgroup) : State := { s with wgs := Tbl.mod s.wgs wg f }
def State.core (s : State) (c : Nat) : Core := Tbl.getD s.cores c Core.reset
def State.modCore (s : State) (c : Nat) (f : Core → Core) : State :=
  { s with cores := Tbl.put s.cores c (f (s.core c)) }
def State.cluster (s : State) (c : Nat) : Cluster := Tbl.getD s.clusters c (Cluster.reset (c % 24))
def State.modCluster (s : State) (c : Nat) (f : Cluster → Cluster) : State :=
  { s with clusters := Tbl.put s.clusters c (f (s.cluster c)) }
def State.die (s : State) (d : Nat) : Die := Tbl.getD s.dies d Die.reset
def State.modDie (s : State) (d : Nat) (f : Die → Die) : State := { s with dies := Tbl.put s.dies d (f (s.die d)) }
def State.stack (s : State) (k : Nat) : Stack := Tbl.getD s.stackTbl k Stack.reset
def State.modStack (s : State) (k : Nat) (f : Stack → Stack) : State :=
  { s with stackTbl := Tbl.put s.stackTbl k (f (s.stack k)) }
def State.part (s : State) (p : Nat) : Partition := Tbl.getD s.parts p Partition.reset
def State.modPart (s : State) (p : Nat) (f : Partition → Partition) : State :=
  { s with parts := Tbl.put s.parts p (f (s.part p)) }
def State.modPower (s : State) (d : Nat) (f : Power → Power) : State :=
  s.modDie d (fun x => { x with power := f x.power })
def State.modTile (s : State) (cl t : Nat) (f : Tile → Tile) : State :=
  s.modCluster cl (fun x => { x with tiles := modAt x.tiles t f })
def State.tile (s : State) (cl t : Nat) : Tile := (s.cluster cl).tiles.getD t Tile.reset

/-- R400: the ASID with which a thread accesses memory. -/
def State.asidOf (s : State) (wg t : Nat) : Nat :=
  let g := s.wgrp wg
  if (s.thr wg t).priv then nbits (s.part g.part).tasid.toNat 11 0 else g.asid

/-- R400, R401: the ASID in which a waiting thread reads its counter: a wait that the handler holds was taken in user mode. -/
def State.waitAsid (s : State) (wg t : Nat) : Nat := if (s.thr wg t).wait = .ready then (s.wgrp wg).asid else s.asidOf wg t

/-- The braid index of thread t (R33). A block's braids are its rows of 16 threads (R203). -/
def Workgroup.braidOf (g : Workgroup) (t : Nat) : Nat := t / g.w

/-- The core a thread runs on: a block spreads over its stack's cores (R202). -/
def Workgroup.coreOf (g : Workgroup) (t : Nat) : Nat :=
  match g.stack with
  | some k => 192 + 48 * k + t / 16 % 48
  | none => g.core

/-- Home lanes of a braid (R33, R203). -/
def Workgroup.braidLanes (g : Workgroup) (b : Nat) : BitVec 64 :=
  match g.stack with
  | some _ => 0xFFFF#64
  | none => (BitVec.ofNat 64 (2 ^ g.w - 1)) <<< ((b * g.w) % 64)

/-- A fresh number from a counter of the model. -/
def State.freshSeq (s : State) : State × Nat := ({ s with seq := s.seq + 1 }, s.seq)
def State.freshId (s : State) : State × Nat := ({ s with nextId := s.nextId + 1 }, s.nextId)
/-- The next draw number of a free value (DESIGN CHOICE, log entry 1). -/
def State.draw (s : State) : State × Nat := ({ s with draws := s.draws + 1 }, s.draws)
def State.emit (s : State) (o : Out) : State := { s with outbox := s.outbox ++ [o] }
/-- An act to be done before CLK advances, after those already due. -/
def State.due (s : State) (a : Act) : State := { s with agenda := s.agenda ++ [a] }
/-- Acts to be done next, before those already due. -/
def State.dueNext (s : State) (l : List Act) : State := { s with agenda := l ++ s.agenda }

/-- Threads of a workgroup. -/
def State.threadsOf (s : State) (wg : Nat) : List Thread := (Tbl.vals s.threads).filter (fun x => x.wg == wg)

/-- Members of a bound set no longer form one (R47). -/
def State.dissolve (s : State) (b : Option Nat) : State :=
  match b with
  | none => s
  | some k => { s with threads := s.threads.map (fun p => if p.2.bound = some k then (p.1, { p.2 with bound := none }) else p) }

/-- R185: the workgroups that the multicast mask of a box copy names: of a mask of zero, the forming workgroup alone. -/
def EReq.members (r : EReq) : List Nat :=
  let mc := nbits (r.regs.getD 5 0#32).toNat 23 20
  if mc = 0 then [r.wg] else ((List.range r.gang.length).filter (fun i => nbit mc i)).map (fun i => r.gang.getD i 0)

/-- R117, R118: the workgroup whose allocation an operand address in register `i` of a request names. -/
def EReq.named (r : EReq) (i : Nat) : Nat :=
  let a := (r.regs.getD i 0#32).toNat
  if nbit a 31 then r.gang.getD (nbits a 30 29) 0 else r.wg

/-- R38: the request reads or writes the scratchpad of workgroup `w`: an operand of MXS, or the destination of a box copy to scratchpad. -/
def EReq.usesScratch (r : EReq) (w : Nat) : Bool :=
  match r.op with
  | .mxs => r.named 0 == w || r.named 1 == w || (nbit (r.regs.getD 2 0#32).toNat 27 && r.named 3 == w)
  | .cpbox => nbit (r.regs.getD 5 0#32).toNat 31 && r.members.contains w
  | _ => false

/-- R38, R167: the request reads or writes tile `t` of cluster `cl`. -/
def EReq.usesTile (r : EReq) (cl t : Nat) : Bool := (r.op == .mxs || r.op == .smx) && clusterOf r.core == cl && r.q == t

/-- R223: a code of the scoreboard is clear. -/
def Thread.clear (x : Thread) (clk code : Nat) : Bool :=
  match Tbl.get? x.busy code with
  | none => true
  | some none => false
  | some (some r) => decide (r ≤ clk)

/-! ## The word being executed -/

def State.turnOf (s : State) (c : Nat) : Option Turn := (s.core c).turn

def State.modTurn (s : State) (c : Nat) (f : Turn → Turn) : State :=
  s.modCore c (fun x => { x with turn := x.turn.map f })

/-- The members of the packet a core is issuing. -/
def State.members (s : State) (c pkt : Nat) : List Member :=
  match s.turnOf c with
  | some t => (t.pkts.getD pkt ⟨0, [], false, []⟩).members
  | none => []

def State.pktPc (s : State) (c pkt : Nat) : Nat :=
  match s.turnOf c with
  | some t => (t.pkts.getD pkt ⟨0, [], false, []⟩).pc
  | none => 0

def State.modMember (s : State) (c pkt i : Nat) (f : Member → Member) : State :=
  s.modTurn c (fun t => { t with pkts := modAt t.pkts pkt (fun p => { p with members := modAt p.members i f }) })

/-- R44: the number of the issue cycle that a core is in; 0 outside a turn. -/
def State.issueGrp (s : State) (c : Nat) : Nat :=
  match s.turnOf c with
  | some t => ((t.num * 4 + t.cycle) * 1024 + c) + 1
  | none => 0

/-- An effect that lands at the end of the issue cycle. -/
def State.atCycleEnd (s : State) (c : Nat) (a : CycAct) : State :=
  s.modTurn c (fun t => { t with acts := t.acts ++ [a] })

/-- R397, R398, R429: 0 recoverable, 1 lane-contained, 2 workgroup-fatal, 3 region-fatal. -/
def causeClass (c : Nat) : Nat :=
  if [0x01, 0x40, 0x41, 0x42, 0x43, 0x44, 0x45, 0x46, 0x48, 0x49, 0x4A, 0x58, 0x69, 0x6B].contains c then 0
  else if [0x20, 0x21, 0x62, 0x63].contains c then 1
  else if [0x47, 0x60, 0x61, 0x64, 0x66, 0x68, 0x6A].contains c then 3
  else 2

/-- R398: a word faults in member i: the lowest word's cause stands, but a fatal cause of a later word goes before a
recoverable one. A TRAP takes effect (R402). -/
def Member.addFault (m : Member) (pos : Nat) (a : Async) : Member :=
  let failed := if a.cause == 0x01 then m.failed else m.failed ||| (1#3 <<< pos)
  match m.fault with
  | none => { m with failed := failed, fault := some (pos, a) }
  | some (_, b) =>
    if causeClass b.cause == 0 && decide (2 ≤ causeClass a.cause) then { m with failed := failed, fault := some (pos, a) }
    else { m with failed := failed }

def State.faultMember (s : State) (c : Cur) (i cause info : Nat) : State :=
  s.modMember c.core c.pkt i (fun m => m.addFault c.pos ⟨cause, info, s.pktPc c.core c.pkt, c.word, c.pos, s.clk⟩)

/-- R221: push an entry: b3 := b2, b2 := b1, b1 := b0, b0 := e. -/
def pushLatch (l : List (Option Latch)) (e : Option Latch) : List (Option Latch) := e :: l.take 3

def State.pushInvalid (s : State) (m : Member) : State :=
  s.modThr m.wg m.t (fun x => { x with latch := pushLatch x.latch none })

/-! ## Operand codes (R219, R415) -/

/-- What a field of a word must name. -/
inductive Opn where
  | src (c : BitVec 7)
  | dst (n : Bool) (d : BitVec 7)
  | gen (c : BitVec 7)
  | pair (c : BitVec 7)
  | dpair (n : Bool) (d : BitVec 7)
  | quad (c : BitVec 7)
  | port (c : BitVec 7)
  | desc (c : BitVec 7) (count : Nat)
  deriving DecidableEq, Repr

def isPort (c : BitVec 7) : Bool := decide (112 ≤ c.toNat) && decide (c.toNat < 124)

def pairBad (n : Nat) (c : BitVec 7) : Bool := c.toNat % 2 == 1 || decide (n ≤ c.toNat + 1)

/-- R415: the field names nothing it may name, for n declared registers. -/
def Opn.bad (n : Nat) : Opn → Bool
  | .src c => decide (n ≤ c.toNat) && decide (c.toNat < 112)
  | .dst w d => !w && ((decide (n ≤ d.toNat) && decide (d.toNat < 112)) || decide (124 ≤ d.toNat))
  | .gen c => decide (n ≤ c.toNat)
  | .pair c => pairBad n c
  | .dpair w d => !w && pairBad n d
  | .quad c => c.toNat % 4 != 0 || decide (n ≤ c.toNat + 3)
  | .port c => !isPort c
  | .desc c k => decide (n ≤ c.toNat + (k - 1)) || (if k ≤ 2 then c.toNat % 2 != 0 else c.toNat % 4 != 0)

/-- R204: operand codes that a rhizoid core excludes. -/
def Opn.port? : Opn → Bool
  | .src c => isPort c
  | .dst w d => !w && isPort d
  | .gen c => isPort c
  | .pair c => isPort c
  | .dpair w d => !w && isPort d
  | .quad c => isPort c
  | .port c => isPort c
  | .desc c _ => isPort c

/-- R221, R416: the field names a latch whose entry is not valid. -/
def Opn.stale (latch : List (Option Latch)) : Opn → Bool
  | .src c => decide (124 ≤ c.toNat) && (latch.getD (c.toNat - 124) none).isNone
  | _ => false

/-- Where a word may run: everywhere, on main-die cores only (R204), or on rhizoid cores only (R412). -/
inductive Where where
  | anyCore | mainDie | rhizoid
  deriving DecidableEq, Repr

/-- What kind of word it is: pushes a latch on a false guard (V and X words), reads its guard (all but SEL), and must
have guard 0b00 (R417). -/
structure WKind where
  latch : Bool
  guarded : Bool
  unguardedOnly : Bool
  place : Where
  deriving DecidableEq, Repr

def wV : WKind := ⟨true, true, false, .anyCore⟩
/-- R221: a word whose only result is a predicate pushes nothing. -/
def wP : WKind := ⟨false, true, false, .anyCore⟩
def wSel : WKind := ⟨true, false, false, .anyCore⟩
def wK : WKind := ⟨false, true, false, .anyCore⟩
def wKMain : WKind := ⟨false, true, false, .mainDie⟩
def wVMain : WKind := ⟨true, true, false, .mainDie⟩
def wSigned : WKind := ⟨false, true, true, .mainDie⟩
def wRhizoid : WKind := ⟨false, true, false, .rhizoid⟩

/-- The cause that a word's own fields give in a thread with n registers on a core, by the order of R398. -/
def fieldCause (k : WKind) (h : Hdr) (ops : List Opn) (core n : Nat) (priv : Bool) (signed : Bool) : Option Nat :=
  if (k.place == .mainDie && isRhizoid core) || (k.place == .rhizoid && !isRhizoid core) then some 0x10
  else if isRhizoid core && ops.any Opn.port? then some 0x10
  else if ops.any (Opn.bad n) then some 0x11
  else if k.unguardedOnly && h.g != 0#2 then some 0x14
  else if signed && priv then some 0x1A
  else none

/-- R225: the guard, read from the predicates as they stood when the cycle began. -/
def Member.guard (m : Member) (h : Hdr) : Bool := h.g == 0#2 || m.ps.getLsbD h.g.toNat

/-- The members that execute the word, after field faults, skips (R404), false guards and stale latches have been dealt with. -/
def liveFrom (k : WKind) (h : Hdr) (ops : List Opn) (signed : Bool) (c : Cur) :
    List Member → Nat → State → State × List (Nat × Member)
  | [], _, s => (s, [])
  | m :: r, i, s =>
    if m.skip.getLsbD c.pos then
      liveFrom k h ops signed c r (i + 1) (if k.latch then s.pushInvalid m else s)
    else
      match fieldCause k h ops c.core (s.wgrp m.wg).n (s.thr m.wg m.t).priv (signed && m.guard h) with
      | some cause => liveFrom k h ops signed c r (i + 1) (s.faultMember c i cause 0)
      | none =>
        if k.guarded && !m.guard h then
          liveFrom k h ops signed c r (i + 1) (if k.latch then s.pushInvalid m else s)
        else if ops.any (Opn.stale (s.thr m.wg m.t).latch) then
          -- R398: 0x13 comes before the causes that the word's entry gives
          liveFrom k h ops signed c r (i + 1) (s.faultMember c i 0x13 0)
        else
          let (s', l) := liveFrom k h ops signed c r (i + 1) s
          (s', (i, m) :: l)

/-- A word executed thread by thread, in ascending home lane order (R44). -/
def lanes (c : Cur) (f : State → Cur → Member → Except (Nat × Nat) State) : List (Nat × Member) → State → State
  | [], s => s
  | (i, m) :: r, s =>
    match f s c m with
    | .ok s' => lanes c f r s'
    | .error (cause, info) => lanes c f r (if cause == 0 then s else s.faultMember c i cause info)

/-- The meaning of a word that acts on each thread for itself; with no word being executed, nothing happens. -/
def perLane (k : WKind) (h : Hdr) (ops : List Opn) (f : State → Cur → Member → Except (Nat × Nat) State)
    (s : State) : State :=
  match s.cur with
  | none => s
  | some c =>
    let (s', live) := liveFrom k h ops false c (s.members c.core c.pkt) 0 s
    lanes c f live s'

/-- The meaning of a signed command (R52). -/
def perSigner (k : WKind) (h : Hdr) (ops : List Opn) (f : State → Cur → Member → Except (Nat × Nat) State)
    (s : State) : State :=
  match s.cur with
  | none => s
  | some c =>
    let (s', live) := liveFrom k h ops true c (s.members c.core c.pkt) 0 s
    lanes c f live s'

/-- The meaning of a word that acts on the threads that execute it together (R46). -/
def perGroup (k : WKind) (h : Hdr) (ops : List Opn) (f : State → Cur → List (Nat × Member) → State)
    (s : State) : State :=
  match s.cur with
  | none => s
  | some c =>
    let (s', live) := liveFrom k h ops false c (s.members c.core c.pkt) 0 s
    f s' c live

/-! ## Registers -/

/-- The general register `c` as it stood when the packet began (R224). -/
def Member.reg (m : Member) (c : Nat) : Word := Tbl.getD m.snap c 0#32
def Member.reg64 (m : Member) (c : Nat) : Nat := (m.reg c).toNat + 2 ^ 32 * (m.reg (c + 1)).toNat

/-- R223, R248: a code is clear once every write to it is: the later of two CLKs; none while one is pending. -/
def laterOf (old : Option (Option Nat)) (ready : Nat) : Option Nat :=
  match old with
  | none => some ready
  | some none => none
  | some (some a) => some (max a ready)

/-- R223, R224, R248: write a register, clear from `ready` on, with its dependence (R150). Where an earlier word's result for it
is pending, the code stays held and that result will not be written. -/
def Thread.setReg (x : Thread) (d : Nat) (v : Word) (ready dep : Nat) : Thread :=
  { x with
    v := Tbl.set x.v 0#32 d v, busy := Tbl.put x.busy d (laterOf (Tbl.get? x.busy d) ready), dep := Tbl.set x.dep 0 d dep,
    covered := if Tbl.get? x.busy d = some none then d :: x.covered else x.covered }

/-- R32: a write to p0 has no effect. -/
def setPred (p : BitVec 32) (i : Nat) (b : Bool) : BitVec 32 :=
  if i = 0 then p else (p &&& ~~~(1#32 <<< i)) ||| ((if b then 1#32 else 0#32) <<< i)

/-- The thread waits for a result: the code is not clear until it is delivered. -/
def Thread.holdReg (x : Thread) (d : Nat) : Thread :=
  { x with busy := Tbl.put x.busy d none, covered := x.covered.filter (· != d) }

end Sys2Proof.Machine
end

