-- ==== Sys2Proof/Machine/Memory.lean ====
section
/-! DEFINITION. Addresses, range registers, translation, and memory at its homes (spec 05; R427 to R435, R456 to R461). -/

namespace Sys2Proof.Machine

/-! ## Scratchpad (R117 to R119, R433) -/

/-- R119: the physical unit of offset unit `j` in an allocation of `n` units from `base` under a granule. -/
def scrUnit (base n gran j : Nat) : Nat :=
  let g := 2 ^ gran
  let full := 48 * g * (n / (48 * g))
  if j < full then
    let blk := j / (48 * g)
    let w := j % (48 * g)
    base + blk * 48 * g + (w % g) * 48 + w / g
  else base + j

/-- R117 to R119, R433: the core and physical byte of a scratchpad access of a thread of `g`; none where cause 0x21. -/
def State.resolveScratch (s : State) (g : Workgroup) (addr size : Nat) : Option (Nat × Nat) :=
  let x := nbit addr 31
  let csel := nbits addr 30 29
  let gran := nbits addr 28 27
  let off := nbits addr 18 0
  if off % size != 0 || nbits addr 26 19 != 0 || (!x && csel != 0) || (x && (g.csize ≤ 1 || g.csize ≤ csel)) then none
  else
    let h := if x then s.wgrp (g.gang.getD csel 0) else g
    if h.scrUnits * 32 < off + size then none
    else some (h.core, scrUnit h.scrBase h.scrUnits gran (off / 32) * 32 + off % 32)

def State.scrRead (s : State) (core a n : Nat) : List Byte :=
  (rangeFrom a n).map (fun i => Tbl.getD (s.core core).scratch i 0#8)

/-- R119, R460: write scratchpad bytes; a word written whole is no longer poisoned. -/
def State.scrWrite (s : State) (core a : Nat) (data : List Byte) : State :=
  s.modCore core (fun x => { x with
    scratch := (data.zip (rangeFrom a data.length)).foldl (fun m p => Tbl.set m 0#8 p.2 p.1) x.scratch,
    scrPoison := x.scrPoison.filter (fun w => !(decide (a ≤ 4 * w) && decide (4 * w + 4 ≤ a + data.length))) })

/-- R460: a scratchpad word in a byte range is poisoned. -/
def State.scrPoisoned (s : State) (core a n : Nat) : Bool :=
  (s.core core).scrPoison.any (fun w => decide (a < 4 * w + 4) && decide (4 * w < a + n))

/-! ## Virtual addresses (R122, R123, R233, R432) -/

/-- R233, R432: form an address; none where cause 0x44. -/
def formVa (w : Bool) (segb base64 base32 off : Nat) : Option Nat :=
  let va := if w then base64 + off else segb + base32 + off
  if (w && decide (2 ^ 57 ≤ base64)) || decide (2 ^ 57 ≤ va) then none else some va

inductive Access where
  | read | write | atomic | fetch
  deriving DecidableEq, Repr

def rangeAllows (r : BitVec 192) : Access → Bool
  | .read => r.getLsbD 1
  | .write => r.getLsbD 2
  | .atomic => r.getLsbD 1 && r.getLsbD 2
  | .fetch => r.getLsbD 3

/-- R123: the lowest matching range register. -/
def lookupRange (s : State) (asid u : Nat) : Nat → Option (BitVec 192)
  | 0 => none
  | k + 1 =>
    let r := Tbl.getD s.ranges (asid * 16 + (15 - k)) 0#192
    let x := r.toNat
    if r.getLsbD 0 && decide (nbits x 56 16 ≤ u) && decide (u ≤ nbits x 104 64) then some r else lookupRange s asid u k

/-- R123: the IA and policy of a VA, or cause 0x41 or 0x42. -/
def State.translate (s : State) (asid va : Nat) (k : Access) : Except Nat (Nat × Nat) :=
  match lookupRange s asid (va / 65536) 16 with
  | none => .error 0x41
  | some r =>
    if rangeAllows r k then
      .ok ((nbits r.toNat 179 144 * 65536 + (va - nbits r.toNat 56 16 * 65536)) % 2 ^ 52, nbits r.toNat 5 4)
    else .error 0x42

/-- R125, R432: the IA names a region that exists. -/
def iaOk (ia : Nat) : Bool :=
  let r := nbits ia 51 48
  (decide (r ≤ 2) && !nbit ia 47) || r == 4 || (decide (8 ≤ r) && decide (r ≤ 11))

/-- The checks of R432 of one access, in order: 0x43, 0x41 or 0x42, 0x45; the IA and policy. -/
def State.checkVa (s : State) (asid va size : Nat) (k : Access) : Except Nat (Nat × Nat) :=
  if va % size != 0 then .error 0x43
  else
    match s.translate asid va k with
    | .error c => .error c
    | .ok (ia, pol) => if iaOk ia then .ok (ia, pol) else .error 0x45

/-! ## Homes (R125, R126) -/

def iaStack (ia : Nat) : Nat :=
  if nbits ia 51 48 == 0 then Nat.xor (nbits ia 14 12) (nbits ia 17 15) else nbits ia 46 44

/-- R125: the stack offset. -/
def iaSvo (ia : Nat) : Nat :=
  if nbits ia 51 48 == 0 then nbits ia 46 15 * 4096 + nbits ia 11 0 else 2 ^ 44 + nbits ia 43 0

def iaIsDev (ia : Nat) : Bool := decide (nbits ia 51 48 ≤ 2)
def iaIsHost (ia : Nat) : Bool := nbits ia 51 48 == 4
def iaIsPeer (ia : Nat) : Bool := decide (8 ≤ nbits ia 51 48)
def iaPeer (ia : Nat) : Nat := nbits ia 49 40

/-- R126, R152: 0 homed in this die, 1 in the other die, 2 in the host or a peer. -/
def homeClass (die ia : Nat) : Nat := if iaIsDev ia then (if dieOfStack (iaStack ia) = die then 0 else 1) else 2

/-- R155: the fence endpoint of a store of a source on a die: none for a home in the die. -/
def endpointOf (die ia : Nat) : Option Nat :=
  if iaIsHost ia then some 1 else if iaIsPeer ia then some (2 + iaPeer ia)
  else if homeClass die ia = 1 then some 0 else none

/-- Why a memory-side access is not performed: a page that is not resident (translator, page, evicted), a region-fatal
cause with INFO, a target's refusal (0x69), or no port to the peer that can be used (R375). -/
inductive MErr where
  | notRes (tr page : Nat) (evicted : Bool)
  | region (cause info : Nat)
  | refused
  | held (d : Nat)
  deriving DecidableEq, Repr

/-- Where a byte lives. -/
inductive Place where
  | dev (stack spa : Nat)
  | host (hpa : Nat)
  | peer (d off : Nat)
  deriving DecidableEq, Repr

/-- The key of a DRAM byte. -/
def dkey (stack spa : Nat) : Nat := stack * 2 ^ 36 + spa

def State.dramRead (s : State) (k n : Nat) : List Byte := (rangeFrom k n).map (fun i => Tbl.getD s.dram i 0#8)

/-- R460: a store that writes a whole 64-byte block clears its mark. -/
def State.dramWrite (s : State) (k : Nat) (data : List Byte) : State :=
  { s with
    dram := (data.zip (rangeFrom k data.length)).foldl (fun m p => Tbl.set m 0#8 p.2 p.1) s.dram,
    dramPoison := s.dramPoison.filter (fun b => !(decide (k ≤ 64 * b) && decide (64 * b + 64 ≤ k + data.length))) }

def State.dram64 (s : State) (k : Nat) : Nat := leVal (s.dramRead k 8)

/-- R460: a 64-byte block of a DRAM range is poisoned. -/
def State.dramPoisoned (s : State) (k n : Nat) : Bool :=
  s.dramPoison.any (fun b => decide (k < 64 * b + 64) && decide (64 * b < k + n))

/-- A byte of host memory (DESIGN CHOICE, log entry 5). -/
def State.hostByteAt (s : State) (a : Nat) : Byte := (Tbl.get? s.hostMem a).getD (Config.hostByte a)

/-! ## Table walks (R128) -/

/-- What a walk finds: an output address with the leaf's address and contents; a page not resident (and whether it was
evicted, with the entry's address); or a malformed entry. -/
inductive WalkRes where
  | hit (out leafAt leaf : Nat)
  | absent (evicted : Bool) (entryAt : Nat)
  | bad (entryAt : Nat)
  deriving DecidableEq, Repr

/-- R128: an entry's ADDR as an address. -/
def entryAddr (e : Nat) : Nat := nbits e 51 8 * 256

/-- R128, R130: the judgement of one entry at a level (1 to 3), for the stack translator or another. ADDR[11:8] of a level-1 entry is not judged:
the table it names is walked as written, whatever its alignment (DESIGN CHOICE, log entry 88). -/
def entryBad (stack : Bool) (level e : Nat) : Bool :=
  nbits e 63 52 != 0 || nbits e 7 5 != 0 || nbit e 4 ||
  (stack && nbits e 51 36 != 0) || (level == 1 && nbit e 1) || (level == 3 && !nbit e 1) ||
  (level == 2 && nbit e 1 && nbits e 20 8 != 0) || (level == 3 && nbits e 15 8 != 0) ||
  (stack && decide (Config.spaLimit < entryAddr e + (if level == 3 then 65536 else if nbit e 1 then 2 ^ 21 else 256)))

/-- R128: the three-level walk; `rd` reads a double of the table at an address. -/
def walk (stack : Bool) (rd : Nat → Nat) (root input : Nat) : WalkRes :=
  let a1 := root + 8 * nbits input 47 30
  let e1 := rd a1
  if !nbit e1 0 then .absent false a1
  else if entryBad stack 1 e1 then .bad a1
  else
    let a2 := entryAddr e1 + 8 * nbits input 29 21
    let e2 := rd a2
    if !nbit e2 0 then .absent (stack && nbit e2 4) a2
    else if entryBad stack 2 e2 then .bad a2
    else if nbit e2 1 then .hit (entryAddr e2 + nbits input 20 0) a2 e2
    else
      let a3 := entryAddr e2 + 8 * nbits input 20 16
      let e3 := rd a3
      if !nbit e3 0 then .absent (stack && nbit e3 4) a3
      else if entryBad stack 3 e3 then .bad a3
      else .hit (entryAddr e3 + nbits input 15 0) a3 e3

/-- The addresses of the entries that a walk reads. -/
def walkReads (stack : Bool) (rd : Nat → Nat) (root input : Nat) : List Nat :=
  let a1 := root + 8 * nbits input 47 30
  let e1 := rd a1
  if !nbit e1 0 || entryBad stack 1 e1 then [a1]
  else
    let a2 := entryAddr e1 + 8 * nbits input 29 21
    let e2 := rd a2
    if !nbit e2 0 || entryBad stack 2 e2 || nbit e2 1 then [a1, a2] else [a1, a2, entryAddr e2 + 8 * nbits input 20 16]

/-- R128: the leaf with A set, and D on a write. -/
def leafTouched (e : Nat) (write : Bool) : Nat :=
  let e := if nbit e 2 then e else e + 4
  if write && !nbit e 3 then e + 8 else e

/-- The address of a byte whose page is at `out`, from a cached entry (R129): 2 * page output + D. -/
def tlbOut (entry input : Nat) : Nat := entry / 2 * 65536 + input % 65536

/-- R127 to R129: a stack translator. A cached entry may be used or not (DESIGN CHOICE, log entry 10). -/
def State.stackWalk (s : State) (k svo : Nat) (write : Bool) : Except MErr (State × Nat) :=
  let st := s.stack k
  let page := svo / 65536
  match Tbl.get? st.tlb page, Config.tlbHit s.draws && !(st.stroot == 0#64) with
  | some e, true =>
    if write && e % 2 == 0 then walkGo { s with draws := s.draws + 1 } k svo page write
    else .ok ({ s with draws := s.draws + 1 }, tlbOut e svo)
  | _, _ => walkGo { s with draws := s.draws + 1 } k svo page write
where
  /-- The walk in memory. -/
  walkGo (s : State) (k svo page : Nat) (write : Bool) : Except MErr (State × Nat) :=
    let root := nbits (s.stack k).stroot.toNat 35 0
    let rd := fun a => s.dram64 (dkey k a)
    if root = 0 then .error (.notRes k page false)
    -- R461: a poisoned entry; INFO names its SPA (DEDUCED, log entry 96)
    else match (walkReads true rd root svo).find? (fun a => s.dramPoisoned (dkey k a) 8) with
    | some a => .error (.region 0x61 a)
    | none =>
      match walk true rd root svo with
      | .absent ev _ => .error (.notRes k page ev)
      | .bad a => .error (.region 0x47 (k * 2 ^ 60 + a))
      | .hit out at_ e =>
        let e' := leafTouched e write
        let s1 := if e' = e then s else s.dramWrite (dkey k at_) (leBytes 8 e')
        .ok (s1.modStack k (fun x => { x with
          tlb := Tbl.put x.tlb page (2 * (out / 65536) + (if nbit e' 3 then 1 else 0)) }), out)

/-- A place in device memory for an IA of regions 0x0 to 0x2 (a region 0x2 IA names the stack-direct byte). -/
def State.resolveDev (s : State) (ia : Nat) (write : Bool) : Except MErr (State × Place) :=
  match s.stackWalk (iaStack ia) (iaSvo ia) write with
  | .error e => .error e
  | .ok (s', spa) => .ok (s', .dev (iaStack ia) spa)

/-! ## Lines -/

def overlaps (a n b m : Nat) : Bool := decide (a < b + m) && decide (b < a + n)

def isAlias (ia : Nat) : Bool := nbits ia 51 48 == 2

/-- The bytes of a line, where it holds all of them. -/
def Line.bytesAt (l : Line) : Nat → Nat → Option (List Byte)
  | _, 0 => some []
  | o, n + 1 =>
    match Tbl.get? l.data o, Line.bytesAt l (o + 1) n with
    | some b, some r => some (b :: r)
    | _, _ => none

/-- Write bytes given by IA into the part of a line they fall in. -/
def Line.overlay (l : Line) (ia : Nat) (data : List Byte) : Line :=
  { l with
    data := (data.zip (rangeFrom ia data.length)).foldl
      (fun m p => if p.2 / 128 = l.tag then Tbl.put m (p.2 % 128) p.1 else m) l.data }

/-- Runs of the bytes of a table at rising offsets, each within one 64-byte block. -/
def dirtyRuns : List Nat → Tbl Byte → List (Nat × List Byte)
  | [], _ => []
  | o :: r, m =>
    let b := Tbl.getD m o 0#8
    match dirtyRuns r m with
    | (p, bs) :: q => if p = o + 1 ∧ p % 64 ≠ 0 then (o, b :: bs) :: q else (o, [b]) :: (p, bs) :: q
    | [] => [(o, [b])]

/-! ## Caches (R132 to R134) -/

/-- R134: the victim of a full set, by class and least recent use. -/
def victim (l : List Line) : Option Line :=
  match minBy Line.used (l.filter (fun x => x.cls == 1)) with
  | some x => some x
  | none => match minBy Line.used (l.filter (fun x => x.cls == 0)) with
    | some x => some x
    | none => minBy Line.used l

/-- R134: where the limit of evict-last lines would be passed, the least recent one becomes normal. -/
def capLast (limit : Nat) (l : List Line) : List Line :=
  let el := l.filter (fun x => x.cls == 2)
  if el.length < limit then l
  else match minBy Line.used el with
    | some v => l.map (fun x => if x.tag = v.tag then { x with cls := 0 } else x)
    | none => l

/-- R133: the class of a hint. -/
def hintClass (h : Nat) : Nat := if h == 0 then 0 else if h == 2 then 2 else 1

/-- R134: touch a present line. -/
def touchLine (sets ways tag cls now : Nat) (l : List Line) : List Line :=
  let same := l.filter (fun x => x.tag % sets == tag % sets)
  let rest := l.filter (fun x => x.tag % sets != tag % sets)
  let same := if cls == 2 && same.any (fun x => x.tag == tag && x.cls != 2) then capLast (ways * 3 / 4) same else same
  rest ++ same.map (fun x => if x.tag = tag then { x with cls := cls, used := now } else x)

/-- R134: place a line, giving the lines without it and the line it replaces. DESIGN CHOICE (log entry 101): of the index R132 says `IA`; an IA
selects the set that is its line number modulo the sets of the cache, in an L2 the 49,152 of all its slices. -/
def placeLine (sets ways : Nat) (n : Line) (l : List Line) : List Line × Option Line :=
  let l := l.filter (fun x => x.tag != n.tag)
  let same := l.filter (fun x => x.tag % sets == n.tag % sets)
  let same := if n.cls == 2 then capLast (ways * 3 / 4) same else same
  let rest := l.filter (fun x => x.tag % sets != n.tag % sets)
  if same.length < ways then (n :: (rest ++ same), none)
  else match victim same with
    | some v => (n :: (rest ++ same.filter (fun x => x.tag != v.tag)), some v)
    | none => (n :: (rest ++ same), none)

def findLine (tag : Nat) (l : List Line) : Option Line := l.find? (fun x => x.tag == tag)

/-- R132 to R134: the memory-side cache takes an access to a 64-byte block; data stay in `dram` (DESIGN CHOICE, log entry 9). A
block that hint 0b11 misses is not placed. -/
def State.mscTouch (s : State) (k spa hint : Nat) (write : Bool) : State :=
  let tag := spa / 64
  let (s1, now) := s.freshSeq
  s1.modStack k (fun st =>
    let st' := match findLine tag st.msc with
      | some _ => { st with msc := touchLine 32768 16 tag (hintClass hint) now st.msc }
      | none =>
        if hint == 3 then st
        else { st with msc := (placeLine 32768 16 (Line.fresh tag 0 (hintClass hint) now) st.msc).1 }
    if write then { st' with msc := st'.msc.map (fun x => if x.tag = tag then { x with dirty := [0] } else x) } else st')

/-! ## The L2 as the home of device lines (R132, R133, R149, R163, R166, R435, R460) -/

/-- R132: a home line holds its 64-byte sector `b`. -/
def Line.holds (l : Line) (b : Nat) : Bool := (Tbl.get? l.data (64 * b)).isSome

/-- R132: the dirty bytes of a line's sector. -/
def Line.dirtyIn (l : Line) (b : Nat) : List Nat := l.dirty.filter (fun o => o / 64 == b)

/-- R132, R460: bytes of one sector are stored into a home line: they are dirty, and a whole sector is poisoned no more. -/
def Line.store (l : Line) (o : Nat) (data : List Byte) : Line :=
  { l with
    data := (data.zip (rangeFrom o data.length)).foldl (fun m p => Tbl.put m p.2 p.1) l.data,
    dirty := (l.dirty ++ rangeFrom o data.length).eraseDups,
    poison := if data.length = 64 then l.poison.filter (· != o / 64) else l.poison }

/-- The write-back of a sector. -/
def Line.back (l : Line) (b : Nat) : Back :=
  ⟨l.tag * 128 + 64 * b, (sortBy id (l.dirtyIn b)).map (fun o => (o % 64, Tbl.getD l.data o 0#8)), l.poison.contains b⟩

/-- R132, R435: a write-back reaches the memory-side cache: the dirty bytes stand in the block, the others keep their value (R165). -/
def State.putBack (s : State) (x : Back) : Except MErr State :=
  match s.resolveDev x.ia true with
  | .error e => .error e
  | .ok (s', .dev k spa) =>
    let s1 := (dirtyRuns (x.data.map Prod.fst) x.data).foldl (fun s r => s.dramWrite (dkey k (spa + r.1)) r.2) s'
    let s2 := if x.poison then { s1 with dramPoison := (s1.dramPoison ++ [dkey k spa / 64]).eraseDups } else s1
    .ok (s2.mscTouch k spa 0 true)
  | .ok (s', _) => .ok s'

/-- R435: where its page is not resident it is held in the translator, with no record; a write-back that meets a malformed or poisoned table is
held too (DESIGN CHOICE, log entry 97). -/
def State.backOut (s : State) (x : Back) : State :=
  match s.putBack x with
  | .ok s1 => s1
  | .error _ => { s with heldBacks := s.heldBacks ++ [x] }

/-- R132: the dirty sectors of a line of the L2 are written back. Only home lines have any: those of other lines are written through. -/
def State.lineBack (s : State) (l : Line) : State :=
  [0, 1].foldl (fun s b => if (l.dirtyIn b).isEmpty then s else s.backOut (l.back b)) s

/-- R132, R134: place a line in the L2 of a die; the one that it replaces is written back. -/
def State.l2Put (s : State) (die : Nat) (n : Line) : State :=
  let (ls, v) := placeLine 49152 16 n (s.die die).l2
  let s1 := s.modDie die (fun d => { d with l2 := ls })
  match v with
  | some x => s1.lineBack x
  | none => s1

/-- R163: a die's L2 writes a line back and keeps it. -/
def State.l2Clean (s : State) (die tag : Nat) : State :=
  match findLine tag (s.die die).l2 with
  | none => s
  | some l => (s.modDie die (fun d => { d with l2 := d.l2.map (fun x => if x.tag = tag then { x with dirty := [] } else x) })).lineBack l

/-- R163, R166: a die's L2 holds the line no more, whatever its policy; what it holds dirty is written back. -/
def State.l2Flush (s : State) (die tag : Nat) : State :=
  let s1 := s.l2Clean die tag
  s1.modDie die (fun x => { x with l2 := x.l2.filter (fun l => l.tag != tag) })

/-- R132, R435: a sector of a line comes from the memory-side cache; a write-back of it that is held goes back into the line. -/
def State.l2Fill (s : State) (l : Line) (b hint : Nat) : Except MErr (State × Line) :=
  let ia := l.tag * 128 + 64 * b
  match s.resolveDev ia false with
  | .error e => .error e
  | .ok (s', .dev k spa) =>
    let l1 := { l with
      data := ((s'.dramRead (dkey k spa) 64).zip (rangeFrom (64 * b) 64)).foldl (fun m p => Tbl.put m p.2 p.1) l.data,
      poison := if s'.dramPoisoned (dkey k spa) 64 then b :: l.poison else l.poison }
    let l2 := (s'.heldBacks.filter (fun x => x.ia == ia)).foldl (fun l x =>
      let l' := (dirtyRuns (x.data.map Prod.fst) x.data).foldl (fun l r => l.store (64 * b + r.1) r.2) l
      if x.poison then { l' with poison := (b :: l'.poison).eraseDups } else l') l1
    .ok (State.mscTouch { s' with heldBacks := s'.heldBacks.filter (fun x => x.ia != ia) } k spa hint false, l2)
  | .ok (s', _) => .ok (s', l)

/-- R132 to R134: the home slice of a device IA's line takes an access: the line and its sector are there from then on, with the access's class
and, where it brings the line, its policy. A sector that is there is not translated. -/
def State.l2Fetch (s : State) (ia hint pol : Nat) : Except MErr (State × Line) :=
  let die := dieOfStack (iaStack ia)
  let tag := ia / 128
  let (s0, now) := s.freshSeq
  let touched := fun (s : State) => s.modDie die (fun d => { d with l2 := touchLine 49152 16 tag (hintClass hint) now d.l2 })
  match findLine tag (s.die die).l2 with
  | some l =>
    if l.holds (ia % 128 / 64) then .ok (touched s0, l)
    else match s0.l2Fill l (ia % 128 / 64) hint with
      | .error e => .error e
      | .ok (s1, l1) => .ok (touched (s1.modDie die (fun d => { d with l2 := d.l2.map (fun x => if x.tag = tag then l1 else x) })), l1)
  | none =>
    match s0.l2Fill (Line.fresh tag pol (hintClass hint) now) (ia % 128 / 64) hint with
    | .error e => .error e
    | .ok (s1, l1) => .ok (s1.l2Put die l1, l1)

/-- The home of a device IA holds its sector: an access of a main die to it meets no translator. -/
def State.l2Has (s : State) (ia : Nat) : Bool :=
  decide (nbits ia 51 48 ≤ 1) && decide (ia < 2 ^ 52) &&
    (findLine (ia / 128) (s.die (dieOfStack (iaStack ia))).l2).any (fun l => l.holds (ia % 128 / 64))

/-- R125, R214: the stack-direct IA that an IA of the reduction aperture names; another device IA itself. -/
def homeIa (ia : Nat) : Nat := if isAlias ia then 2 ^ 48 + ia % 2 ^ 48 else ia

/-- Bytes of one 64-byte block of device memory at its home, and whether they are poisoned. -/
def State.devRead (s : State) (ia n hint : Nat) : Except MErr (State × List Byte × Bool) :=
  match s.l2Fetch (homeIa ia) hint 0 with
  | .error e => .error e
  | .ok (s1, l) => .ok (s1, (l.bytesAt (ia % 128) n).getD [], l.poison.contains (ia % 128 / 64))

/-- Change the home line of a device IA. -/
def State.modHome (s : State) (ia : Nat) (f : Line → Line) : State :=
  s.modDie (dieOfStack (iaStack ia)) (fun d => { d with l2 := d.l2.map (fun x => if x.tag = ia / 128 then f x else x) })

/-- R132, R149: bytes of one 64-byte block are written at their home. -/
def State.devWrite (s : State) (ia : Nat) (data : List Byte) (hint pol : Nat) : Except MErr State :=
  match s.l2Fetch ia hint pol with
  | .error e => .error e
  | .ok (s1, _) => .ok (s1.modHome ia (fun l => l.store (ia % 128) data))

/-- R124, R149: an invalidation reaches a die's L2: a coherent copy is gone; a software-managed line receives none. -/
def State.l2Drop (s : State) (die tag : Nat) : State :=
  s.modDie die (fun x => { x with l2 := x.l2.filter (fun l => l.tag != tag || l.pol != 0) })

/-- R149: a notification in the die's one order, to every core of the die that holds a copy of the line. -/
def State.notify (s : State) (die tag : Nat) : State :=
  let (s1, q) := s.freshSeq
  let s2 := s1.modDie die (fun x => { x with noteSeq := q })
  { s2 with cores := s2.cores.map (fun p =>
      if dieOf p.1 = die && (findLine tag p.2.l1d).isSome then (p.1, { p.2 with notes := p.2.notes ++ [(q, tag, s.clk)] }) else p) }

/-- R124, R132, R149: the copies that the writer's die holds of a line homed off it: a coherent one is gone from its L2, by notification from its
cores; a software-managed one takes the bytes, which pass through it. A store of a core has done so on its way (`told`). -/
def State.tellOwn (s : State) (home die ia : Nat) (data : List Byte) (told : Bool) : State :=
  if told || home == die then s
  else
    let tag := ia / 128
    let s1 := s.modDie die (fun d => { d with l2 := d.l2.map (fun l => if l.tag = tag ∧ l.pol ≠ 0 then l.overlay ia data else l) })
    (s1.l2Drop die tag).notify die tag

/-! ## Translators whose tables are named by IA (R127, R128) -/

/-- Read a double of a table held at a stack-direct IA (R127): its value where its page is resident. -/
def State.tableDouble (s : State) (ia : Nat) : Except MErr Nat :=
  match s.devRead ia 8 0 with
  | .error e => .error e
  | .ok (_, d, p) => if p then .error (.region 0x61 ia) else .ok (leVal d)

/-- R128: a read of device memory at an IA sets A in the leaf of its stack translator; where it is refused, nothing changes. -/
def State.touch (s : State) (ia : Nat) : State :=
  if !iaIsDev ia then s
  else match s.devRead ia 8 0 with
    | .ok (s', _) => s'
    | .error _ => s

def State.touchAll (s : State) (l : List Nat) : State := l.foldl State.touch s

/-- R129: the cached entries of the translators whose tables are named by IA (8 host aperture, 9 peer import, 10 CXL.mem
window). -/
def State.iaTlb (s : State) (tr : Nat) : Tbl Nat := if tr = 8 then s.hatlb else if tr = 9 then s.pitlb else s.cmtlb

def State.putIaTlb (s : State) (tr : Nat) (t : Tbl Nat) : State :=
  if tr = 8 then { s with hatlb := t } else if tr = 9 then { s with pitlb := t } else { s with cmtlb := t }

/-- R127, R128: the walk in memory of a translator whose tables are named by IA. -/
def State.iaWalkGo (s : State) (tr root input : Nat) (write : Bool) : Except MErr (State × Nat) :=
  let rd := fun a => match s.tableDouble a with
    | .ok v => v
    | .error _ => 0
  -- a table page that is not resident itself is reported as the stack's page
  let bad := fun a => match s.tableDouble a with
    | .error e => some e
    | .ok _ => none
  match walk false rd root input with
  | .absent _ a => .error ((bad a).getD (.notRes tr (input / 65536) false))
  | .bad a => .error (.region 0x47 (tr * 2 ^ 60 + a))
  | .hit out at_ e =>
    -- R128: reading the entries sets A in the leaves of the stack translators that map them
    let s := s.touchAll (walkReads false rd root input)
    let e' := leafTouched e write
    let keep := fun (s : State) => s.putIaTlb tr (Tbl.put (s.iaTlb tr) (input / 65536) (2 * (out / 65536) + (if nbit e' 3 then 1 else 0)))
    if e' = e then .ok (keep s, out)
    else match s.devWrite at_ (leBytes 8 e') 0 0 with
      | .ok s' => .ok (keep ((s'.notify (dieOfStack (iaStack at_)) (at_ / 128)).tellOwn (dieOfStack (iaStack at_)) 0 at_ (leBytes 8 e') false), out)
      | .error x => .error x

/-- R127 to R129: one of those translators. A cached entry may be used or not (DESIGN CHOICE, log entry 10). -/
def State.iaWalk (s : State) (tr root input : Nat) (write : Bool) : Except MErr (State × Nat) :=
  if root = 0 then .error (.notRes tr (input / 65536) false)
  else match Tbl.get? (s.iaTlb tr) (input / 65536), Config.tlbHit s.draws with
    | some e, true =>
      if write && e % 2 == 0 then State.iaWalkGo { s with draws := s.draws + 1 } tr root input write
      else .ok ({ s with draws := s.draws + 1 }, tlbOut e input)
    | _, _ => State.iaWalkGo { s with draws := s.draws + 1 } tr root input write

/-- R127, R137: an incoming peer offset: its local IA. -/
def State.peerImport (s : State) (off : Nat) (write : Bool) : Except MErr (State × Nat) :=
  match s.iaWalk 9 (nbits s.piroot.toNat 51 0) (nbits off 39 0) write with
  | .error (.notRes ..) => .error .refused
  | .error e => .error e
  | .ok (s', ia) => if iaIsDev ia && iaOk ia then .ok (s', ia) else .error .refused

/-- The model's own number for a byte that a base die names by SPA (R197, R201): above every IA. -/
def spaIa (stack spa : Nat) : Nat := 2 ^ 52 + dkey stack spa

/-- The place of an IA (R125 to R127), or of a `spaIa`. -/
def State.resolve (s : State) (ia : Nat) (write : Bool) : Except MErr (State × Place) :=
  if 2 ^ 52 ≤ ia then .ok (s, .dev ((ia - 2 ^ 52) / 2 ^ 36) ((ia - 2 ^ 52) % 2 ^ 36))
  else if iaIsDev ia then s.resolveDev ia write
  else if iaIsHost ia then
    if !s.cxlUp then .error (.region 0x6A (nbits ia 47 0))
    else match s.iaWalk 8 (nbits s.haroot.toNat 51 0) (nbits ia 47 0) write with
      | .error e => .error e
      | .ok (s', hpa) => .ok (s', .host hpa)
  else
    let d := iaPeer ia
    if d = nbits s.devidx.toNat 9 0 then
      match s.peerImport (nbits ia 39 0) write with
      | .error e => .error e
      | .ok (s', ia') => s'.resolveDev ia' write
    else if s.lost.contains d then .error (.region 0x68 d)
    else .ok (s, .peer d (nbits ia 39 0))

/-! ## Accesses at the home (R149, R156, R214, R460) -/

/-- R375, R455: the port by which a request of a die leaves for an offset of a peer, the next one at each retry; none where no port can be
used. -/
def State.portTo (s : State) (die d off : Nat) : Option Nat :=
  let up := fun p => (s.ports.getD p Port.reset).en && (s.ports.getD p Port.reset).up
  let own := (rangeFrom (4 * die) 4).filter up
  let e := if own.isEmpty then (rangeFrom (4 * (1 - die)) 4).filter up else own
  if e.isEmpty then none else some (e.getD ((d + nbits off 15 12 + Tbl.getD s.peerOpen d 0) % e.length) 0)

/-- R374: this device's own index. -/
def State.ownIndex (s : State) : Nat := nbits s.devidx.toNat 9 0

/-- An access goes to another device that is not lost. -/
def State.isFarPeer (s : State) (ia : Nat) : Bool :=
  iaIsPeer ia && decide (ia < 2 ^ 52) && iaPeer ia != s.ownIndex && !s.lost.contains (iaPeer ia)

/-- R455: an access goes to another device that has not answered it. -/
def State.unanswered (s : State) (ia : Nat) : Bool := s.isFarPeer ia && !(s.peerOpen.any (fun x => x.1 == iaPeer ia))

/-- R455: the access that a request was sent for is over. -/
def State.gateShut (s : State) : State := { s with peerOpen := [] }

/-- The key of a peer's byte in `peerMem`. -/
def pkey (d off : Nat) : Nat := d * 2 ^ 40 + off

/-- What a peer answers for `n` bytes: of a byte that this device wrote, what it wrote, unless another agent has changed it; of
another, a free value (DESIGN CHOICE, log entry 6). -/
def State.peerBytes (s : State) (d off n : Nat) : List Byte :=
  (List.range n).map (fun i => match Tbl.get? s.peerMem (pkey d off + i) with
    | some b => if Config.peerChanged s.draws i then Config.peerByte s.draws i else b
    | none => Config.peerByte s.draws i)

def State.putPeer (s : State) (d off : Nat) (data : List Byte) : State :=
  { s with peerMem := (data.zip (rangeFrom (pkey d off) data.length)).foldl (fun m p => Tbl.put m p.2 p.1) s.peerMem }

/-- R373: the whole doubles that a write covers, and where they begin; bytes that it does not write are none. -/
def wholeDoubles (off : Nat) (data : List Byte) : Nat × List (Option Byte) :=
  let pre := off % 8
  let body := List.replicate pre none ++ data.map some
  (off - pre, body ++ List.replicate ((8 - body.length % 8) % 8) none)

/-- R373, R376: a read request of a peer and its answer. -/
def State.peerLoad (s : State) (die d off n : Nat) : Except MErr (State × List Byte × Bool) :=
  match s.portTo die d off with
  | none => .error (.held d)
  | some p =>
    let pre := off % 8
    let len := (pre + n + 7) / 8 * 8
    .ok (State.emit { s with draws := s.draws + 1 } (.peerLoad s.ownIndex d p (off - pre) len), s.peerBytes d off n,
      Config.peerPoison s.draws)

/-- R373, R376: a write request to a peer. -/
def State.peerStore (s : State) (die d off : Nat) (data : List Byte) : Except MErr State :=
  match s.portTo die d off with
  | none => .error (.held d)
  | some p =>
    let w := wholeDoubles off data
    .ok ((State.emit { s with draws := s.draws + 1 } (.peerSend s.ownIndex d p w.1 w.2)).putPeer d off data)

/-- R127: an IA that names this device by its own peer index goes to the peer import translator: its local IA. -/
def State.ownIa (s : State) (ia : Nat) (write : Bool) : Except MErr (State × Nat) :=
  if decide (ia < 2 ^ 52) && iaIsPeer ia && iaPeer ia == s.ownIndex then s.peerImport (nbits ia 39 0) write
  else .ok (s, ia)

/-- An IA of device memory, and not a base die's own number for a byte. -/
def homedHere (ia : Nat) : Bool := decide (ia < 2 ^ 52) && iaIsDev ia

/-- The bytes an IA range holds at its home, and whether they are poisoned, read by an agent of `die`. The range lies in one
64-byte block of device memory, or anywhere in the host or a peer. -/
def State.homeRead (s : State) (die ia n hint : Nat) : Except MErr (State × List Byte × Bool) :=
  match s.ownIa ia false with
  | .error e => .error e
  | .ok (s0, a) =>
    if homedHere a then s0.devRead a n hint
    else match s0.resolve a false with
      | .error e => .error e
      | .ok (s', .dev k spa) => .ok (s'.mscTouch k spa hint false, s'.dramRead (dkey k spa) n, s'.dramPoisoned (dkey k spa) n)
      | .ok (s', .host a) =>
        if Config.hostError s'.draws s'.clk then .error (.region 0x6A (nbits ia 47 0))
        else
        .ok ({ s' with draws := s'.draws + 1 }, (rangeFrom a n).map s'.hostByteAt, s'.hostPoison.any (fun b => decide (a < 64 * b + 64) && decide (64 * b < a + n)))
      | .ok (s', .peer d off) => s'.peerLoad die d off n

/-- R196, R206: the same by a rhizoid core of the stack: no L2 takes part. -/
def State.stackRead (s : State) (ia n hint : Nat) : Except MErr (State × List Byte × Bool) :=
  match s.resolve ia false with
  | .error e => .error e
  | .ok (s', .dev k spa) => .ok (s'.mscTouch k spa hint false, s'.dramRead (dkey k spa) n, s'.dramPoisoned (dkey k spa) n)
  | .ok (s', _) => .ok (s', List.replicate n 0#8, false)

/-- R214: the payload of a reduction write added to the block's doubles, modulo 2^64. -/
def redSum (old new : List Byte) : Nat → List Byte
  | 0 => []
  | k + 1 => leBytes 8 (leVal (old.take 8) + leVal (new.take 8)) ++ redSum (old.drop 8) (new.drop 8) k

/-- R214: a write to region 0x2 that is a reduction write. -/
def redOk (ia n : Nat) : Bool := ia % 8 == 0 && n % 8 == 0 && decide (8 ≤ n) && decide (ia % 64 + n ≤ 64)

/-- R376, R434, R435: the target of a peer access of `n` bytes refuses it: the device itself by its import translator, another
device by a free choice (DESIGN CHOICE, log entry 6). -/
def State.peerRefused (s : State) (ia n draw : Nat) (k : Access) : Bool :=
  if !(decide (ia < 2 ^ 52) && iaIsPeer ia) then false
  else if iaPeer ia == s.ownIndex then
    match s.peerImport (nbits ia 39 0) (k != .read) with
    | .error .refused => true
    | .error _ => false
    | .ok (_, a) => nbits a 51 48 == 2 && (k == .atomic || (k == .write && !redOk a n))
  else !s.lost.contains (iaPeer ia) && Config.peerRefuses draw s.clk ia

/-- Perform a write at the home of an IA that is not the device's own peer index (R149, R156, R166, R214, R368, R376): `die` is
the writer's die, `hint` and `pol` go with the access, and `told` says that the writer's die has been told (R149). -/
def State.homeAt (s : State) (die ia : Nat) (data : List Byte) (hint pol : Nat) (told : Bool) : Except MErr State :=
  let home := dieOfStack (iaStack ia)
  if homedHere ia && !isAlias ia then
    match s.devWrite ia data hint pol with
    | .error e => .error e
    | .ok s1 => .ok ((if pol = 0 then s1.notify home (ia / 128) else s1).tellOwn home die ia data told)
  else match s.resolve ia true with
  | .error e => .error e
  | .ok (s', .dev k spa) =>
    if isAlias ia && decide (ia < 2 ^ 52) then
      -- R166: the home die writes back and invalidates its copy of the stack-direct line before the add
      let tag := homeIa ia / 128
      let s1 := s'.l2Flush home tag
      let old := s1.dramRead (dkey k spa) data.length
      let sum := redSum old data (data.length / 8)
      let s2 := s1.dramWrite (dkey k spa) sum
      -- R460: a reduction add into a poisoned block leaves it poisoned
      let s3 := { s2 with dramPoison := s1.dramPoison }
      .ok (((s3.mscTouch k spa 0 true).notify home tag).tellOwn home die (homeIa ia) sum told)
    else .ok ((s'.dramWrite (dkey k spa) data).mscTouch k spa hint true)
  | .ok (s', .host a) =>
    if Config.hostError s'.draws s'.clk then .error (.region 0x6A (nbits ia 47 0))
    else
    .ok (State.tellOwn { s' with
      draws := s'.draws + 1,
      hostMem := (data.zip (rangeFrom a data.length)).foldl (fun m p => Tbl.put m p.2 p.1) s'.hostMem,
      hostPoison := s'.hostPoison.filter (fun b => !(decide (a ≤ 64 * b) && decide (64 * b + 64 ≤ a + data.length))) }
      2 die ia data told)
  | .ok (s', .peer d off) =>
    match s'.peerStore die d off data with
    | .error e => .error e
    | .ok s1 => .ok (s1.tellOwn 2 die ia data told)

/-- Perform a write at its home; by the device's own peer index, a write to region 0x2 that is no reduction write is refused
(R127, R376). -/
def State.homePut (s : State) (die ia : Nat) (data : List Byte) (hint pol : Nat) (told : Bool) : Except MErr State :=
  match s.ownIa ia true with
  | .error e => .error e
  | .ok (s', a) =>
    if a = ia then s'.homeAt die a data hint pol told
    else if nbits a 51 48 == 2 && !redOk a data.length then .error .refused
    else match s'.homeAt die a data hint pol told with
      | .error e => .error e
      | .ok s1 => .ok (s1.tellOwn 2 die ia data told)

/-- A write at its home by an agent other than a core (R149, R163, R166). -/
def State.homeWrite (s : State) (die ia : Nat) (data : List Byte) : Except MErr State := s.homePut die ia data 0 0 false

/-- R304: the new value. -/
def atomicNew (op bits o v cmp : Nat) : Nat :=
  let si := fun x => sextNat x bits
  if op == 0 then (o + v) % 2 ^ bits
  else if op == 1 then Nat.land o v
  else if op == 2 then Nat.lor o v
  else if op == 3 then Nat.xor o v
  else if op == 4 then (if si v < si o then v else o)
  else if op == 5 then (if si o < si v then v else o)
  else if op == 6 then min o v
  else if op == 7 then max o v
  else if op == 8 then v
  else if op == 9 then (if o = cmp then v else o)
  else
    let a := Num.decode Num.f32 o
    let b := Num.decode Num.f32 v
    if op == 10 then Num.rne Num.f32 (Num.add a b)
    else if op == 11 then Num.rne Num.f32 (Num.minVal a b)
    else Num.rne Num.f32 (Num.maxVal a b)

/-- R156, R376, R460: an atomic of `n` bytes performed at the home of an IA by an agent of `die`: the old bytes, and whether they are
poisoned, in which case nothing is written. A peer performs it itself; by the device's own peer index, none to region 0x2. -/
def State.atomicHome (s : State) (die ia n op v cmp : Nat) : Except MErr (State × List Byte × Bool) :=
  match s.ownIa ia true with
  | .error e => .error e
  | .ok (s0, a) =>
    if a != ia && nbits a 51 48 == 2 then .error .refused
    else match s0.resolve a true with
      | .ok (s', .peer d off) =>
        (match s'.portTo die d off with
          | none => .error (.held d)
          | some p =>
            let old := s'.peerBytes d off n
            let poison := Config.peerPoison s'.draws
            -- R373: the request is of a whole double
            let half := if n = 8 then 0 else 1 + off % 8 / 4
            let s1 := State.emit { s' with draws := s'.draws + 1 } (.peerAtomic s'.ownIndex d p (off / 8 * 8) half op v cmp)
            let new := leBytes n (atomicNew op (8 * n) (leVal old) v cmp)
            .ok (if poison then s1 else (s1.putPeer d off new).tellOwn 2 die ia new false, old, poison))
      | _ =>
        match s0.homeRead die a n 0 with
        | .error e => .error e
        | .ok (s1, bs, p) =>
          if p then .ok (s1, bs, true)
          else
            let new := leBytes n (atomicNew op (8 * n) (leVal bs) v cmp)
            match s1.homeAt die a new 0 0 false with
            | .error e => .error e
            | .ok s2 => .ok (if a = ia then s2 else s2.tellOwn 2 die ia new false, bs, false)

/-- R205: the IA and policy of an access of a thread of `wg` under an ASID, or its cause: for a block, its own frame, or a byte of
its own stack. -/
def State.vaIaOf (s : State) (wg asid va size : Nat) (k : Access) : Except Nat (Nat × Nat) :=
  let g := s.wgrp wg
  match g.stack with
  | none => s.checkVa asid va size k
  | some st =>
    if va % size != 0 then .error 0x43
    else if Config.frameVa ≤ va then
      if va - Config.frameVa + size ≤ g.frameSize then .ok (spaIa st (g.frameBase + (va - Config.frameVa)), 0)
      else .error 0x5A
    else match s.checkVa g.asid va size k with
      | .error e => .error e
      | .ok (ia, pol) => if decide (nbits ia 51 48 ≤ 1) && iaStack ia == st then .ok (ia, pol) else .error 0x59

/-- The IA and policy of a thread's access (R205, R400, R432), or its cause. -/
def State.vaIa (s : State) (wg t va size : Nat) (k : Access) : Except Nat (Nat × Nat) :=
  s.vaIaOf wg (s.asidOf wg t) va size k

/-! ## Releases that no memory word carries (R151, R158, R163, R297) -/

/-- A store in the queue of a braid of `wg` that a release by the threads `ts` before the stamp `upto` covers: their own, and those
whose bytes they have taken (R151). -/
def State.covers (s : State) (wg : Nat) (ts : List Nat) (upto : Nat) (e : SEntry) : Bool :=
  decide (e.seq < upto) && (ts.contains e.t || ts.any (fun t => decide (e.seq ≤ (s.thr wg t).fwd)))

/-- Stores that such a release covers are still in a queue. -/
def State.coverQueued (s : State) (wg : Nat) (ts : List Nat) (upto : Nat) : Bool :=
  s.braids.any (fun b => b.2.wg == wg && b.2.storeQ.any (s.covers wg ts upto))

/-- R142, R297: memory words of threads of `wg` that come before a release by them are not complete. -/
def State.wordsBefore (s : State) (wg : Nat) (ts : List Nat) (upto : Nat) : Bool :=
  ts.any (fun t => (s.thr wg t).mops.any (fun m => decide (m.seq < upto)))

/-- The core holds dirty software-managed bytes. -/
def Core.dirtyLines (c : Core) : List Line := c.l1d.filter (fun l => l.pol != 0 && !l.dirty.isEmpty)

/-- A release by threads of `wg` begins on their core, after their memory words too where `words`; its number, or 0 where there is nothing that it
waits for. -/
def State.startRel (s : State) (core wg : Nat) (ts : List Nat) (scope : Nat) (words : Bool) : State × Nat :=
  let c := s.core core
  if !s.coverQueued wg ts s.seq && !(words && s.wordsBefore wg ts s.seq) && c.dirtyLines.isEmpty && c.wstores.isEmpty then (s, 0)
  else
    let (s1, q) := s.freshSeq
    (s1.modCore core (fun c => { c with rels := c.rels ++ [⟨q, wg, ts, q, scope, none, words⟩] }), q)

/-- R151, R158: a store of a thread after such a release waits for it. -/
def State.relHeld (s : State) (core wg t seq : Nat) : Bool :=
  (s.core core).rels.any (fun r => r.wg == wg && r.ts.contains t && decide (r.upto ≤ seq))

/-- R206: a rhizoid write, performed at the stack; main-die copies are told when the call returns (R163, R164). -/
def State.stackWrite (s : State) (ia : Nat) (data : List Byte) (hint : Nat) : Except MErr State :=
  match s.resolve ia true with
  | .error e => .error e
  | .ok (s', .dev k spa) => .ok ((s'.dramWrite (dkey k spa) data).mscTouch k spa hint true)
  | .ok (s', _) => .ok s'

/-- R156, R206: a rhizoid atomic, performed at the memory-side cache. -/
def State.atomicStack (s : State) (ia n op v cmp : Nat) : Except MErr (State × List Byte × Bool) :=
  -- the home line is written back and dropped first, so that main-die atomics and this one are at one place
  match State.stackRead (if homedHere ia then s.l2Flush (dieOfStack (iaStack ia)) (homeIa ia / 128) else s) ia n 0 with
  | .error e => .error e
  | .ok (s1, bs, p) =>
    if p then .ok (s1, bs, true)
    else match s1.stackWrite ia (leBytes n (atomicNew op (8 * n) (leVal bs) v cmp)) 0 with
      | .error e => .error e
      | .ok s2 => .ok (s2, bs, false)

end Sys2Proof.Machine
end

