-- ==== Sys2Proof/Machine/Hitch.lean ====
section
/-! DEFINITION. Hitch registers, the barrier and the formation of engine requests (spec 02, R46 to R55; R421, R422). -/

namespace Sys2Proof.Machine

/-- The scoreboard code that holds a thread until a CLK (R50: released threads are ready from the next cycle). -/
def notBefore : Nat := 200

/-- A hitch register at launch (R48, R203): the braid's lanes, or the count of threads. -/
def Hitch.launch (lanes : BitVec 64) (expected : Nat) : Hitch := ⟨lanes, 0#64, expected, 0, .none, none⟩

/-- R203: the place of h12 to h15 in a workgroup's list: a block has four registers on each of its 48 cores. -/
def Workgroup.hitchIx (g : Workgroup) (t n : Nat) : Nat :=
  match g.stack with
  | some _ => 4 * (t / 16 % 48) + (n - 12)
  | none => n - 12

def State.hitch (s : State) (wg t n : Nat) : Hitch :=
  let g := s.wgrp wg
  if n < 12 then (s.brd wg (g.braidOf t)).hitch.getD n (Hitch.launch 0#64 0)
  else g.hitch.getD (g.hitchIx t n) (Hitch.launch 0#64 0)

def State.modHitch (s : State) (wg t n : Nat) (f : Hitch → Hitch) : State :=
  let g := s.wgrp wg
  if n < 12 then s.modBrd wg (g.braidOf t) (fun b => { b with hitch := modAt b.hitch n f })
  else s.modWg wg (fun x => { x with hitch := modAt x.hitch (g.hitchIx t n) f })

/-- The threads that share hitch register n with thread t. -/
def State.sharers (s : State) (wg t n : Nat) : List Thread :=
  let g := s.wgrp wg
  (s.threadsOf wg).filter (fun u =>
    if n < 12 then g.braidOf u.t == g.braidOf t
    else match g.stack with
      | some _ => u.t / 16 % 48 == t / 16 % 48
      | none => true)

/-- R50, R51, R55: release a thread from a wait: it is ready at its resume packet from the next cycle. A thread that is
in the handler marks its held wait as met (R401). -/
def Thread.release (x : Thread) (w : Wait) (clk : Nat) : Thread :=
  if x.wait = w then
    { x with wait := .ready, pc := x.resume, busy := Tbl.put x.busy notBefore (some (clk + 1)) }
  else match x.held with
    | some h => if h.wait = w then { x with held := some { h with met := true } } else x
    | none => x

/-- R47: released threads of one braid that resume at one PC form a bound set. A thread that is released alone forms none (DESIGN CHOICE, log
entry 73). -/
def bindReleased (g : Workgroup) (us : List Thread) (s : State) : State :=
  let keys := (us.map (fun u => bkey (g.braidOf u.t) 0 * 2 ^ 53 + u.resume)).eraseDups
  keys.foldl (fun s k =>
    let grp := us.filter (fun u => bkey (g.braidOf u.t) 0 * 2 ^ 53 + u.resume == k)
    if grp.length < 2 then s
    else
      let (s', id) := s.freshId
      grp.foldl (fun s u => s.modThr u.wg u.t (fun x => { x with bound := some id })) s') s

/-- Release every sharer that waits on `w`. -/
def State.releaseAll (s : State) (g : Workgroup) (us : List Thread) (w : Wait) : State :=
  let s1 := us.foldl (fun s u => s.modThr u.wg u.t (fun x => x.release w s.clk)) s
  bindReleased g (us.filter (fun u => u.wait = w)) s1

/-- R341: the request a completed round forms, passed on in the next cycle. -/
def State.formRequest (s : State) (wg : Nat) (op : EngOp) (c : Captured) : State :=
  let g := s.wgrp wg
  let (s1, id) := s.freshId
  let parts := c.parts.map (fun p => (p.1, p.2.2))
  let r : EReq :=
    { id := id, op := op, q := c.q, regs := c.regs, parts := parts, segb := c.segb, wg := wg,
      gang := if g.csize ≤ 1 then [wg] else g.gang, t := c.t, signers := c.signers, pc := c.pc, word := c.word, wpos := c.wpos,
      core := g.core, part := g.part, asid := g.asid, dom := g.dom, launch := g.launch, launchIa := g.launchIa,
      rels := c.rels, formed := s1.clk, begun := false, phase := 0, pos := 0, recs := [], work := [], vals := [],
      waiting := none, missed := none, opened := [], replay := false, leave := 0, damaged := false }
  { s1 with reqs := Tbl.put s1.reqs id r, formed := s1.formed ++ [id] }

/-- R48 to R51: the signatures recorded satisfy the register. -/
def Hitch.satisfied (h : Hitch) (n : Nat) : Bool :=
  h.kind != .none && (if n < 12 then h.arrived &&& h.members == h.members else decide (h.expected ≤ h.count))

/-- Complete the open round of hN where its signatures satisfy it: release the waiting threads, or form one engine
request (R50 to R52). -/
def State.completeRound (s : State) (wg t n : Nat) : State :=
  let h := s.hitch wg t n
  if !h.satisfied n then s
  else
    let us := s.sharers wg t n
    let s1 := us.foldl (fun s u => s.modThr u.wg u.t (fun x => { x with sig := x.sig &&& ~~~(1#16 <<< n) })) s
    let s2 := s1.modHitch wg t n (fun h => { h with arrived := 0#64, count := 0, kind := .none, cap := none })
    match h.kind, h.cap with
    | .engine op, some c => s2.formRequest wg op c
    | .rejoin, _ => s2.releaseAll (s.wgrp wg) us (.hitch n)
    | _, _ => s2

/-- R423: the registers of a workgroup are evaluated for deadlock. -/
def State.evalDeadlock (s : State) (wg : Nat) : State :=
  if s.agenda.contains (.event (.hitchDeadlock wg)) then s else s.due (.event (.hitchDeadlock wg))

/-- R421: what stops a signature: 0x15 a second signature, 0x17 a signer that is no member, a kind that differs, a count
passed. -/
def signCause (h : Hitch) (x : Thread) (n : Nat) (k : HKind) : Option Nat :=
  if x.sig.getLsbD n then some 0x15
  else if n < 12 && !(h.members.getLsbD x.lane) then some 0x17
  else if h.kind != .none && h.kind != k then some 0x17
  else if 12 ≤ n && h.expected < h.count + 1 then some 0x17
  else none

/-- Record a signature (R50, R51). -/
def State.recordSig (s : State) (wg t n : Nat) (k : HKind) : State :=
  let x := s.thr wg t
  let s1 := s.modHitch wg t n (fun h => { h with
    arrived := if n < 12 then h.arrived ||| (1#64 <<< x.lane) else h.arrived,
    count := if n < 12 then h.count else h.count + 1, kind := k })
  (s1.modThr wg t (fun x => { x with sig := x.sig ||| (1#16 <<< n) })).dissolve x.bound

/-- R50, R51, R260: REJOIN hN by thread t at packet pc. -/
def State.rejoin (s : State) (wg t n pc : Nat) (word : Word) : Except Nat State :=
  match signCause (s.hitch wg t n) (s.thr wg t) n .rejoin with
  | some c => .error c
  | none =>
    let s1 := s.recordSig wg t n .rejoin
    let s2 := s1.modThr wg t (fun x => { x with wait := .hitch n, resume := pc + 1, waitWord := (pc, word) })
    .ok ((s2.completeRound wg t n).evalDeadlock wg)

/-- R52, R422: the descriptor of a signer. `part` is the braid's own part (CPBOX); `dcode` the D field. -/
structure Signer where
  regs : List Word
  part : List Word
  segb : Nat
  q : Nat
  dcode : Nat
  deriving DecidableEq, Repr

/-- R52, R350, R422: add a signer's values to the captured ones: none on a mismatch. -/
def capture (c : Option Captured) (key t braid pc : Nat) (word : Word) (wpos : Nat) (g : Signer) : Option Captured :=
  match c with
  | none => some ⟨key, t, g.regs, g.segb, g.q, pc, word, wpos, [(braid, (key, g.part))], [(t, g.dcode)], []⟩
  | some c =>
    let partOk := match Tbl.get? c.parts braid with
      | none => true
      | some (_, p) => p == g.part
    if c.regs != g.regs || c.segb != g.segb || c.q != g.q || !partOk then none
    else
      let parts := match Tbl.get? c.parts braid with
        | some (k, _) => if key < k then Tbl.put c.parts braid (key, g.part) else c.parts
        | none => Tbl.put c.parts braid (key, g.part)
      if key < c.key then
        some { c with key := key, t := t, pc := pc, word := word, wpos := wpos, parts := parts, signers := c.signers ++ [(t, g.dcode)] }
      else some { c with parts := parts, signers := c.signers ++ [(t, g.dcode)] }

/-- R158, R163: the scope of the release that a signature begins. -/
def EngOp.scope : EngOp → Nat
  | .nmcall => 4
  | _ => 2

/-- R52, R158: an engine command signs hN; the thread's earlier stores are to be performed before the request begins. -/
def State.signEngine (s : State) (wg t n : Nat) (op : EngOp) (pc : Nat) (word : Word) (wpos : Nat)
    (g : Signer) : Except Nat State :=
  let x := s.thr wg t
  let h := s.hitch wg t n
  match signCause h x n (.engine op) with
  | some c => .error c
  | none =>
    let key := if n < 12 then x.lane else t
    match capture h.cap key t ((s.wgrp wg).braidOf t) pc word wpos g with
    | none => .error 0x16
    | some c =>
      let (s0, rel) := s.startRel (s.wgrp wg).core wg [t] op.scope false
      let s1 := (s0.recordSig wg t n (.engine op)).modHitch wg t n (fun h => { h with
        cap := some (if rel = 0 then c else { c with rels := c.rels ++ [rel] }) })
      .ok ((s1.completeRound wg t n).evalDeadlock wg)

/-- R49, R259: write the member mask or the expected count of hN. -/
def State.hset (s : State) (wg t n : Nat) (mask : BitVec 64) (count : Nat) : State :=
  let s1 := s.modHitch wg t n (fun h => if n < 12 then { h with members := mask } else { h with expected := count })
  (s1.completeRound wg t n).evalDeadlock wg

/-- R55: threads that the barrier still waits for. -/
def State.barLive (s : State) (wg : Nat) : List Thread := (s.threadsOf wg).filter (fun u => !u.exited && !u.off)

/-- R55: the barrier completes when every thread that has not exited has arrived. -/
def State.completeBar (s : State) (wg : Nat) : State :=
  let g := s.wgrp wg
  if g.bar.isEmpty || !((s.barLive wg).all (fun u => g.bar.contains u.t)) then s
  else
    let us := s.threadsOf wg
    (s.modWg wg (fun x => { x with bar := [] })).releaseAll g us .bar

/-- R55, R261: BAR by thread t. -/
def State.barArrive (s : State) (wg t pc : Nat) (word : Word) : State :=
  let b := (s.thr wg t).bound
  let s1 := s.modWg wg (fun x => { x with bar := x.bar ++ [t] })
  let s2 := s1.modThr wg t (fun x => { x with wait := .bar, resume := pc + 1, waitWord := (pc, word) })
  ((s2.dissolve b).completeBar wg).evalDeadlock wg

/-- R54, R55: what an exit (or a switch-off, R408) does to the hitch registers of the braid and to the barrier. -/
def State.exitHitch (s : State) (wg t : Nat) : State :=
  let x := s.thr wg t
  let s1 := (s.dissolve x.bound).modBrd wg ((s.wgrp wg).braidOf t) (fun b => { b with
    hitch := b.hitch.map (fun h => { h with members := h.members &&& ~~~(1#64 <<< x.lane) }) })
  let s2 := (List.range 12).foldl (fun s n => s.completeRound wg t n) s1
  (s2.completeBar wg).evalDeadlock wg

/-- R255: the thread exits. -/
def State.exitThread (s : State) (wg t : Nat) : State :=
  (s.modThr wg t (fun x => { x with exited := true, wait := .ready })).exitHitch wg t

end Sys2Proof.Machine
end

