-- ==== Sys2Proof/Machine/Ops.lean ====
section
/-! DEFINITION. Named operations over memory and registers: device structures, MSI-X, records, counters, and taking an
exception and returning from it (spec 16, R397 to R411; R482). -/

namespace Sys2Proof.Machine

/-! ## Device structures by IA -/

/-- Read `n` bytes at an IA by an agent of a die, in pieces that each lie in one 64-byte block (fuel counts the pieces). -/
def State.iaReadAt (s : State) (die ia n : Nat) : Nat → Except MErr (State × List Byte × Bool)
  | 0 => .ok (s, [], false)
  | k + 1 =>
    if n = 0 then .ok (s, [], false)
    else
      let m := min n (64 - ia % 64)
      if s.peerRefused ia m s.draws .read then .error .refused
      else match s.homeRead die ia m 0 with
      | .error e => .error e
      | .ok (s1, d, p) =>
        match State.iaReadAt s1 die (ia + m) (n - m) k with
        | .error e => .error e
        | .ok (s2, d2, p2) => .ok (s2, d ++ d2, p || p2)

/-- The same by die 0, where the device's own structures are read. -/
def State.iaRead (s : State) (ia n k : Nat) : Except MErr (State × List Byte × Bool) := s.iaReadAt 0 ia n k

/-- Write bytes at an IA, in pieces that each lie in one 64-byte block. -/
def State.iaWrite (s : State) (die ia : Nat) (data : List Byte) : Nat → Except MErr State
  | 0 => .ok s
  | k + 1 =>
    if data.isEmpty then .ok s
    else
      let m := min data.length (64 - ia % 64)
      if s.peerRefused ia m s.draws .write then .error .refused
      else match s.homeWrite die ia (data.take m) with
      | .error e => .error e
      | .ok s1 => State.iaWrite s1 die (ia + m) (data.drop m) k

/-- Doubles of a device structure (R2), read by an agent of a die; none where it cannot be read; poison gives cause 0x61 (R461). -/
def State.doublesAt (s : State) (die ia n : Nat) : Except MErr (State × List Nat) :=
  match s.iaReadAt die ia (8 * n) (n / 4 + 2) with
  | .error e => .error e
  | .ok (s1, d, p) =>
    if p then .error (.region 0x61 ia) else .ok (s1, (List.range n).map (fun i => leVal ((d.drop (8 * i)).take 8)))

/-- The same by die 0. -/
def State.doubles (s : State) (ia n : Nat) : Except MErr (State × List Nat) := s.doublesAt 0 ia n

def State.double? (s : State) (ia : Nat) : Option Nat :=
  match s.doubles ia 1 with
  | .ok (_, [x]) => some x
  | _ => none

/-- Write a device structure where it can be written; otherwise nothing is written. -/
def State.putBytes (s : State) (die ia : Nat) (data : List Byte) : State :=
  match s.iaWrite die ia data (data.length / 16 + 2) with
  | .ok s1 => s1
  | .error _ => s

/-! ## MSI-X (R372) -/

def State.msix (s : State) (v : Nat) : State :=
  if s.msixMask.getLsbD v then { s with msixPend := s.msixPend ||| (1#64 <<< v) } else s.emit (.msix v)

/-! ## Fault queue records (R405) -/

/-- R405: the fields of a record. `clk` is the CLK at detection, where that is before the record is written. -/
structure Report where
  cls : Nat
  cause : Nat
  info : Nat
  fmask : Nat
  braid : Nat
  lane : Nat
  row : Nat
  word : Nat
  pc : Nat
  t : Nat
  wgnum : Nat
  launch : Nat
  core : Nat
  asid : Nat
  clk : Option Nat
  deriving DecidableEq, Repr

def Report.plain (cls cause info : Nat) : Report := ⟨cls, cause, info, 0, 0, 0, 0, 0, 0, 0, 0, 0, 0, 0, none⟩

/-- R405: the 64 bytes of a record. -/
def Report.bytes (r : Report) (part dom clk : Nat) : List Byte :=
  leBytes 8 (r.cause % 256 + r.cls * 2 ^ 8 + part * 2 ^ 31 + dom * 2 ^ 34 + r.asid * 2 ^ 42 + r.core * 2 ^ 54) ++
  leBytes 8 (r.launch % 2 ^ 52) ++
  leBytes 8 (r.wgnum % 2 ^ 48 + r.t * 2 ^ 48) ++
  leBytes 8 (r.pc % 2 ^ 53) ++
  leBytes 8 (r.word % 2 ^ 32 + r.row * 2 ^ 32 + r.lane * 2 ^ 40 + r.braid * 2 ^ 48) ++
  leBytes 8 r.fmask ++ leBytes 8 r.info ++ leBytes 8 (r.clk.getD clk)

/-- R405: write a record to the queue of a domain, advance TAIL and raise the partition's vector; a full ring counts a
dropped record; with FQTAB 0 nothing happens. -/
def State.report (s : State) (part dom : Nat) (r : Report) : State :=
  let fq := nbits (s.part part).fqtab.toNat 51 0
  if fq = 0 then s
  else
    let h := fq + 32 * dom
    match s.doubles h 4 with
    | .error _ => s
    | .ok (s1, ds) =>
      let d0 := ds.getD 0 0
      let tail := nbits (ds.getD 2 0) 31 0
      let head := nbits (ds.getD 2 0) 63 32
      let dropped := nbits (ds.getD 3 0) 31 0
      let slots := 2 ^ nbits d0 55 52
      if (tail + 2 ^ 32 - head) % 2 ^ 32 = slots then
        (s1.putBytes 0 (h + 24) (leBytes 4 (dropped + 1))).msix part
      else
        let s2 := s1.putBytes 0 (nbits d0 51 0 + 64 * (tail % slots)) (r.bytes part dom s.clk)
        (s2.putBytes 0 (h + 16) (leBytes 4 (tail + 1))).msix part

/-- R405: where a thread stands, for a record. -/
def State.threadReport (s : State) (cls cause info wg t pc word : Nat) : Report :=
  let g := s.wgrp wg
  let x := s.thr wg t
  let b := g.braidOf t
  { cls := cls, cause := cause, info := info, fmask := (s.brd wg b).fmask.toNat, braid := b % 256, lane := x.lane,
    row := x.row, word := word, pc := pc, t := t, wgnum := if g.stack.isSome then g.callSeq else g.wgnum,
    launch := g.launchIa, core := g.coreOf t, asid := g.asid, clk := none }

/-! ## Status records (R406) and completion counters (R67, R162, R482) -/

/-- R406: the 64 bytes of a launch's status record. -/
def Launch.status (l : Launch) (done refused : Bool) (fclk : Nat) (cause : Option Nat) : List Byte :=
  let bit := fun (b : Bool) (k : Nat) => if b then 2 ^ k else 0
  let (fwg, ft, ff) := match l.firstFatal with
    | some (w, _, f) => (w, f.t, f)
    | none => (0, 0, ⟨0, 0, 0, 0, 0#32, 0⟩)
  let (lwg, lb, lm, lc) := match l.lanef with
    | some (w, b, m, c) => (w, b, m.toNat, c)
    | none => (0, 0, 0, 0)
  let fc := cause.getD ff.cause
  leBytes 8 (bit done 0 + bit (decide (0 < l.nfatal)) 1 + bit l.lanef.isSome 2 + bit refused 3 + bit l.killed 4 +
      l.nfatal * 2 ^ 32) ++
  leBytes 8 (fc + fwg * 2 ^ 16) ++
  leBytes 8 (ff.pc * 2 ^ 11) ++
  leBytes 8 (ff.word.toNat + ft * 2 ^ 32) ++
  leBytes 8 (lc + lb * 2 ^ 8 + lwg * 2 ^ 16) ++
  leBytes 8 lm ++
  leBytes 8 fclk ++ leBytes 8 0

/-- A field of a launch record (R66), by its double and bits. -/
def Launch.field (l : Launch) (d hi lo : Nat) : Nat := nbits (l.record.getD d 0) hi lo
def Launch.asid (l : Launch) : Nat := l.field 2 59 48
def Launch.statusVa (l : Launch) : Nat := l.field 7 56 0
def Launch.cntVa (l : Launch) : Nat := l.field 4 56 0
def Launch.cinc (l : Launch) : Nat := l.field 5 63 0

/-- Write bytes at a VA of an ASID, as the device writes a launch's records; nothing where it does not translate. -/
def State.vaPut (s : State) (asid va : Nat) (data : List Byte) : State :=
  match s.translate asid va .write with
  | .error _ => s
  | .ok (ia, _) => if iaOk ia then s.putBytes 0 ia data else s

/-- R406: bring the status record of a launch up to date. -/
def State.putStatus (s : State) (l : Launch) (done refused : Bool) (cause : Option Nat) : State :=
  if l.statusVa = 0 then s
  else
    let fclk := match l.firstFatal with
      | some (_, c, _) => c
      | none => 0
    s.vaPut l.asid l.statusVa (l.status done refused fclk cause)

/-- R482: an increment that cannot be made is a failed add, to be reported by COUNTER_ADD_FAIL; one of a microcode kernel, which
belongs to no partition (8), is dropped. -/
def State.addFailed (s : State) (addr part dom : Nat) : State :=
  let (s1, id) := s.freshId
  if 8 ≤ part then s
  else State.due { s1 with failedAdds := s1.failedAdds ++ [FailedAdd.mk id addr part dom] } (.event .counterAddFail)

/-- R435: one class-0 record of cause 0x40 for each translator and page while a service is pending; none for a page that
the scheduler evicted. -/
def State.reportPage (s : State) (part dom tr page : Nat) (evicted : Bool) (r : Report) : State :=
  if evicted || (s.part part).services.contains (tr, page) then s
  else
    let s1 := s.report part dom { r with cls := 0, cause := 0x40, info := tr * 2 ^ 60 + page * 2 ^ 16 }
    s1.modPart part (fun p => { p with services := p.services ++ [(tr, page)] })

/-- Where the numbers of what walkers and increments hold for a port begin, in the list of requests to peers. -/
def portHeld : Nat := 2 ^ 72

/-- R375, R455: a walker has no port to peer `d`, or an increment no answer of it: each 10 us without one is a failed try. -/
def State.waitPort (s : State) (d part dom : Nat) : State :=
  if s.peerReqs.any (fun x => x.id == portHeld + d) then s
  else { s with peerReqs := s.peerReqs ++ [⟨portHeld + d, d, dom, part, 1, s.clk⟩] }

/-- R156, R162, R375, R435, R482: add to a counter at an IA as one atomic; `addr` names it in a record, a VA of `asid` or an IA, and `block` is
the near-memory block whose increment it is. It waits for a page that is not resident, with a record, and for the answer of its peer. -/
def State.addAt (s : State) (asid : Option Nat) (die ia inc part dom addr block : Nat) : State :=
  if !iaOk ia || nbits ia 51 48 == 2 || ia % 8 != 0 || s.peerRefused ia 8 s.draws .atomic then s.addFailed addr part dom
  else match (if s.unanswered ia then .error (.held (iaPeer ia)) else s.atomicHome die ia 8 0 inc 0) with
    | .error (.notRes tr page ev) =>
      let s1 := { s with heldAdds := s.heldAdds ++ [⟨die, ia, inc, 4, tr, part, dom, addr, block, asid⟩] }
      if 8 ≤ part then s1 else s1.reportPage part dom tr page ev (Report.plain 0 0x40 0)
    | .error (.held d) => State.waitPort { s with heldAdds := s.heldAdds ++ [⟨die, ia, inc, 4, 16 + d, part, dom, addr, block, asid⟩] } d part dom
    | .error _ => s.addFailed addr part dom
    | .ok (s1, _, p) => if p then s1.addFailed addr part dom else s1

/-- The same where the counter is named by its IA. -/
def State.addAtIa (s : State) (die ia inc part dom addr block : Nat) : State := s.addAt none die ia inc part dom addr block

/-- R67, R188, R207, R482: add to a completion counter at a VA of an ASID; 0 names none. -/
def State.addCounterOf (s : State) (die asid va inc part dom block : Nat) : State :=
  if va = 0 then s
  else match s.checkVa asid va 8 .atomic with
    | .error _ => s.addFailed va part dom
    | .ok (ia, _) => s.addAt (some asid) die ia inc part dom va block

/-- R437, R439: a held increment is made, its VA translated anew. -/
def State.addAgain (s : State) (h : HeldAdd) : State :=
  match h.asid with
  | some a => s.addCounterOf h.die a h.addr h.inc h.part h.dom h.block
  | none => s.addAtIa h.die h.ia h.inc h.part h.dom h.addr h.block

def State.addCounter (s : State) (die asid va inc part dom : Nat) : State := s.addCounterOf die asid va inc part dom 0

/-! ## Faults of a thread -/

/-- R427: the workgroup's ASID is being killed: its faults are not reported. -/
def State.dying (s : State) (wg : Nat) : Bool := (s.part (s.wgrp wg).part).killing.contains (s.wgrp wg).asid

/-- R407, R411: a workgroup-fatal fault: of several in one cycle, the lowest thread number is recorded. -/
def State.raiseFatal (s : State) (wg : Nat) (f : FaultInfo) : State :=
  let g := s.wgrp wg
  if (Tbl.get? s.wgs wg).isNone || s.dying wg then s
  else
  let s1 := s.modWg wg (fun x => match x.ended with
    | some e => if f.t < e.t && !x.stopping then { x with ended := some f } else x
    | none => { x with ended := some f })
  if g.ended.isSome then s1 else s1.due (.event (.workgroupFatal wg))

/-- R410: a region-fatal fault of a domain. -/
def State.raiseRegion (s : State) (part dom wg : Nat) (f : FaultInfo) : State :=
  if wg != 0 && s.dying wg then s
  else State.due { s with regionFaults := s.regionFaults ++ [RegionFault.mk part dom wg f] } (.event .regionFatal)

/-- R479: an uncorrectable error of a core's cluster is one of the causes 0x20, 0x62 and 0x63. -/
def State.clusterCause (s : State) (core cause : Nat) : State :=
  if isRhizoid core || !([0x20, 0x62, 0x63].contains cause) then s else s.modCluster (clusterOf core) (fun c => { c with errors := c.errors + 1 })

/-- R408, R479: note a lane-contained cause in FMASK, and count it where it is an uncorrectable error. -/
def State.noteLane (s : State) (wg t : Nat) (a : Async) : State :=
  let lane := (s.thr wg t).lane
  State.clusterCause (s.modBrd wg ((s.wgrp wg).braidOf t) (fun b => { b with
    fmask := b.fmask ||| (1#64 <<< lane),
    firstLane := if b.firstLane.isSome then b.firstLane else some a,
    firstT := if b.firstLane.isSome then b.firstT else t })) ((s.wgrp wg).coreOf t) a.cause

/-- R408: the thread is switched off, as if it had executed EXIT. -/
def State.laneOff (s : State) (wg t : Nat) (a : Async) : State :=
  ((s.noteLane wg t a).modThr wg t (fun x => { x with off := true, wait := .ready })).exitHitch wg t

/-- R402: the WAIT and WAITN fields of a wait. -/
def Wait.code : Wait → Nat × Nat
  | .ready => (0, 0)
  | .hitch n => (1, n)
  | .bar => (2, 0)
  | .sleep _ => (3, 0)
  | .waitge .. => (4, 0)
  | .waitp .. => (5, 0)

/-- R399: the VA of a thread's trap frame. -/
def State.frameVa (s : State) (wg t : Nat) : Nat :=
  let g := s.wgrp wg
  let x := s.thr wg t
  nbits (s.part g.part).tfva.toNat 56 0 + 128 * (2048 * g.coreOf t + 64 * x.row + x.lane)

/-- R402: double 0 of a trap frame. -/
def frameD0 (a : Async) (done : BitVec 3) : Nat :=
  let tcode := if a.cause == 0x01 then a.raw.toNat % 128 else 0
  a.cause + tcode * 2 ^ 8 + a.wpos * 2 ^ 15 + done.toNat * 2 ^ 17 + a.raw.toNat * 2 ^ 32

/-- R402: the 128 bytes of a trap frame. `w` is the wait the thread takes into the handler. -/
def State.frameBytes (s : State) (wg t : Nat) (a : Async) (done : BitVec 3) (rpc : Nat) (w : Wait) : List Byte :=
  let x := s.thr wg t
  let b := s.brd wg ((s.wgrp wg).braidOf t)
  leBytes 8 (frameD0 a done) ++ leBytes 8 a.pc ++ leBytes 8 rpc ++
  leBytes 8 (if a.cause == 0x01 then 0 else a.info) ++
  leBytes 8 ((x.p ||| 1#32).toNat + b.flags.toNat * 2 ^ 32) ++ leBytes 8 s.clk ++
  (List.range 8).flatMap (fun i => leBytes 4 (Tbl.getD x.v i 0#32).toNat) ++
  leBytes 8 (w.code.1 + w.code.2 * 16) ++ List.replicate 40 0#8

/-- R146, R401: the stores of a trap frame by a thread that takes `a` enter its braid's queue, 16 bytes each. -/
def State.queueBytes (s : State) (wg t va ia pol : Nat) (a : Async) : Nat → List Byte → State
  | 0, _ => s
  | k + 1, data =>
    if data.isEmpty then s
    else
      let (s1, q) := s.freshSeq
      let e : SEntry :=
        { seq := q, asid := nbits (s.part (s.wgrp wg).part).tasid.toNat 11 0, t := t, scratch := false, core := 0, addr := 0, va := va, ia := ia,
          pol := pol, hint := 0, data := data.take 16, pc := a.pc, raw := a.raw, logged := none, replay := false, born := s.clk, wpos := a.wpos,
          grp := 0, lseq := 0, trap := some a.cause }
      State.queueBytes (s1.modBrd wg ((s1.wgrp wg).braidOf t) (fun b => { b with storeQ := b.storeQ ++ [e] }))
        wg t (va + 16) (ia + 16) pol a k (data.drop 16)

/-- TAKING AN EXCEPTION (R401): write the frame (R402) with stores of the thread in TASID, set v0 to v3, enter privileged
mode at TVEC and count the entry. A thread that waits is waiting and trapped. A frame store that fails R432 ends the
workgroup with cause 0x1B. -/
def State.trapEntry (s : State) (wg t : Nat) (a : Async) (done : BitVec 3) (rpc : Nat) : State :=
  let g := s.wgrp wg
  let p := s.part g.part
  let x := s.thr wg t
  let f := s.frameVa wg t
  match s.checkVa (nbits p.tasid.toNat 11 0) f 16 .write with
  | .error c => s.raiseFatal wg ⟨0x1B, c + a.cause * 2 ^ 8, t, a.pc, a.raw, a.clk⟩
  | .ok (ia, pol) =>
    let d0 := BitVec.ofNat 64 (frameD0 a done)
    let s1 := s.queueBytes wg t f ia pol a 8 (s.frameBytes wg t a done rpc x.wait)
    let s2 := (s1.dissolve x.bound).modThr wg t (fun y => { y with
      v := Tbl.set (Tbl.set (Tbl.set (Tbl.set y.v 0#32 0 (BitVec.ofNat 32 f)) 0#32 1 (BitVec.ofNat 32 (f / 2 ^ 32)))
        0#32 2 (dlo d0)) 0#32 3 (dhi d0),
      priv := true, pc := nbits p.tvec.toNat 52 0, latch := [none, none, none, none], skip := 0#3,
      held := if y.wait = .ready then y.held else some ⟨y.wait, false, y.resume⟩, wait := .ready,
      -- R264, R401: a WAITP makes no read in the handler
      mops := match y.wait with
        | .waitp .. => y.mops.filter (fun m => match m.kind with | .waitRead _ => false | _ => true)
        | _ => y.mops,
      -- v0 to v3 are written: no load that is pending writes them
      busy := Tbl.put ((rangeFrom 0 4).foldl (fun b i => Tbl.put b i (some s.clk)) y.busy) notBefore (some (s.clk + 1)) })
    s2.modPart g.part (fun p => { p with tcount := p.tcount + 1 })

/-- R397 to R411: a thread takes a fault: it enters the handler, is switched off, or ends its workgroup, block or
domain. -/
def State.takeFault (s : State) (wg t : Nat) (a : Async) (done : BitVec 3) (rpc : Nat) : State :=
  let g := s.wgrp wg
  let p := s.part g.part
  let f : FaultInfo := ⟨a.cause, a.info, t, a.pc, a.raw, a.clk⟩
  let cls := causeClass a.cause
  if (Tbl.get? s.wgs wg).isNone then s
  else if cls == 1 then s.laneOff wg t a
  else if cls == 3 then
    let s1 := if g.stack.isSome then s.raiseFatal wg f else s
    s1.raiseRegion g.part g.dom wg f
  else if cls == 2 || g.stack.isSome then s.raiseFatal wg f
  else if (s.thr wg t).priv then s.raiseFatal wg { f with cause := 0x1B, info := a.cause }
  else if !(p.tctl.getLsbD 0) then s.raiseFatal wg f
  else s.trapEntry wg t a done rpc

/-- R430: an asynchronous trap: taken at the end of the thread's next packet, or at once by a thread that waits. -/
def State.raiseAsync (s : State) (wg t : Nat) (a : Async) : State :=
  if s.dying wg then s
  else
  let s1 := s.modThr wg t (fun x => { x with async := x.async ++ [a] })
  if (s.thr wg t).wait = .ready then s1 else s1.due (.event (.asyncTrap wg t))

/-! ## Returning from an exception (R403, R404) -/

/-- R404: a frame that TRAPRET refuses, for a thread that holds `held`. -/
def frameMalformed (ds : List Nat) (held : Option Held) : Bool :=
  let d := fun i => ds.getD i 0
  let wait := nbits (d 10) 3 0
  let waitn := nbits (d 10) 7 4
  nbits (d 0) 31 20 != 0 || nbits (d 1) 63 53 != 0 || nbits (d 2) 63 53 != 0 || nbits (d 4) 63 37 != 0 ||
  nbits (d 10) 63 8 != 0 || (List.range 5).any (fun i => d (11 + i) != 0) || decide (5 < wait) ||
  (wait != 0 && (match held with
    | none => true
    | some h => h.wait.code != (wait, waitn)))

/-- RETURNING FROM AN EXCEPTION (R404): restore v0 to v7 and the predicates, leave privileged mode, and continue at RPC or
resume the held wait. `fva` is the frame, `ds` its 16 doubles, `pc` and `raw` the TRAPRET. -/
def State.trapReturn (s : State) (wg t fva : Nat) (ds : List Nat) (pc : Nat) (raw : Word) : State :=
  let x := s.thr wg t
  if frameMalformed ds x.held then s.raiseFatal wg ⟨0x1B, 0x1D, t, pc, raw, s.clk⟩ |>.modWg wg (fun g => match g.ended with
    | some e => if e.t = t then { g with ended := some ⟨0x1D, fva % 2 ^ 57, t, pc, raw, s.clk⟩ } else g
    | none => g)
  else
    let d := fun i => ds.getD i 0
    let rpc := d 2
    let skip := if d 2 = d 1 then BitVec.ofNat 3 (nbits (d 0) 19 17) else 0#3
    let v8 := (List.range 8).foldl (fun v i =>
      Tbl.set v 0#32 i (BitVec.ofNat 32 (if i % 2 == 0 then d (6 + i / 2) else d (6 + i / 2) / 2 ^ 32))) x.v
    let back := match x.held with
      | some h => if nbits (d 10) 3 0 != 0 && !h.met then some h else none
      | none => none
    (s.dissolve x.bound).modThr wg t (fun y => { y with
      v := v8, p := (BitVec.ofNat 32 (d 4)) ||| 1#32, priv := false, latch := [none, none, none, none],
      wait := match back with
        | some h => h.wait
        | none => .ready,
      resume := rpc, held := none, pc := rpc, skip := skip })

end Sys2Proof.Machine
end

