-- ==== Sys2Proof/Machine/SysMap.lean ====
section
/-! DEFINITION. The map of the privileged system registers, which the host and privileged threads share (spec 12, R363 to
R365; R374, R399, R420, R477). -/

namespace Sys2Proof.Machine

/-- R364: the RRSEL window of the host link or of a partition. -/
def State.window (s : State) : Who → Window
  | .host => s.hostWindow
  | .part p => (s.part p).window

def State.modWindow (s : State) (who : Who) (f : Window → Window) : State :=
  match who with
  | .host => { s with hostWindow := f s.hostWindow }
  | .part p => s.modPart p (fun x => { x with window := f x.window })

/-- R374: a port register. -/
def Port.word (p : Port) : Nat := (if p.en then 1 else 0) + (if p.up then 2 else 0) + 16 * (if p.en then p.lanes else 0)

/-- R477: the register at offset `k` of a power controller. -/
def Power.read (p : Power) (k : Nat) : Option Nat :=
  if k = 0 then some p.pshare.toNat else if k = 1 then some p.pbase.toNat else if k = 2 then some p.temp.toNat
  else if k = 3 then some p.tfth.toNat else if k = 4 then some p.ttrip.toNat else if k = 5 then some p.tf
  else if k = 6 then some (p.debt / 1024) else if k = 7 then some (p.energy / 1024 % 2 ^ 64)
  else if 8 ≤ k ∧ k ≤ 13 then some (p.costs.getD (k - 8) 0#32).toNat
  else if k = 0x10 then some p.cecnt.toNat else if k = 0x11 then some p.capring.toNat
  else if k = 0x12 then some p.captail.toNat else if k = 0x13 then some p.caphead.toNat
  else if k = 0x14 then some p.spares.toNat
  else if k = 0x18 then some (p.bootst + 16 * p.bootSlot + 65536 * p.bootSvn)
  else none

/-- R364, R399: register `k` of a partition. -/
def Partition.read (p : Partition) (k : Nat) : Nat :=
  if k ≤ 2 then (p.cmask.getD k 0#64).toNat else if k = 3 then p.rootRcb.toNat else if k = 4 then p.bperiod.toNat
  else if k = 5 then p.tslice.toNat else if k = 6 then p.saveArea.toNat
  else if k = 8 then p.tvec.toNat else if k = 9 then p.tasid.toNat else if k = 10 then p.tfva.toNat
  else if k = 11 then p.tctl.toNat else if k = 12 then p.fqtab.toNat else if k = 13 then (if p.killing.isEmpty then 0 else 1)
  else if k = 14 then p.tcount.toNat else 0

/-- R364: register `k` of a stack. -/
def Stack.read (x : Stack) (k : Nat) : Option Nat :=
  if k = 0 then some x.stroot.toNat else if k = 1 then some (if x.inv.isSome then 1 else 0) else if k = 2 then some x.nmcode.toNat
  else if k = 3 then some 0 else if k = 4 then some x.nmframe.toNat
  else if k = 5 then some (if x.kernels.isEmpty then 0 else 1) else if k = 6 then some x.nmbanks.toNat else none

/-- The value of a privileged register for the host or a privileged thread; none where the number is unallocated or names
another partition's instance (R363, R364, R419). -/
def State.sysRead (s : State) (who : Who) (n : Nat) : Option Nat :=
  if 0x1000 ≤ n ∧ n < 0x1080 then
    let p := (n - 0x1000) / 16
    match who with
    | .host => some ((s.part p).read (n % 16))
    | .part q => if q = p then some ((s.part p).read (n % 16)) else none
  else if n = 0x1100 then some (s.window who).rrsel.toNat
  else if n = 0x1101 then some (s.window who).rrlo.toNat
  else if n = 0x1102 then some (s.window who).rrmid.toNat
  else if n = 0x1103 then some (s.window who).rrhi.toNat
  else if n = 0x1104 then some (if (s.window who).busy then 1 else 0)
  else if 0x1200 ≤ n ∧ n < 0x1240 then (s.stack ((n - 0x1200) / 8)).read (n % 8)
  else if n = 0x1240 then some s.haroot.toNat
  else if n = 0x1242 then some s.piroot.toNat
  else if n = 0x1244 then some s.cmroot.toNat
  else if n = 0x1241 ∨ n = 0x1243 ∨ n = 0x1245 ∨ n = 0x1248 then some 0
  else if n = 0x1300 then some s.devidx.toNat
  else if 0x1301 ≤ n ∧ n ≤ 0x1308 then some (s.ports.getD (n - 0x1301) Port.reset).word
  else if 0x3000 ≤ n ∧ n ≤ 0x30FF then (s.die ((n - 0x3000) / 128)).power.read (n % 128)
  else none

/-- R364: a command register. -/
def sysCommand (n : Nat) : Bool :=
  (decide (0x1000 ≤ n) && decide (n < 0x1080) && (n % 16 == 7 || n % 16 == 13)) || n == 0x1104 ||
  (decide (0x1200 ≤ n) && decide (n < 0x1240) && (n % 8 == 1 || n % 8 == 3 || n % 8 == 5)) ||
  n == 0x1241 || n == 0x1243 || n == 0x1245 || n == 0x1248

/-! ## Writes (R363, R420) -/

/-- R420: a write to a plain register of a partition: discarded where a reserved bit or the alignment is wrong. -/
def Partition.write (p : Partition) (k v : Nat) : Partition :=
  let d := BitVec.ofNat 64 v
  let w := BitVec.ofNat 32 v
  if k ≤ 2 then { p with cmask := setAt p.cmask k d }
  else if k = 3 then
    (if v < 2 ^ 52 ∧ v % 64 = 0 then { p with rootRcb := d, tree := if p.resident then p.tree else [] } else p)
  else if k = 4 then (if v < 2 ^ 32 then { p with bperiod := w } else p)
  else if k = 5 then (if v < 2 ^ 32 then { p with tslice := w } else p)
  else if k = 6 then (if v < 2 ^ 52 ∧ v % 2 ^ 21 = 0 then { p with saveArea := d } else p)
  else if k = 8 then (if v < 2 ^ 53 then { p with tvec := d } else p)
  else if k = 9 then (if v < 2 ^ 12 then { p with tasid := w } else p)
  else if k = 10 then (if v < 2 ^ 57 ∧ v % 4096 = 0 then { p with tfva := d } else p)
  else if k = 11 then (if v < 2 then { p with tctl := w } else p)
  else if k = 12 then (if v < 2 ^ 52 ∧ v % 64 = 0 then { p with fqtab := d } else p)
  else if k = 14 then (if v < 2 ^ 32 then { p with tcount := w } else p)
  else p

/-- R197, R420: an NMCODE value. -/
def nmcodeOk (v : Nat) : Bool :=
  let size := nbits v 63 48
  decide (1 ≤ size) && decide (size ≤ 1024) && nbits v 47 36 == 0 && nbits v 15 0 == 0 &&
    decide (nbits v 35 16 * 65536 + size * 65536 ≤ Config.spaLimit)

/-- R201, R420: an NMFRAME value. -/
def nmframeOk (v : Nat) : Bool :=
  nbits v 43 36 == 0 && nbits v 11 0 == 0 && decide (nbits v 35 12 * 4096 + nbits v 63 44 * 4096 ≤ Config.spaLimit)

/-- R420: a write to a plain register of a stack. -/
def Stack.write (x : Stack) (k v : Nat) : Stack :=
  if k = 0 then (if v < 2 ^ 36 then { x with stroot := BitVec.ofNat 64 v } else x)
  else if k = 2 then (if nmcodeOk v then { x with nmcode := BitVec.ofNat 64 v } else x)
  else if k = 4 then (if nmframeOk v then { x with nmframe := BitVec.ofNat 64 v } else x)
  else if k = 6 then
    (if v % 192 = 0 ∧ 192 ≤ v ∧ v ≤ 3072 then { x with nmbanks := BitVec.ofNat 32 v } else x)
  else x

/-- R478: the controller sees at CLK `clk` whether TEMP stands at or above TTRIP. -/
def Power.heat (p : Power) (clk : Nat) : Power :=
  { p with hotSince := if p.ttrip.toNat ≤ p.temp.toNat then some (p.hotSince.getD clk) else none }

/-- R420, R477, R478: a write to a power controller: PSHARE, PBASE, TFTH and the costs are applied at the next window. -/
def Power.write (p : Power) (clk k v : Nat) : Power :=
  let stage := { p with staged := p.staged ++ [(k, v)] }
  if k = 0 ∨ k = 1 then (if v < 4096 then stage else p)
  else if k = 3 then (if v < 2 ^ 32 ∧ v % 65536 < v / 65536 then stage else p)
  else if k = 4 then (if v < 65536 then Power.heat { p with ttrip := BitVec.ofNat 32 v } clk else p)
  else if k = 12 then (if v < 2 ^ 32 then stage else p)
  else if 8 ≤ k ∧ k ≤ 13 then (if v < 65536 then stage else p)
  else if k = 0x10 then { p with cecnt := BitVec.ofNat 64 v }
  else if k = 0x11 then (if v < 2 ^ 56 ∧ nbits v 51 0 % 32 = 0 then { p with capring := BitVec.ofNat 64 v } else p)
  else if k = 0x13 then (if v < 2 ^ 32 then { p with caphead := BitVec.ofNat 32 v } else p)
  else p

/-- R213: the command that a write of an argument block's IA to a kick register starts. -/
def State.kick (s : State) (who : Who) (k ia : Nat) : State :=
  match s.double? ia with
  | none => s
  | some d =>
    if d % 256 = 1 then s.dueNext [.event (.nmkickScrub who k ia)]
    else if d % 256 = 2 then s.dueNext [.event (.nmkickMigrationCopy who k ia)]
    else if d % 256 = 3 then s.dueNext [.event (.nmkickZero who k ia)]
    else s

/-- R479: CMASK bits of clusters removed from service read 0. -/
def State.coreMask (s : State) (k v : Nat) : Nat :=
  (List.range 64).foldl (fun m i => if nbit v i && !s.removed.contains ((64 * k + i) / 4) then m + 2 ^ i else m) 0

/-- R420, R479: a value of a CMASK names only enabled cores: none of a cluster removed from service. -/
def State.maskOk (s : State) (k v : Nat) : Bool :=
  decide (v < 2 ^ 64) && (List.range 64).all (fun i => !(nbit v i && s.removed.contains ((64 * k + i) / 4)))

/-- A write of a privileged register by the host or a privileged thread (R363, R364, R420): a plain register takes the
value or keeps its own; a command register starts its command. -/
def State.sysWrite (s : State) (who : Who) (n v : Nat) : State :=
  if 0x1000 ≤ n ∧ n < 0x1080 then
    let p := (n - 0x1000) / 16
    if n % 16 = 7 then s.dueNext [.event (.reload who p)]
    else if n % 16 = 13 then (if v < 4096 then s.dueNext [.event (.kill who p v)] else s)
    else if n % 16 < 3 then (if s.maskOk (n % 16) v then s.modPart p (fun x => x.write (n % 16) v) else s)
    else s.modPart p (fun x => x.write (n % 16) v)
  else if n = 0x1100 then
    if v = nbits v 27 16 * 65536 + nbits v 3 0 then
      s.modWindow who (fun w => { w with rrsel := (w.rrsel &&& 0x80000000#32) ||| BitVec.ofNat 32 v })
    else s
  else if n = 0x1101 then s.modWindow who (fun w => { w with rrlo := BitVec.ofNat 64 v })
  else if n = 0x1102 then s.modWindow who (fun w => { w with rrmid := BitVec.ofNat 64 v })
  else if n = 0x1103 then s.modWindow who (fun w => { w with rrhi := BitVec.ofNat 64 v })
  else if n = 0x1104 then
    if v = 1 then s.dueNext [.event (.rrcommitCommit who)]
    else if v = 2 then s.dueNext [.event (.rrcommitFetch who)]
    else s
  else if 0x1200 ≤ n ∧ n < 0x1240 then
    let k := (n - 0x1200) / 8
    if n % 8 = 1 then s.dueNext [.event (.stinv who k)]
    else if n % 8 = 3 then s.dueNext [.event (.nmcinv who k)]
    else if n % 8 = 5 then (if v < 2 ^ 52 then s.kick who k v else s)
    else s.modStack k (fun x => x.write (n % 8) v)
  else if n = 0x1240 then (if v < 2 ^ 52 then { s with haroot := BitVec.ofNat 64 v } else s)
  else if n = 0x1242 then (if v < 2 ^ 52 then { s with piroot := BitVec.ofNat 64 v } else s)
  else if n = 0x1244 then (if v < 2 ^ 52 then { s with cmroot := BitVec.ofNat 64 v } else s)
  else if n = 0x1241 then s.dueNext [.event .hainv]
  else if n = 0x1243 then s.dueNext [.event .piinv]
  else if n = 0x1245 then s.dueNext [.event .cminv]
  else if n = 0x1248 then s.dueNext [.event (.icinv who)]
  else if n = 0x1300 then (if v < 1024 then { s with devidx := BitVec.ofNat 32 v } else s)
  else if 0x1301 ≤ n ∧ n ≤ 0x1308 then
    if v < 256 ∧ nbits v 3 2 = 0 then s.dueNext [.event (.portmapEnable who (n - 0x1301) (BitVec.ofNat 64 v))] else s
  else if 0x3000 ≤ n ∧ n ≤ 0x30FF then s.modPower ((n - 0x3000) / 128) (fun p => p.write s.clk (n % 128) v)
  else s

end Sys2Proof.Machine
end

