-- ==== Sys2Proof/Machine/MemPath.lean ====
section
/-! DEFINITION. The memory path of a core: L1 and L2 copies, core store order, notifications, releases and acquires, fence
tokens, and the completion of memory words (spec 06, R139 to R157; R299 to R308, R435 to R438, R456, R461). -/

namespace Sys2Proof.Machine

/-! ## Lines (R132, R152, R153) -/

def Core.gen (c : Core) (off : Nat) : Nat := if off == 1 then c.genDev else if off == 2 then c.genSys else 0
def Core.acq (c : Core) (off : Nat) : Nat := if off == 1 then c.acqDev else c.acqSys

/-- R152: an L1 copy hits only under the generation and lease of its fill. -/
def Line.live (l : Line) (c : Core) (clk : Nat) : Bool := l.off == 0 || (l.gen == c.gen l.off && decide (clk < l.expiry))

/-- A store of a braid's queue as it goes on its way to its home. -/
def SEntry.leaving (e : SEntry) (wg : Nat) : WStore :=
  { seq := 0, wg := wg, t := e.t, asid := e.asid, va := e.va, ia := e.ia, pol := e.pol, hint := e.hint, data := e.data, pc := e.pc,
    raw := e.raw, wpos := e.wpos, logged := none, replay := e.replay, born := e.born, lseq := 0, trap := e.trap, own := (0, 0) }

/-- A write-back of software-managed bytes. -/
def WStore.back (ia pol born : Nat) (own : Nat × Nat) (data : List Byte) : WStore :=
  { seq := 0, wg := 0, t := 0, asid := 0, va := 0, ia := ia, pol := pol, hint := 0, data := data, pc := 0, raw := 0#32, wpos := 0,
    logged := none, replay := false, born := born, lseq := 0, trap := none, own := own }

/-- R146, R155: a store takes its place in core store order, on its way to its home. -/
def State.toHome (s : State) (core : Nat) (w : WStore) : State :=
  let (s1, q) := s.freshSeq
  s1.modCore core (fun c => { c with
    wstores := c.wstores ++ [{ w with seq := q }],
    sent := match endpointOf (dieOf core) w.ia with
      | some e => Tbl.put c.sent e (Tbl.getD c.sent e 0 + 1)
      | none => c.sent })

/-- R149, R151: bytes of a line homed off a die reach the die's L2 copy of it. -/
def State.l2Update (s : State) (die ia : Nat) (data : List Byte) : State :=
  if homeClass die ia = 0 then s
  else s.modDie die (fun d => { d with l2 := d.l2.map (fun l => if l.tag = ia / 128 then l.overlay ia data else l) })

/-- R145, R151: write back the dirty bytes of a software-managed line, to the die's L2 and to the home. -/
def State.writeBack (s : State) (core : Nat) (l : Line) : State :=
  (dirtyRuns (sortBy id l.dirty) l.data).foldl (fun s r =>
    (s.l2Update (dieOf core) (l.tag * 128 + r.1) r.2).toHome core (WStore.back (l.tag * 128 + r.1) l.pol s.clk l.own r.2)) s

/-- R145, R151: a core writes back every dirty software-managed byte; its lines stay, clean. -/
def State.writeBackAll (s : State) (core : Nat) : State :=
  ((s.core core).dirtyLines.foldl (fun s l => s.writeBack core l) s).modCore core (fun c => { c with
    l1d := c.l1d.map (fun l => if l.pol != 0 then { l with dirty := [] } else l) })

/-- R134: place a line in the L1 data cache; the line it replaces is written back. -/
def State.l1Place (s : State) (core : Nat) (l : Line) : State :=
  let (ls, v) := placeLine 128 8 l (s.core core).l1d
  let s1 := s.modCore core (fun c => { c with l1d := ls })
  match v with
  | some x => s1.writeBack core x
  | none => s1

/-- R145: drop L1 lines, writing back what they hold dirty (DESIGN CHOICE, log entry 9). -/
def State.l1Drop (s : State) (core : Nat) (p : Line → Bool) : State :=
  let out := (s.core core).l1d.filter p
  let s1 := s.modCore core (fun c => { c with l1d := c.l1d.filter (fun l => !p l) })
  out.foldl (fun s l => s.writeBack core l) s1

/-- R149: apply the notifications up to a stamp. -/
def Core.applyNotes (c : Core) (upto : Nat) : Core :=
  let due := c.notes.filter (fun n => decide (n.1 ≤ upto))
  { c with
    l1d := c.l1d.filter (fun l => l.pol != 0 || !(due.any (fun n => n.2.1 == l.tag))),
    notes := c.notes.filter (fun n => decide (upto < n.1)) }

/-- R146, R148: bytes of stores that are in core store order and not yet at their homes. -/
def overlayStores (ws : List WStore) (l : Line) : Line :=
  ws.foldl (fun l w => if isAlias w.ia then l else l.overlay w.ia w.data) l

/-- R144, R149: the stores of a die's cores that are on their way to their homes, in the die's order. -/
def State.diePending (s : State) (die : Nat) : List WStore :=
  sortBy WStore.seq ((s.cores.filter (fun p => dieOf p.1 == die)).flatMap (fun p => p.2.wstores))

/-- R369: a page of the window, as the tables of its translator stand, leads to the line. -/
def State.isWindow (s : State) (ia : Nat) : Bool :=
  s.hdmSize != 0 && s.cmroot != 0#64 && (List.range (min s.hdmSize (2 ^ 39) / 65536)).any (fun p =>
    match walk false (fun a => (s.tableDouble a).toOption.getD 0) (nbits s.cmroot.toNat 51 0) (65536 * p) with
    | .hit out _ _ => out / 65536 == ia / 65536
    | _ => false)

/-- R369: a core caches no window line before its first acquire at .sys. -/
def State.uncached (s : State) (core ia : Nat) : Bool := (s.core core).acqSys == 0 && s.isWindow ia

/-- R132, R152, R153: fetch a line for a core: from the die's L2 copy where it may serve the core, or from the home. A line homed
off the die holds the stores that its own die has shown already (R144, R149); the L2 takes a copy of it where `keep` holds. -/
def State.lineRead (s : State) (core ia hint : Nat) (keep : Bool) : Except MErr (State × Line) :=
  let die := dieOf core
  let tag := ia / 128
  let off := homeClass die ia
  let c := s.core core
  let (s0, now) := s.freshSeq
  let copy := match findLine tag (s.die die).l2 with
    | some l => if off != 0 && decide (c.acq off < l.fillReq) && decide (s.clk < l.expiry) then some l else none
    | none => none
  match copy with
  | some l =>
    .ok (s0.modDie die (fun d => { d with l2 := touchLine 49152 16 tag (hintClass hint) now d.l2 }),
      { l with gen := c.gen off, cls := hintClass hint, used := now })
  | none =>
    match s0.homeRead die (tag * 128) 64 hint with
    | .error e => .error e
    | .ok (s1, d1, p1) =>
      match s1.homeRead die (tag * 128 + 64) 64 hint with
      | .error e => .error e
      | .ok (s2, d2, p2) =>
        let l : Line :=
          { tag := tag, data := (List.range 128).zip (d1 ++ d2), dirty := [], pol := 0, cls := hintClass hint, used := now,
            gen := c.gen off, expiry := s.clk + Config.leaseCc,
            fillReq := if off == 0 then (s.die die).noteSeq else s.clk, off := off,
            poison := (if p1 then [0] else []) ++ (if p2 then [1] else []), own := (0, 0) }
        if off == 0 then .ok (s2, l)
        else
          let l' := overlayStores (s2.diePending die) l
          .ok (if keep then s2.l2Put die l' else s2, l')

/-- R124: the policy of a line that an access brings, in the L2 as in the L1. -/
def State.linePol (s : State) (die tag pol : Nat) : State :=
  s.modDie die (fun d => { d with l2 := d.l2.map (fun l => if l.tag = tag then { l with pol := pol } else l) })

/-- A load by a core, after its braid's own stores (R132, R144, R149, R152, R153): the bytes, whether they are poisoned
and the notification the value depends on. -/
def State.coreLoad (s : State) (core ia n pol hint : Nat) : Except MErr (State × List Byte × Bool × Nat) :=
  if isRhizoid core then
    match s.stackRead ia n hint with
    | .error e => .error e
    | .ok (s1, d, p) => .ok (s1, d, p, 0)
  else if isAlias ia then
    match s.homeRead (dieOf core) ia n hint with
    | .error e => .error e
    | .ok (s1, d, p) => .ok (s1, d, p, 0)
  else
    let c := s.core core
    let tag := ia / 128
    let o := ia % 128
    let old := findLine tag c.l1d
    let hit := match old with
      | some l => if l.live c s.clk then (l.bytesAt o n).map (fun b => (b, l)) else none
      | none => none
    match hit with
    | some (b, l) =>
      let (s1, now) := s.freshSeq
      .ok (s1.modCore core (fun c => { c with l1d := touchLine 128 8 tag (hintClass hint) now c.l1d }), b,
        l.poison.contains (o / 64), if l.off == 0 then l.fillReq else 0)
    | none =>
      let pass := old.isNone && s.uncached core ia
      match s.lineRead core ia hint (!pass) with
      | .error e => .error e
      | .ok (s1, l0) =>
        let l1 := if l0.off == 0 then overlayStores c.wstores { l0 with pol := pol } else { l0 with pol := pol }
        let l2 := match old with
          | some x => { l1 with
              data := x.dirty.foldl (fun m i => Tbl.put m i (Tbl.getD x.data i 0#8)) l1.data, dirty := x.dirty, own := x.own }
          | none => l1
        let s2 := s1.linePol (dieOf core) tag pol
        let s3 := if pass || (hint == 3 && old.isNone) then s2 else s2.l1Place core l2
        .ok (s3, (l2.bytesAt o n).getD [], l2.poison.contains (o / 64), if l2.off == 0 then l2.fillReq else 0)

/-! ## Store queues (R146 to R148) -/

/-- R147, R436: the bytes of the stores of a queue that a load of `n` bytes matches, and the stamp of the newest: none where it
matches none; some none where it matches only some bytes, or a logged store, and waits. -/
def forwarded (q : List SEntry) (scratch : Bool) (core base n seq : Nat) : Option (Option (List Byte × Nat)) :=
  let at_ := fun (e : SEntry) => if scratch then e.addr else e.ia
  let ms := q.filter (fun e => decide (e.seq < seq) && e.scratch == scratch && (!scratch || e.core == core) &&
    overlaps (at_ e) e.data.length base n)
  if ms.isEmpty then none
  else if ms.any (fun e => e.logged.isSome) then some none
  else
    let m : Tbl Byte := ms.foldl (fun m e => (e.data.zip (rangeFrom (at_ e) e.data.length)).foldl
      (fun m p => Tbl.put m p.2 p.1) m) []
    let bs := (rangeFrom base n).filterMap (fun i => Tbl.get? m i)
    some (if bs.length = n then some (bs, (ms.map SEntry.seq).foldl max 0) else none)

/-- The key of the commands of a stack whose page is not resident (R435). -/
def heldKey : Nat := 192

/-- R435: bank commands of a rhizoid core that are logged for a page that is not resident. -/
def State.bankLogged (s : State) (core : Nat) : Nat :=
  if isRhizoid core then
    ((Tbl.getD (s.stack (stackOf core)).seqQ heldKey []).filter (fun b => b.lseq != 0 && (s.wgrp b.wg).coreOf b.t == core)).length
  else 0

/-- R436: accesses logged at a core. -/
def State.logCount (s : State) (core : Nat) : Nat :=
  s.threads.foldl (fun k p => if (s.wgrp p.2.wg).coreOf p.2.t = core then
    k + (p.2.mops.filter (fun m => m.logged.isSome)).length else k) 0 +
  s.braids.foldl (fun k p => if (s.wgrp p.2.wg).coreOf (p.2.idx * (s.wgrp p.2.wg).w) = core then
    k + (p.2.storeQ.filter (fun e => e.logged.isSome)).length else k) 0 +
  ((s.core core).wstores.filter (fun w => w.logged.isSome)).length + s.bankLogged core

/-- R442: another core holds an unflushed byte of the sectors of a checking-mode range: dirty in its L1, or written back and not yet at its
home. -/
def State.unflushed (s : State) (core ia n : Nat) : Bool :=
  s.cores.any (fun p => p.1 != core && (
    p.2.l1d.any (fun l => l.pol == 2 && l.dirty.any (fun o => overlaps ((l.tag * 128 + o) / 32) 1 (ia / 32) ((ia + n - 1) / 32 - ia / 32 + 1))) ||
    p.2.wstores.any (fun w => w.wg == 0 && w.pol == 2 && overlaps (w.ia / 32) ((w.ia + w.data.length - 1) / 32 - w.ia / 32 + 1) (ia / 32) ((ia + n - 1) / 32 - ia / 32 + 1))))

/-! ## Which memory word may be performed (R141, R146, R306, R436) -/

def MKind.isLoad : MKind → Bool
  | .load .. => true
  | .lds .. => true
  | _ => false

/-- A word that a release does not hold and that a logged load of other bytes does not. -/
def MKind.reads : MKind → Bool
  | .load .. => true
  | .lds .. => true
  | .prefetch => true
  | _ => false

def MOp.size (m : MOp) : Nat :=
  match m.kind with
  | .load _ n _ => n
  | .lds _ n => n
  | .atom _ n .. => n
  | .atoms .. => 4
  | .cntadd _ => 8
  | .waitRead _ => 8
  | .flush n => n
  | .prefetch => 128
  | .fence _ => 0
  | .syswr .. => 0

/-- Where an access is performed: the scratchpad of a core or memory, the first byte and the length. -/
structure Site where
  scratch : Bool
  core : Nat
  base : Nat
  n : Nat
  deriving DecidableEq, Repr

def Site.meets (a b : Site) : Bool := a.scratch == b.scratch && a.core == b.core && overlaps a.base a.n b.base b.n

/-- R134: two accesses of a cycle that take effect in the order of R44: to common bytes of a scratchpad, or to one line of memory. -/
def Site.near (a b : Site) : Bool := if a.scratch then a.meets b else !b.scratch && a.base / 128 == b.base / 128

def MOp.site (m : MOp) : Option Site :=
  match m.kind with
  | .lds _ n => some ⟨true, m.core, m.addr, n⟩
  | .atoms .. => some ⟨true, m.core, m.addr, 4⟩
  | .load _ n _ => some ⟨false, 0, m.ia, n⟩
  | .atom _ n .. => some ⟨false, 0, m.ia, n⟩
  | .cntadd _ => some ⟨false, 0, m.ia, 8⟩
  | .prefetch => some ⟨false, 0, m.ia / 128 * 128, 128⟩
  | _ => none

def SEntry.site (e : SEntry) : Site :=
  if e.scratch then ⟨true, e.core, e.addr, e.data.length⟩ else ⟨false, 0, e.ia, e.data.length⟩

/-- R44, R120, R134, R141: an access of issue cycle `grp` waits for the accesses of that cycle that come before it and are near it: those of
another word that are pending, and stores in the queues of other braids (`own` is the key of its own). -/
def State.cycleHeld (s : State) (grp seq word own : Nat) (p : Site) : Bool :=
  grp != 0 && (
    s.threads.any (fun x => x.2.mops.any (fun e => e.grp == grp && decide (e.seq < seq) && e.word != word && e.site.any p.near)) ||
    s.braids.any (fun b => b.1 != own && b.2.storeQ.any (fun e => e.grp == grp && decide (e.seq < seq) && p.near e.site)))

/-- The same for a memory word of a thread of `wg`. -/
def State.mopHeld (s : State) (wg t : Nat) (m : MOp) : Bool :=
  m.site.any (s.cycleHeld m.grp m.seq m.word (bkey wg ((s.wgrp wg).braidOf t)))

/-- An earlier memory word `e` of a thread holds a later one `m` (R146, R223, R436); on a rhizoid core every access does (R206). -/
def MOp.blocks (e m : MOp) : Bool :=
  match e.kind with
  | .load .. => isRhizoid e.core || !(e.logged.isSome && m.kind.reads && !overlaps e.va e.size m.va m.size)
  | .lds .. => true
  | .fence k => !(k == 1 && m.kind.reads)
  | .waitRead _ => false
  | .prefetch => false
  -- R365: a waiting thread's read of its counter is no later word
  | .syswr .. => match m.kind with | .waitRead _ => false | _ => true
  | _ => true

def Thread.mayPerform (x : Thread) (m : MOp) : Bool :=
  m.logged.isNone && x.mops.all (fun e => decide (m.seq ≤ e.seq) || !e.blocks m)

/-- A store of a thread may leave the queue: no earlier memory word of the thread holds it (R146, R151, R306). -/
def Thread.mayDrain (x : Thread) (e : SEntry) : Bool :=
  x.mops.all (fun m => decide (e.seq < m.seq) || (match m.kind with
    | .load _ n _ => !isRhizoid m.core && m.logged.isSome && !overlaps m.va n e.va e.data.length
    | .waitRead _ => true
    | .prefetch => true
    | _ => false))

/-! ## Thread results -/

/-- The registers a memory word writes: the first and how many. -/
def MOp.dests (m : MOp) : Nat × Nat :=
  match m.kind with
  | .load d n _ => (d, max 1 (n / 4))
  | .lds d n => (d, n / 4)
  | .atom _ n d .. => (d, n / 4)
  | .atoms _ d .. => (d, 1)
  | _ => (0, 0)

/-- Key of a thread's dependence table that holds the greatest dependence of its loads (R150). -/
def depAll : Nat := 4096

/-- A memory word writes register `r`. -/
def MOp.writes (m : MOp) (r : Nat) : Bool := decide (m.dests.1 ≤ r) && decide (r < m.dests.1 + m.dests.2)

/-- R223, R224: the result of the word with stamp `seq` is delivered to register `r`: it is written unless a later word has written it
or will; the code is clear unless another result for it is pending. -/
def Thread.deliverReg (x : Thread) (seq r : Nat) (w : Word) (clk dep : Nat) : Thread :=
  if Tbl.get? x.busy r != some none then x
  else
    let late := x.covered.contains r || x.mops.any (fun e => decide (seq < e.seq) && e.writes r)
    let y := if late then x else { x with v := Tbl.set x.v 0#32 r w, dep := Tbl.set x.dep 0 r dep }
    if x.mops.any (fun e => e.seq != seq && e.writes r) then (if late then y else { y with covered := r :: y.covered })
    else { y with busy := Tbl.put y.busy r (some clk), covered := y.covered.filter (· != r) }

/-- The result of the memory word `seq` is delivered to consecutive registers (R223, R224). -/
def State.deliver (s : State) (wg t seq d : Nat) (ws : List Word) (dep : Nat) : State :=
  s.modThr wg t (fun x =>
    let y := (ws.zip (rangeFrom d ws.length)).foldl (fun y p => y.deliverReg seq p.2 p.1 s.clk dep) x
    if Tbl.getD y.dep depAll 0 < dep then { y with dep := Tbl.put y.dep depAll dep } else y)

/-- R438: a destination is released unwritten. -/
def State.releaseRegs (s : State) (wg t d n : Nat) : State :=
  s.modThr wg t (fun x => { x with
    busy := (rangeFrom d n).foldl (fun b i => Tbl.put b i (some s.clk)) x.busy,
    covered := x.covered.filter (fun r => !(decide (d ≤ r) && decide (r < d + n))) })

def State.dropMop (s : State) (wg t seq : Nat) : State :=
  s.modThr wg t (fun x => { x with mops := x.mops.filter (fun m => m.seq != seq) })

def State.modMop (s : State) (wg t seq : Nat) (f : MOp → MOp) : State :=
  s.modThr wg t (fun x => { x with mops := x.mops.map (fun m => if m.seq = seq then f m else m) })

/-- R3, R300: the words that a load writes. -/
def loadWords (n : Nat) (signed : Bool) (bs : List Byte) : List Word :=
  if n < 4 then
    [if signed then BitVec.ofInt 32 (sextNat (leVal bs) (8 * n)) else BitVec.ofNat 32 (leVal bs)]
  else (List.range (n / 4)).map (fun i => BitVec.ofNat 32 (leVal ((bs.drop (4 * i)).take 4)))

/-- R456, R461: the words of a lost or poisoned access. -/
def MOp.badWords (m : MOp) : List Word := List.replicate m.dests.2 Config.poisonWord

def MOp.async (m : MOp) (clk cause info : Nat) : Async := ⟨cause, info, m.pc, m.raw, m.wpos, clk⟩

/-- R435, R438, R456, R461: a memory word of a thread meets an error at its home. -/
def State.mopError (s : State) (wg t : Nat) (m : MOp) : MErr → State
  | .notRes tr _ _ =>
    if m.replay then
      (((s.dropMop wg t m.seq).releaseRegs wg t m.dests.1 m.dests.2).raiseAsync wg t (m.async s.clk 0x4A m.va))
    else s.due (.event (.pageNotResident tr m.seq))
  | .region cause info =>
    let s1 := if cause = 0x68 ∨ cause = 0x6A then s.deliver wg t m.seq m.dests.1 m.badWords 0
      else s.releaseRegs wg t m.dests.1 m.dests.2
    (s1.dropMop wg t m.seq).takeFault wg t (m.async s.clk cause info) 0#3 m.pc
  | .refused =>
    ((s.dropMop wg t m.seq).releaseRegs wg t m.dests.1 m.dests.2).raiseAsync wg t (m.async s.clk 0x69 m.va)
  -- R375: held at the source
  | .held _ => s

/-- R461: a thread load or atomic reads poison. -/
def State.mopPoison (s : State) (wg t : Nat) (m : MOp) : State :=
  ((s.deliver wg t m.seq m.dests.1 m.badWords 0).dropMop wg t m.seq).takeFault wg t (m.async s.clk 0x60 m.va) 0#3 m.pc

/-! ## Peer requests (R376, R455) -/

/-- R375: some port can be used. -/
def State.anyPort (s : State) : Bool := s.ports.any (fun p => p.en && p.up)

/-- R455: a request that succeeded after a retry writes a class-0 record. -/
def State.retried (s : State) (r : PeerReq) (wg : Nat) : State :=
  if r.tries ≤ 1 then s
  else
    let g := s.wgrp wg
    s.report r.part r.dom { Report.plain 0 0x6B (r.tries * 2 ^ 60 + r.dev) with
      wgnum := g.wgnum, launch := g.launchIa, core := g.core, asid := g.asid }

/-- Send a request that is not yet sent, of a domain; true where the access goes on now, answered until `State.gateShut`. -/
def State.peerGateOf (s : State) (ia id wg part dom : Nat) : State × Bool :=
  if !s.isFarPeer ia then (s, true)
  else match s.peerReqs.find? (fun r => r.id == id) with
    | some r =>
      -- R375: without a usable port the access is held
      if s.anyPort then
        (State.retried { s with peerReqs := s.peerReqs.filter (fun r => r.id != id), peerOpen := [(r.dev, r.tries - 1)] } r wg, true)
      else (s, false)
    | none => ({ s with peerReqs := s.peerReqs ++ [⟨id, iaPeer ia, dom, part, 1, s.clk⟩] }, false)

/-- The same for an access of a thread of `wg`. -/
def State.peerGate (s : State) (ia id wg : Nat) : State × Bool := s.peerGateOf ia id wg (s.wgrp wg).part (s.wgrp wg).dom

/-! ## Releases and acquires (R151, R152, R155, R443) -/

/-- R151, R152, R443: what an acquire at a scope does to its core. -/
def State.acquire (s : State) (core scope : Nat) : State :=
  if scope < 2 || isRhizoid core then s
  else
    let s1 := s.modCore core (fun c => c.applyNotes s.seq)
    let s2 := s1.l1Drop core (fun l => l.pol != 0)
    let s3 := if 4 ≤ scope then
        let c := s2.core core
        let s' := if c.genDev = 15 then s2.l1Drop core (fun l => l.off == 1) else s2
        s'.modCore core (fun c => { c with genDev := (c.genDev + 1) % 16, acqDev := s.clk })
      else s2
    if scope = 5 then
      let c := s3.core core
      let s' := if c.genSys = 15 then s3.l1Drop core (fun l => l.off == 2) else s3
      s'.modCore core (fun c => { c with genSys := (c.genSys + 1) % 16, acqSys := s.clk })
    else s3

/-- R155: post tokens at the endpoints of a scope to which the core has sent stores since its last token there. Die 1's
token to the host goes by the bridge first. -/
def State.postTokens (s : State) (core scope : Nat) : State :=
  let c := s.core core
  let eps := (Tbl.keys c.sent).filter (fun e => scope == 5 || e == 0)
  eps.foldl (fun s e =>
    let c := s.core core
    let n := Tbl.getD c.sent e 0
    if n ≤ Tbl.getD c.lastTok e 0 then s
    else
      let (s1, q) := s.freshSeq
      let toks := (if e == 1 && dieOf core == 1 then [Token.mk 0 (Tbl.getD c.sent 0 0) q s.clk] else []) ++ [Token.mk e n q s.clk]
      s1.modCore core (fun c => { c with tokens := c.tokens ++ toks, lastTok := Tbl.put c.lastTok e n })) s

/-- R436: a logged store of a thread, in its braid's queue before the stamp `seq` or on its way to its home. -/
def State.storeLogged (s : State) (core wg t seq : Nat) : Bool :=
  (s.brd wg ((s.wgrp wg).braidOf t)).storeQ.any (fun e => e.t == t && decide (e.seq < seq) && e.logged.isSome) ||
  (s.core core).wstores.any (fun w => w.wg == wg && w.t == t && w.logged.isSome)

/-- Earlier stores of a thread that are still in its braid's queue. -/
def State.ownQueued (s : State) (wg t seq : Nat) : Bool :=
  (s.brd wg ((s.wgrp wg).braidOf t)).storeQ.any (fun e => e.t == t && decide (e.seq < seq))

/-- R151, R155: what a release at a scope of .cl or wider starts: dirty bytes are written back, and tokens are posted. -/
def State.sendAll (s : State) (core scope : Nat) : State :=
  let s1 := s.writeBackAll core
  if 4 ≤ scope then s1.postTokens core scope else s1

/-- R151, R155: every store of the core before the stamp `start` is performed at its home, and the tokens posted by then are done. -/
def Core.allHome (c : Core) (start scope : Nat) : Bool :=
  c.wstores.all (fun w => decide (start ≤ w.seq)) && (decide (scope < 4) || c.tokens.all (fun k => decide (start ≤ k.seq)))

/-- R151, R206, R436: the release part of memory word `m` at a scope: whether its waits are met, with what it starts. -/
def State.release (s : State) (core wg t : Nat) (m : MOp) (scope : Nat) : State × Bool :=
  if isRhizoid core then (s, !s.ownQueued wg t m.seq)
  else if s.storeLogged core wg t m.seq then (s, false)
  else if scope < 2 then (s, true)
  else if s.coverQueued wg [t] m.seq then (s, false)
  else
    let s1 := if m.posted then s
      else
        let s3 := s.sendAll core scope
        s3.modMop wg t m.seq (fun x => { x with posted := true, dep := s3.seq })
    let start := if m.posted then m.dep else s1.seq
    (s1, (s1.core core).allHome start scope)

/-- R151, R158, R163, R297: a release that no memory word carries goes on. -/
def State.relStep (s : State) (core : Nat) (r : Rel) : State :=
  match r.sent with
  | none =>
    if s.coverQueued r.wg r.ts r.upto || (r.words && s.wordsBefore r.wg r.ts r.upto) then s
    else
      let s1 := s.sendAll core r.scope
      s1.modCore core (fun c => { c with rels := c.rels.map (fun x => if x.id = r.id then { x with sent := some s1.seq } else x) })
  | some q =>
    if (s.core core).allHome q r.scope then s.modCore core (fun c => { c with rels := c.rels.filter (fun x => x.id != r.id) }) else s

/-- The releases of every core go on. -/
def State.relSteps (s : State) : State :=
  s.cores.foldl (fun s c => c.2.rels.foldl (fun s r => s.relStep c.1 r) s) s

/-! ## Atomics (R156, R157, R304, R305, R361) -/

/-- A word whose lanes are performed as one run (R141, R156). -/
def MOp.isAtomic (m : MOp) : Bool :=
  match m.kind with
  | .atom .. => true
  | .atoms .. => true
  | .cntadd _ => true
  | _ => false

/-- R361: the word adds to a counter. -/
def MOp.counts (m : MOp) : Bool :=
  match m.kind with
  | .cntadd _ => true
  | _ => false

def MOp.onScratch (m : MOp) : Bool :=
  match m.kind with
  | .atoms .. => true
  | _ => false

/-- Stores of a braid's queue before `m` to bytes that it names (R147, R305). -/
def queuedBefore (q : List SEntry) (m : MOp) : Bool :=
  q.any (fun e => decide (e.seq < m.seq) && m.site.any e.site.meets)

/-- Stores on their way to their homes that an atomic's location waits for: the core's own, and, of a line homed off the die,
those that the die has shown (R144). -/
def State.homeBound (s : State) (core ia n : Nat) : Bool :=
  ((if homeClass (dieOf core) ia = 0 then (s.core core).wstores else s.diePending (dieOf core))).any
    (fun w => overlaps w.ia w.data.length ia n)

/-- R206: bank commands of a thread before a stamp. -/
def State.bankPending (s : State) (wg t seq : Nat) : Bool :=
  match (s.wgrp wg).stack with
  | none => false
  | some k =>
    let st := s.stack k
    let mine := fun (b : BankCmd) => b.wg == wg && b.dests.any (fun d => d.2.1 == t) && decide (b.seq < seq)
    st.allQ.any mine || st.seqQ.any (fun p => p.2.any mine)

/-- An atomic of one lane may be performed now: its thread's earlier words and stores, the braid's earlier stores to the location,
the stores to it that are on their way, the accesses before it of its cycle, and its release. -/
def State.atomReady (s : State) (core wg t : Nat) (m : MOp) : State × Bool :=
  if !(s.thr wg t).mayPerform m || s.ownQueued wg t m.seq || s.mopHeld wg t m ||
      queuedBefore (s.brd wg ((s.wgrp wg).braidOf t)).storeQ m || (!m.onScratch && s.homeBound core m.ia m.size) ||
      (isRhizoid core && m.counts && s.bankPending wg t m.seq) then (s, false)
  else s.release core wg t m m.scope

/-- R156: an atomic on memory at its home. -/
def State.atomMem (s : State) (core ia n op v cmp : Nat) : Except MErr (State × List Byte × Bool) :=
  match (if isRhizoid core then s.atomicStack ia n op v cmp else s.atomicHome (dieOf core) ia n op v cmp) with
  | .error e => .error e
  | .ok (s1, bs, p) =>
    .ok (s1.modCore core (fun c => { c with l1d := c.l1d.filter (fun l => l.tag != ia / 128) }), bs, p)

/-- R156, R361: perform one lane's atomic. -/
def State.atomPerform (s : State) (core wg t : Nat) (m : MOp) : State :=
  match m.kind with
  | .atom op n d v cmp =>
    match s.atomMem core m.ia n op v cmp with
    | .error e => s.mopError wg t m e
    | .ok (s1, bs, p) =>
      if p then s1.mopPoison wg t m
      else ((s1.acquire core m.scope).deliver wg t m.seq d (loadWords n false bs) 0).dropMop wg t m.seq
  | .cntadd v =>
    match s.atomMem core m.ia 8 0 v 0 with
    | .error e => s.mopError wg t m e
    | .ok (s1, _, p) =>
      if p then (s1.dropMop wg t m.seq).takeFault wg t (m.async s.clk 0x61 m.ia) 0#3 m.pc
      else s1.dropMop wg t m.seq
  | .atoms op d v cmp =>
    if s.scrPoisoned m.core m.addr 4 then
      ((s.releaseRegs wg t d 1).dropMop wg t m.seq).takeFault wg t (m.async s.clk 0x63 (m.va % 2 ^ 19)) 0#3 m.pc
    else
      let bs := s.scrRead m.core m.addr 4
      let s1 := s.scrWrite m.core m.addr (leBytes 4 (atomicNew op 32 (leVal bs) v cmp))
      ((s1.acquire core m.scope).deliver wg t m.seq d (loadWords 4 false bs) 0).dropMop wg t m.seq
  | _ => s

/-- The lanes of one word whose atomics address one location (R141, R305), in the order of R44. -/
def State.atomRun (s : State) (core : Nat) (m : MOp) : List (Nat × Nat × MOp) :=
  let all := s.threads.flatMap (fun p => (p.2.mops.filter (fun e => e.word == m.word && e.isAtomic &&
    (e.kind == m.kind || e.raw == m.raw) && e.core == m.core &&
    (match m.site, e.site with
      | some a, some b => a.meets b
      | _, _ => false))).map (fun e => (p.2.wg, p.2.t, e)))
  let here := all.filter (fun x => (s.wgrp x.1).coreOf x.2.1 == core)
  sortBy (fun x => x.2.2.seq) here

/-- Try the run of one word's atomics on one location: all of them, or none. -/
def State.tryAtoms (s : State) (core : Nat) (m : MOp) : State :=
  let run := s.atomRun core m
  match (s.core core).l1d.find? (fun l => l.tag == m.ia / 128 && !l.dirty.isEmpty && !isRhizoid core && !m.onScratch) with
  | some l => s.l1Drop core (fun x => x.tag == l.tag)
  | none =>
    let (s1, ok) := run.foldl (fun (a : State × Bool) x =>
      let (s', r) := a.1.atomReady core x.1 x.2.1 x.2.2
      (s', a.2 && r)) (s, true)
    if !ok then s1
    else
      let (s2, go) := if m.onScratch then (s1, true)
        else s1.peerGate m.ia (run.headD (0, 0, m)).2.2.seq (run.headD (0, 0, m)).1
      if !go then s2 else (run.foldl (fun s x => s.atomPerform core x.1 x.2.1 x.2.2) s2).gateShut

/-! ## FLUSH (R308, R432) -/

/-- The pages of a range and the IA each begins at, up to the first that a read does not reach. -/
def State.flushPages (s : State) (asid : Nat) : Nat → Nat → List (Nat × Nat)
  | _, 0 => []
  | p, k + 1 =>
    match s.checkVa asid (p * 65536) 1 .read with
    | .error _ => []
    | .ok (ia, _) => (p, ia) :: State.flushPages s asid (p + 1) k

/-- R308: an L1 line lies in the range. -/
def inFlush (pages : List (Nat × Nat)) (va n : Nat) (l : Line) : Bool :=
  pages.any (fun p => decide (p.2 ≤ l.tag * 128) && decide (l.tag * 128 < p.2 + 65536) &&
    overlaps (p.1 * 65536 + (l.tag * 128 - p.2)) 128 va n)

/-! ## Completion of memory words -/

/-- The whole order of a rhizoid thread (R206): its earlier stores come first; and (R147, R436) a logged store of its braid whose
bytes it names. -/
def State.rhizoidHeld (s : State) (core wg t : Nat) (m : MOp) : Bool :=
  isRhizoid core && (s.ownQueued wg t m.seq ||
    (s.brd wg ((s.wgrp wg).braidOf t)).storeQ.any (fun e => e.logged.isSome && decide (e.seq < m.seq) && m.site.any e.site.meets))

/-- R436: the braid's stores on their way to their homes that a translator refused, of which a store of the braid or a load of
their bytes waits. -/
def State.braidLogged (s : State) (core wg b : Nat) : List WStore :=
  (s.core core).wstores.filter (fun w => w.logged.isSome && w.wg == wg && (s.wgrp wg).braidOf w.t == b)

/-- What a read of memory by a thread gives: it waits; its bytes, whether they are poisoned, the notification they depend on, and
the stamp of the store they come from. -/
inductive Got where
  | wait
  | bytes (bs : List Byte) (poison : Bool) (dep fwd : Nat)
  deriving DecidableEq, Repr

/-- R143 to R150, R206, R375, R436: a thread reads `n` bytes for the memory word `m`: after its own earlier stores and what its cycle puts
before it, from its braid's queue, or by its core once the notifications before the value that the address depends on are
applied. -/
def State.threadRead (s : State) (core wg t : Nat) (m : MOp) (n : Nat) : Except MErr (State × Got) :=
  let b := (s.wgrp wg).braidOf t
  if s.rhizoidHeld core wg t m || s.mopHeld wg t m ||
      (isAlias m.ia && (s.core core).wstores.any (fun w => overlaps w.ia w.data.length m.ia n)) ||
      (s.braidLogged core wg b).any (fun w => overlaps w.ia w.data.length m.ia n) then .ok (s, .wait)
  else match forwarded (s.brd wg b).storeQ false core m.ia n m.seq with
  | some none => .ok (s, .wait)
  | some (some (bs, q)) => .ok (s, .bytes bs false m.dep q)
  | none =>
    let (s0, go) := s.peerGate m.ia m.seq wg
    if !go then .ok (s0, .wait)
    else match (s0.modCore core (fun c => c.applyNotes m.dep)).coreLoad core m.ia n m.pol m.hint with
      | .error e => .error e
      | .ok (s2, bs, p, dep) => .ok (s2.gateShut, .bytes bs p (max dep m.dep) 0)

/-- R151: the thread has taken the bytes of a queued store. -/
def State.observe (s : State) (wg t q : Nat) : State := s.modThr wg t (fun x => { x with fwd := max x.fwd q })

/-- R300: a load is performed. -/
def State.tryLoad (s : State) (core wg t : Nat) (m : MOp) (d n : Nat) (signed : Bool) : State :=
  match s.threadRead core wg t m n with
  | .error e => s.mopError wg t m e
  | .ok (s1, .wait) => s1
  | .ok (s1, .bytes bs p dep q) =>
    if p then s1.mopPoison wg t m
    else ((s1.deliver wg t m.seq d (loadWords n signed bs) dep).observe wg t q).dropMop wg t m.seq

/-- R303: a PREFETCH is performed: its whole line is brought where its hint allocates; an error leaves nothing. -/
def State.tryPrefetch (s : State) (core wg t : Nat) (m : MOp) : State :=
  if isAlias m.ia then s.dropMop wg t m.seq
  else if s.mopHeld wg t m then s
  else
    let (s0, go) := s.peerGate m.ia m.seq wg
    let whole := !isRhizoid core
    if !go then s0
    else match s0.coreLoad core (if whole then m.ia / 128 * 128 else m.ia) (if whole then 128 else 1) m.pol m.hint with
      | .error _ => s0.gateShut.dropMop wg t m.seq
      | .ok (s1, _, _, _) => s1.gateShut.dropMop wg t m.seq

/-- R302: a scratchpad load is performed. -/
def State.tryLds (s : State) (wg t : Nat) (m : MOp) (d n : Nat) : State :=
  let q := (s.brd wg ((s.wgrp wg).braidOf t)).storeQ
  if s.mopHeld wg t m then s
  else match forwarded q true m.core m.addr n m.seq with
  | some none => s
  | some (some (bs, q)) => ((s.deliver wg t m.seq d (loadWords n false bs) 0).observe wg t q).dropMop wg t m.seq
  | none =>
    if s.scrPoisoned m.core m.addr n then
      ((s.releaseRegs wg t d (n / 4)).dropMop wg t m.seq).takeFault wg t (m.async s.clk 0x63 (m.va % 2 ^ 19)) 0#3 m.pc
    else (s.deliver wg t m.seq d (loadWords n false (s.scrRead m.core m.addr n)) 0).dropMop wg t m.seq

/-- R150: a load of the braid of a thread before the stamp `seq` has not returned. -/
def State.braidLoading (s : State) (wg t seq : Nat) : Bool :=
  let g := s.wgrp wg
  (s.threadsOf wg).any (fun u => g.braidOf u.t == g.braidOf t && u.mops.any (fun e => e.kind.isLoad && decide (e.seq < seq)))

/-- R150: the greatest dependence of the loads of a thread's braid. -/
def State.braidDep (s : State) (wg t : Nat) : Nat :=
  let g := s.wgrp wg
  ((s.threadsOf wg).filter (fun u => g.braidOf u.t == g.braidOf t)).foldl (fun d u => max d (Tbl.getD u.dep depAll 0)) 0

/-- R150, R306: the thread's fences before the word `m` that are not complete; each, at whatever scope, restores dependences. -/
def State.fencesBefore (s : State) (wg t : Nat) (m : MOp) : List MOp :=
  (s.thr wg t).mops.filter (fun e => decide (e.seq < m.seq) && (match e.kind with | .fence _ => true | _ => false))

/-- R150, R151, R306: a fence of kind 0 acquire, 1 release, 2 full; those of several lanes of one word in the order of R141. -/
def State.tryFence (s : State) (core wg t : Nat) (m : MOp) (kind : Nat) : State :=
  let g := s.wgrp wg
  let b := g.braidOf t
  let earlier := s.braidLoading wg t m.seq ||
    s.threads.any (fun x => x.2.mops.any (fun e => e.word == m.word && e.kind == m.kind && decide (e.seq < m.seq)))
  let queue := (s.brd wg b).storeQ.any (fun e => decide (e.seq < m.seq))
  if earlier || (kind == 2 && queue) || s.storeLogged core wg t m.seq ||
      (isRhizoid core && (s.bankPending wg t m.seq || s.ownQueued wg t m.seq)) then s
  else
    let (s1, ok) := if kind == 0 then (s, true) else s.release core wg t m m.scope
    if !ok then s1
    else
      let s2 := s1.modCore core (fun c => c.applyNotes (s1.braidDep wg t))
      let s3 := if kind == 1 then s2 else s2.acquire core m.scope
      s3.dropMop wg t m.seq

/-- R308: FLUSH writes back and drops, then waits for its write-backs. -/
def State.tryFlush (s : State) (core wg t : Nat) (m : MOp) (n : Nat) : State :=
  let g := s.wgrp wg
  let q := (s.brd wg (g.braidOf t)).storeQ
  if q.any (fun e => !e.scratch && decide (e.seq < m.seq) && overlaps e.va e.data.length m.va n) then s
  else
    let pages := s.flushPages m.asid (m.va / 65536) ((m.va + n - 1) / 65536 - m.va / 65536 + 1)
    let s1 := if m.posted then s
      else
        let s' := s.l1Drop core (inFlush pages m.va n)
        s'.modMop wg t m.seq (fun x => { x with posted := true, dep := s'.seq })
    let start := if m.posted then m.dep else s1.seq
    if (s1.core core).wstores.any (fun w => decide (w.seq < start) && pages.any (fun p => overlaps w.ia w.data.length p.2 65536)) then s1
    else s1.dropMop wg t m.seq

/-- The wait that a thread is in, or that it holds in the handler (R401). -/
def Thread.waitNow (x : Thread) : Wait :=
  match x.held with
  | some h => if x.wait = Wait.ready then h.wait else x.wait
  | none => x.wait

/-- R264, R429, R451: the counter had not reached its target: cause 0x48, with every other word of the packet done, so that the return
executes the WAITP alone. -/
def State.missPromise (s : State) (wg t : Nat) (m : MOp) (c : Nat) : State :=
  (s.modThr wg t (fun y => { y with wait := .ready })).takeFault wg t (m.async s.clk 0x48 c) (s.thr wg t).waitAt.2 m.pc

/-- R263, R264, R451: what a waiting thread does with the value of its counter: it resumes with the acquire, goes on waiting, or
misses. -/
def State.waitValue (s : State) (core wg t : Nat) (m : MOp) (once : Bool) (c : Nat) : State :=
  let w := (s.thr wg t).waitNow
  match w with
  | .waitge va target scope _ =>
    if target ≤ c then ((s.acquire core scope).modThr wg t (fun y => y.release w s.clk))
    else
      let w' := Wait.waitge va target scope (some s.clk)
      s.modThr wg t (fun y => if y.wait = w then { y with wait := w' } else
        { y with held := y.held.map (fun h => { h with wait := w' }) })
  | .waitp _ _ target scope =>
    if target ≤ c then ((s.acquire core scope).modThr wg t (fun y => y.release w s.clk))
    else if once then s.missPromise wg t m c
    else s
  | _ => s

/-- R263, R264, R451, R481: the read of a counter by a waiting thread. -/
def State.tryWaitRead (s : State) (core wg t : Nat) (m : MOp) (once : Bool) : State :=
  if s.peerRefused m.ia 8 s.draws .read then State.mopError { s with draws := s.draws + 1 } wg t m .refused
  else match s.threadRead core wg t m 8 with
    | .error e => s.mopError wg t m e
    | .ok (s1, .wait) => s1
    | .ok (s1, .bytes bs p _ q) =>
      let s2 := (s1.observe wg t q).dropMop wg t m.seq
      if p then s2.takeFault wg t (m.async s.clk 0x60 m.va) 0#3 m.pc
      else s2.waitValue core wg t m once (leVal bs)

/-- R363: a write of a privileged register follows a release at .dev; after a command, the thread waits until its register
reads 0. -/
def State.trySyswr (s : State) (core wg t : Nat) (m : MOp) (n v : Nat) (started : Bool) : State :=
  let who := Who.part (s.wgrp wg).part
  if started then (if s.sysRead who n = some 1 then s else s.dropMop wg t m.seq)
  else
    let (s1, ok) := s.release core wg t m 4
    if !ok then s1
    else if sysCommand n then (s1.sysWrite who n v).modMop wg t m.seq (fun x => { x with kind := .syswr n v true })
    else (s1.sysWrite who n v).dropMop wg t m.seq

/-- The core that a thread's memory words belong to. -/
def State.coreOfThread (s : State) (wg t : Nat) : Nat := (s.wgrp wg).coreOf t

/-- Perform a pending memory word where it may be performed now; otherwise it stays (LOAD_RETURN). R150, R306: a load that passes a fence of
its thread depends on every load of its braid before the fence. -/
def State.tryMop (s : State) (wg t : Nat) (m : MOp) : State :=
  let core := s.coreOfThread wg t
  let fences := s.fencesBefore wg t m
  if !(s.thr wg t).mayPerform m || fences.any (fun e => s.braidLoading wg t e.seq) then s
  else match m.kind with
    | .load d n sg => s.tryLoad core wg t (if fences.isEmpty then m else { m with dep := max m.dep (s.braidDep wg t) }) d n sg
    | .lds d n => s.tryLds wg t m d n
    | .atom .. => s.tryAtoms core m
    | .atoms .. => s.tryAtoms core m
    | .cntadd _ => s.tryAtoms core m
    | .prefetch => s.tryPrefetch core wg t m
    | .fence k => s.tryFence core wg t m k
    | .flush n => s.tryFlush core wg t m n
    | .waitRead once => s.tryWaitRead core wg t m once
    | .syswr n v started => s.trySyswr core wg t m n v started

/-- The pending memory word of a thread with a stamp. -/
def State.mopOf (s : State) (wg t seq : Nat) : Option MOp := (s.thr wg t).mops.find? (fun m => m.seq == seq)

/-- Try a memory word by its stamp. -/
def State.trySeq (s : State) (wg t seq : Nat) : State :=
  match s.mopOf wg t seq with
  | some m => s.tryMop wg t m
  | none => s

/-! ## Stores leave the queue (R146, R148) and are performed at home (R149, R155) -/

/-- R435: the page that an access of a core finds not resident: translator, page, and whether it was evicted. A sector that the L2 holds meets
no translator, but for a rhizoid core (R206). -/
def State.absentAt (s : State) (core ia : Nat) (write : Bool) : Option (Nat × Nat × Bool) :=
  match s.ownIa ia write with
  | .error (.notRes tr page ev) => some (tr, page, ev)
  | .error _ => none
  | .ok (s1, a) =>
    if !isRhizoid core && s1.l2Has (homeIa a) && homedHere a && !(write && isAlias a) then none
    else match s1.resolve a write with
      | .error (.notRes tr page ev) => some (tr, page, ev)
      | _ => none

/-- R435: the translator that refuses an access of a core of a main die now, if one does. -/
def State.refusedBy (s : State) (ia : Nat) (write : Bool) : Option Nat := (s.absentAt 0 ia write).map Prod.fst

/-- R148: a store to a software-managed line stays in the L1 as dirty bytes. -/
def State.l1Store (s : State) (core : Nat) (own : Nat × Nat) (e : SEntry) : State :=
  let (s1, now) := s.freshSeq
  let c := s.core core
  let tag := e.ia / 128
  let off := homeClass (dieOf core) e.ia
  let l0 := match findLine tag c.l1d with
    | some l => if l.live c s.clk then l else { l with data := l.data.filter (fun p => l.dirty.contains p.1) }
    | none => ⟨tag, [], [], e.pol, 0, now, c.gen off, s.clk + Config.leaseCc, s.clk, off, [], (0, 0)⟩
  let l1 := { l0.overlay e.ia e.data with
    dirty := (l0.dirty ++ rangeFrom (e.ia % 128) e.data.length).eraseDups, pol := e.pol, cls := hintClass e.hint,
    used := now, gen := c.gen off, own := own }
  s1.l1Place core l1

/-- R148, R149: a store that is written through updates the core's own copy and, for a line homed off the die, the die's L2
copy, a coherent one with its notification; then it goes to its home. -/
def State.throughStore (s : State) (core wg : Nat) (e : SEntry) : State :=
  let die := dieOf core
  let tag := e.ia / 128
  let (s0, now) := s.freshSeq
  let up := fun (l : Line) => if l.tag = tag ∧ isAlias e.ia = false then l.overlay e.ia e.data else l
  let s1 := s0.modCore core (fun c => { c with l1d := (touchLine 128 8 tag (hintClass e.hint) now c.l1d).map up })
  let s2 := if homeClass die e.ia = 0 then s1
    else
      let s' := (s1.l2Update die e.ia e.data).modDie die (fun d => { d with l2 := touchLine 49152 16 tag (hintClass e.hint) now d.l2 })
      if e.pol = 0 then s'.notify die tag else s'
  s2.toHome core (e.leaving wg)

/-- R401, R430: an asynchronous fault of a store of a thread; of a store of a trap frame, the workgroup ends with cause 0x1B, and INFO
holds the store's cause and the cause of the entry. -/
def State.storeFault (s : State) (wg t : Nat) (trap : Option Nat) (a : Async) : State :=
  match trap with
  | none => s.raiseAsync wg t a
  | some c => s.raiseFatal wg ⟨0x1B, a.cause + c * 2 ^ 8, t, a.pc, a.raw, a.clk⟩

/-- R431, R434, R461: cause and INFO of a store's fault at its home. -/
def State.storeError (s : State) (wg : Nat) (w : WStore) : MErr → State
  | .region cause info => s.takeFault wg w.t ⟨cause, info, w.pc, w.raw, w.wpos, s.clk⟩ 0#3 w.pc
  | .refused => s.storeFault wg w.t w.trap ⟨0x69, w.va, w.pc, w.raw, w.wpos, s.clk⟩
  | .notRes .. => s
  | .held _ => s

/-- R438: a replayed store meets a page that is not resident again, or no range. -/
def State.storeLost (s : State) (wg : Nat) (w : WStore) : State :=
  s.storeFault wg w.t w.trap ⟨0x4A, w.va, w.pc, w.raw, w.wpos, s.clk⟩

/-- R44, R141, R151, R158, R436: the head of a braid's queue waits for what comes before it: in its cycle, a release, or a store
of its braid that a translator refused. -/
def State.storeHeld (s : State) (wg b : Nat) (e : SEntry) : Bool :=
  let core := s.coreOfThread wg e.t
  s.cycleHeld e.grp e.seq 0 (bkey wg b) e.site || s.relHeld core wg e.t e.seq || !(s.braidLogged core wg b).isEmpty

/-- R145, R148: a store stays in the L1: its line is software-managed, and its hint allocates or the line is there. A reduction write never
does: each is one add (R214); nor does a store of a core that does not cache the line yet (R369). -/
def State.staysInL1 (s : State) (core : Nat) (e : SEntry) : Bool :=
  e.pol != 0 && !isAlias e.ia &&
    ((findLine (e.ia / 128) (s.core core).l1d).isSome || (e.hint != 3 && !s.uncached core e.ia))

/-- The head of a braid's store queue leaves it, where it may (STORE_DRAIN). -/
def State.drainHead (s : State) (wg b : Nat) : State :=
  match (s.brd wg b).storeQ with
  | [] => s
  | e :: r =>
    let core := s.coreOfThread wg e.t
    if e.logged.isSome || !(s.thr wg e.t).mayDrain e || s.storeHeld wg b e then s
    else
      let pop := fun (s : State) => s.modBrd wg b (fun x => { x with storeQ := r })
      if e.scratch then (pop s).scrWrite e.core e.addr e.data
      else if isRhizoid core then
        match s.stackWrite e.ia e.data e.hint with
        | .ok s1 => pop s1
        | .error (.notRes tr _ _) =>
          if e.replay then (pop s).storeLost wg (e.leaving wg) else s.due (.event (.pageNotResident tr e.seq))
        | .error x => (pop s).storeError wg (e.leaving wg) x
      else if s.staysInL1 core e then (pop s).l1Store core ((s.wgrp wg).part, (s.wgrp wg).dom) e
      else match s.refusedBy e.ia true with
        | some tr =>
          if e.replay then (pop s).storeLost wg (e.leaving wg) else s.due (.event (.pageNotResident tr e.seq))
        | none => (pop s).throughStore core wg e

/-- R375: two writes go to one 4 KiB granule of one peer. -/
def sameGranule (a b : Nat) : Bool := iaIsPeer a && iaIsPeer b && a / 4096 == b / 4096

/-- A store may be performed at its home: no earlier store of the core to its bytes, or, of a line homed off the die, of any core of
the die (R144); none of the core to its granule of a peer (R375); and no token that it must wait behind. -/
def State.mayHome (s : State) (core : Nat) (w : WStore) : Bool :=
  let c := s.core core
  let die := dieOf core
  w.logged.isNone &&
  c.wstores.all (fun x => decide (w.seq ≤ x.seq) || !(overlaps x.ia x.data.length w.ia w.data.length || sameGranule x.ia w.ia)) &&
  (homeClass die w.ia == 0 || (s.diePending die).all (fun x => decide (w.seq ≤ x.seq) || !overlaps x.ia x.data.length w.ia w.data.length)) &&
  c.tokens.all (fun k => decide (w.seq < k.seq))

/-- The partition and domain that a store on its way belongs to: its thread's, or those of the workgroup whose bytes it writes back (DESIGN CHOICE,
log entry 98: of the last that stored into the line). -/
def State.storeOwner (s : State) (w : WStore) : Nat × Nat := if w.wg = 0 then w.own else ((s.wgrp w.wg).part, (s.wgrp w.wg).dom)

/-- R456, R458: a write-back that a lost peer or the host fails makes its domain region-fatal; one that a target refuses is dropped. -/
def State.backError (s : State) (w : WStore) : MErr → State
  | .region cause info => s.raiseRegion w.own.1 w.own.2 0 ⟨cause, info, 0, 0, 0#32, s.clk⟩
  | _ => s

/-- R149, R155: a store of a core is performed at its home (STORE_PERFORM_HOME, REDUCTION_ADD). A write-back whose page is not
resident is held (R435). -/
def State.performHome (s : State) (core : Nat) (w : WStore) : State :=
  let die := dieOf core
  if !s.mayHome core w then s
  else
    let own := s.storeOwner w
    let (s0, go) := s.peerGateOf w.ia w.seq w.wg own.1 own.2
    if !go then s0
    else
      let pop := fun (s : State) => s.gateShut.modCore core (fun c => { c with
        wstores := c.wstores.filter (fun x => x.seq != w.seq),
        performed := match endpointOf die w.ia with
          | some e => Tbl.put c.performed e (Tbl.getD c.performed e 0 + 1)
          | none => c.performed })
      match s0.homePut die w.ia w.data w.hint w.pol true with
      | .ok s1 => pop s1
      | .error (.notRes tr _ _) =>
        if w.wg = 0 then s0
        else if w.replay then (pop s0).storeLost w.wg w
        else s0.due (.event (.pageNotResident tr w.seq))
      | .error (.held _) => s0.gateShut
      | .error e => if w.wg = 0 then (pop s0).backError w e else (pop s0).storeError w.wg w e

/-- A store goes to a peer. -/
def WStore.toPeer (w : WStore) (d : Nat) : Bool := iaIsPeer w.ia && iaPeer w.ia == d

/-- R456: the stores of a core that are on their way to a lost peer are dropped, and their domains are region-fatal. -/
def State.dropStores (s : State) (core d : Nat) : State :=
  let gone := (s.core core).wstores.filter (fun w => w.toPeer d)
  if gone.isEmpty then s
  else
    let s1 := s.modCore core (fun c => { c with
      wstores := c.wstores.filter (fun w => !w.toPeer d),
      performed := Tbl.put c.performed (2 + d) (Tbl.getD c.performed (2 + d) 0 + gone.length) })
    gone.foldl (fun s w => if w.wg = 0 then s.backError w (.region 0x68 d) else s.storeError w.wg w (.region 0x68 d)) s1

/-- R155, R456: a token of a core completes where its endpoint has seen the stores it counts; the token of a lost peer completes at once,
and the stores held behind it are dropped. -/
def State.completeToken (s : State) (core : Nat) (k : Token) : State :=
  let c := s.core core
  let first := c.tokens.all (fun x => !(x.seq == k.seq && x.endpoint == 0 && k.endpoint == 1))
  let lost := decide (2 ≤ k.endpoint) && s.lost.contains (k.endpoint - 2)
  if (first && decide (k.count ≤ Tbl.getD c.performed k.endpoint 0)) || lost then
    let s1 := s.modCore core (fun c => { c with tokens := c.tokens.filter (fun x => !(x == k)) })
    if lost then s1.dropStores core (k.endpoint - 2) else s1
  else s

/-! ## The events of the memory path -/

/-- LOAD_RETURN (R143, R300, R304, R306, R308, R361): a pending memory word of a thread is performed. -/
def execLoadReturn (wg t seq : Nat) (s : State) : Res := .next (s.trySeq wg t seq)

/-- STORE_DRAIN (R146). -/
def execStoreDrain (wg b : Nat) (s : State) : Res := .next (s.drainHead wg b)

/-- STORE_PERFORM_HOME (R149). -/
def execStorePerformHome (core idx : Nat) (s : State) : Res :=
  .next (match (s.core core).wstores[idx]? with
    | some w => if isAlias w.ia then s else s.performHome core w
    | none => s)

/-- FENCE_TOKEN (R155). -/
def execFenceToken (core idx : Nat) (s : State) : Res :=
  .next (match (s.core core).tokens[idx]? with
    | some k => s.completeToken core k
    | none => s)

/-- The access with a stamp that meets a page not resident: its workgroup, thread and IA. -/
def State.findAccess (s : State) (seq : Nat) : Option (Nat × Nat × Nat × Bool) :=
  match s.threads.findSome? (fun p => (p.2.mops.find? (fun m => m.seq == seq)).map (fun m =>
      (p.2.wg, p.2.t, m.ia, (match m.kind with | .load .. => false | .waitRead _ => false | _ => true)))) with
  | some x => some x
  | none =>
    match s.braids.findSome? (fun p => (p.2.storeQ.find? (fun e => e.seq == seq)).map (fun e => (p.2.wg, e.t, e.ia, true))) with
    | some x => some x
    | none => s.cores.findSome? (fun p => (p.2.wstores.find? (fun w => w.seq == seq)).map (fun w => (w.wg, w.t, w.ia, true)))

/-- R436, R437: mark the access as logged, at the end of the log. -/
def State.markLogged (s : State) (seq tr : Nat) : State :=
  let (s1, q) := s.freshSeq
  { s1 with
    threads := s1.threads.map (fun p => (p.1, { p.2 with
      mops := p.2.mops.map (fun m => if m.seq = seq then { m with logged := some tr, lseq := q } else m) })),
    braids := s1.braids.map (fun p => (p.1, { p.2 with
      storeQ := p.2.storeQ.map (fun e => if e.seq = seq then { e with logged := some tr, lseq := q } else e) })),
    cores := s1.cores.map (fun p => (p.1, { p.2 with
      wstores := p.2.wstores.map (fun w => if w.seq = seq then { w with logged := some tr, lseq := q } else w) })) }

/-- PAGE_NOT_RESIDENT (R435, R436): the access is logged at its core and the record written. -/
def execPageNotResident (tr seq : Nat) (s : State) : Res :=
  .next (match s.findAccess seq with
    | none => s
    | some (wg, t, ia, write) =>
      let g := s.wgrp wg
      let core := g.coreOf t
      let cap := if isRhizoid core then 16 else 32
      if cap ≤ s.logCount core then s
      else match s.absentAt core ia write with
        | some (_, page, ev) =>
          (s.markLogged seq tr).reportPage g.part g.dom tr page ev (s.threadReport 0 0x40 0 wg t (s.thr wg t).pc 0)
        | none => s)

/-! ## Replay (R437, R438) -/

/-- R437: a logged memory word of a thread is tried again from its VA. -/
def State.replayMop (s : State) (wg t : Nat) (m : MOp) : State :=
  match m.kind with
  | .atoms .. => s
  | .lds .. => s
  | .fence _ => s
  | .syswr .. => s
  | _ =>
    let k := match m.kind with
      | .atom .. => Access.atomic
      | .cntadd _ => Access.atomic
      | _ => Access.read
    match s.vaIaOf wg m.asid m.va m.size k with
    | .error _ => ((s.dropMop wg t m.seq).releaseRegs wg t m.dests.1 m.dests.2).raiseAsync wg t (m.async s.clk 0x4A m.va)
    | .ok (ia, pol) =>
      (s.modMop wg t m.seq (fun x => { x with ia := ia, pol := pol, logged := none, replay := true })).trySeq wg t m.seq

/-- R437: a logged store at the head of its braid's queue. -/
def State.replayStore (s : State) (b : Nat) (wg : Nat) (e : SEntry) : State :=
  match s.vaIaOf wg e.asid e.va e.data.length .write with
  | .error _ =>
    (s.modBrd wg b (fun x => { x with storeQ := x.storeQ.filter (fun y => y.seq != e.seq) })).storeLost wg (e.leaving wg)
  | .ok (ia, pol) =>
    let s1 := s.modBrd wg b (fun x => { x with
      storeQ := x.storeQ.map (fun y => if y.seq = e.seq then { y with ia := ia, pol := pol, logged := none, replay := true } else y) })
    if ((s1.brd wg b).storeQ.head?.map SEntry.seq) = some e.seq then s1.drainHead wg b else s1

/-- R437: a logged store of a thread that has left its queue. -/
def State.replayHome (s : State) (core : Nat) (w : WStore) : State :=
  match s.vaIaOf w.wg w.asid w.va w.data.length .write with
  | .error _ =>
    (s.modCore core (fun c => { c with wstores := c.wstores.filter (fun x => x.seq != w.seq) })).storeLost w.wg w
  | .ok (ia, pol) =>
    let w' := { w with ia := ia, pol := pol, logged := none, replay := true }
    (s.modCore core (fun c => { c with wstores := c.wstores.map (fun x => if x.seq = w.seq then w' else x) })).performHome core w'

/-- R436: an entry of a core's log. -/
inductive Logged where
  | mop (wg t : Nat) (m : MOp)
  | store (wg b : Nat) (e : SEntry)
  | home (core : Nat) (w : WStore)
  deriving DecidableEq, Repr

def Logged.place : Logged → Nat
  | .mop _ _ m => m.lseq
  | .store _ _ e => e.lseq
  | .home _ w => w.lseq

def State.replayOne (s : State) : Logged → State
  | .mop wg t m => s.replayMop wg t m
  | .store wg b e => s.replayStore b wg e
  | .home core w => s.replayHome core w

/-- R437: what translator `tr` refused, in log order. -/
def State.logOf (s : State) (tr : Nat) : List Logged :=
  sortBy Logged.place (
    s.threads.flatMap (fun p => (p.2.mops.filter (fun m => m.logged == some tr)).map (fun m => Logged.mop p.2.wg p.2.t m)) ++
    s.braids.flatMap (fun p => (p.2.storeQ.filter (fun e => e.logged == some tr)).map (fun e => Logged.store p.2.wg p.2.idx e)) ++
    s.cores.flatMap (fun p => (p.2.wstores.filter (fun w => w.logged == some tr)).map (fun w => Logged.home p.1 w)))

/-- R437: the write-backs that a stack's translator holds are released. -/
def State.releaseBacks (s : State) (k : Nat) : State :=
  (s.heldBacks.filter (fun x => iaStack x.ia == k)).foldl State.backOut { s with heldBacks := s.heldBacks.filter (fun x => iaStack x.ia != k) }

/-- R437: after a translator's log, the write-backs, increments and requests that it held. -/
def State.replayRest (s : State) (tr : Nat) : State :=
  let s := if tr < 8 then s.releaseBacks tr else s
  let held := s.heldAdds.filter (fun h => h.tr == tr)
  let s4 := held.foldl State.addAgain { s with heldAdds := s.heldAdds.filter (fun h => h.tr != tr) }
  { s4 with
    reqs := s4.reqs.map (fun p => (p.1, if p.2.waiting = some tr then { p.2 with waiting := none, replay := true } else p.2)),
    parts := s4.parts.map (fun p => (p.1, { p.2 with services := p.2.services.filter (fun x => x.1 != tr) })) }

/-- R437: replay every access that translator `tr` refused, in log order; then the held increments and the waiting requests. -/
def State.replayAll (s : State) (tr : Nat) : State := ((s.logOf tr).foldl State.replayOne s).replayRest tr

end Sys2Proof.Machine
end

