-- ==== Sys2Proof/Machine/Forms.lean ====
section
/-! DEFINITION. The operand fields of every word: what each names (R219, R226 to R236, R339, R415), the predicates it reads
or writes, and what the scoreboard holds a packet for (R223). -/

namespace Sys2Proof.Machine

/-- R362, R364: a system register of 64 bits. -/
def sysWide (n : Nat) : Bool :=
  n == 0x08 || n == 0x09 || n == 0x0D || n == 0x41 || n == 0x44 || n == 0x80 || n == 0x81 ||
  (decide (0x1000 ≤ n) && decide (n < 0x1080) && [0, 1, 2, 3, 6, 8, 10, 12].contains (n % 16)) ||
  n == 0x1101 || n == 0x1102 || n == 0x1103 ||
  (decide (0x1200 ≤ n) && decide (n < 0x1240) && [0, 2, 4, 5].contains (n % 8)) ||
  n == 0x1240 || n == 0x1242 || n == 0x1244 || (decide (0x1301 ≤ n) && decide (n ≤ 0x1308)) || dieWide n
where
  /-- R477: the 64-bit registers of a power controller, at 0x3000 + 0x80 d. -/
  dieWide (n : Nat) : Bool := decide (0x3000 ≤ n) && decide (n ≤ 0x30FF) && [6, 7, 16, 17].contains (n % 128)

end Sys2Proof.Machine

namespace Sys2Proof
open Machine

/-- What each field of a word names. -/
def Instr.opns : Instr → List Opn
  | .nop _ => []
  | .br _ _ => []
  | .call _ _ => [.pair 6#7]
  | .brm _ _ => []
  | .jmpr _ o => [.pair o.a]
  | .callr _ o => [.pair o.a, .pair o.d]
  | .exit _ => []
  | .lit32 _ o => [.gen o.d]
  | .trap _ _ => []
  | .yieldTurn _ => []
  | .hset _ o => [if o.hitch.toNat < 12 then .pair o.a else .gen o.a]
  | .rejoin _ _ => []
  | .bar _ => []
  | .sleep _ o => [.gen o.a]
  | .waitge _ o => [.quad o.a]
  | .waitp _ o => [.pair o.d, .quad o.a]
  | .iadd _ o => [.src o.a, .src o.b, .dst o.n o.d]
  | .isub _ o => [.src o.a, .src o.b, .dst o.n o.d]
  | .imul _ o => [.src o.a, .src o.b, .dst o.n o.d]
  | .imulhiI _ o => [.src o.a, .src o.b, .dst o.n o.d]
  | .imulhiN _ o => [.src o.a, .src o.b, .dst o.n o.d]
  | .imad _ o => [.src o.a, .src o.b, .gen o.d]
  | .iminI _ o => [.src o.a, .src o.b, .dst o.n o.d]
  | .imaxI _ o => [.src o.a, .src o.b, .dst o.n o.d]
  | .iminN _ o => [.src o.a, .src o.b, .dst o.n o.d]
  | .imaxN _ o => [.src o.a, .src o.b, .dst o.n o.d]
  | .land _ o => [.src o.a, .src o.b, .dst o.n o.d]
  | .lor _ o => [.src o.a, .src o.b, .dst o.n o.d]
  | .lxor _ o => [.src o.a, .src o.b, .dst o.n o.d]
  | .shl _ o => [.src o.a, .src o.b, .dst o.n o.d]
  | .shr _ o => [.src o.a, .src o.b, .dst o.n o.d]
  | .sar _ o => [.src o.a, .src o.b, .dst o.n o.d]
  | .iaddi _ o => [.src o.a, .dst o.n o.d]
  | .andi _ o => [.src o.a, .dst o.n o.d]
  | .ori _ o => [.src o.a, .dst o.n o.d]
  | .xori _ o => [.src o.a, .dst o.n o.d]
  | .shli _ o => [.src o.a, .dst o.n o.d]
  | .shri _ o => [.src o.a, .dst o.n o.d]
  | .sari _ o => [.src o.a, .dst o.n o.d]
  | .movi _ o => [.dst o.n o.d]
  | .iadd64 _ o => [.pair o.a, .pair o.b, .dpair o.n o.d]
  | .addx64 _ o => [.pair o.a, .src o.b, .dpair o.n o.d]
  | .isetpI _ o => [.src o.a, .src o.b]
  | .isetpN _ o => [.src o.a, .src o.b]
  | .sel _ o => [.src o.a, .src o.b, .dst o.n o.d]
  | .plop _ _ => []
  | .p2v _ o => [.dst o.n o.d]
  | .v2p _ o => [.src o.a]
  | .popc _ o => [.src o.a, .dst o.n o.d]
  | .clz _ o => [.src o.a, .dst o.n o.d]
  | .brev _ o => [.src o.a, .dst o.n o.d]
  | .ctz _ o => [.src o.a, .dst o.n o.d]
  | .lnot _ o => [.src o.a, .dst o.n o.d]
  | .neg _ o => [.src o.a, .dst o.n o.d]
  | .abs _ o => [.src o.a, .dst o.n o.d]
  | .bswz _ o => [.src o.a, .src o.b, .gen o.d]
  | .fadd _ o => [.src o.a, .src o.b, .dst o.n o.d]
  | .fsub _ o => [.src o.a, .src o.b, .dst o.n o.d]
  | .fmul _ o => [.src o.a, .src o.b, .dst o.n o.d]
  | .ffma _ o => [.src o.a, .src o.b, .gen o.d]
  | .fmin _ o => [.src o.a, .src o.b, .dst o.n o.d]
  | .fmax _ o => [.src o.a, .src o.b, .dst o.n o.d]
  | .fdiv _ o => [.src o.a, .src o.b, .dst o.n o.d]
  | .fsetp _ o => [.src o.a, .src o.b]
  | .fabs _ o => [.src o.a, .dst o.n o.d]
  | .fneg _ o => [.src o.a, .dst o.n o.d]
  | .ffloor _ o => [.src o.a, .dst o.n o.d]
  | .fceil _ o => [.src o.a, .dst o.n o.d]
  | .ftrunc _ o => [.src o.a, .dst o.n o.d]
  | .frint _ o => [.src o.a, .dst o.n o.d]
  | .hadd2Bf16 _ o => [.src o.a, .src o.b, .dst o.n o.d]
  | .hadd2F16 _ o => [.src o.a, .src o.b, .dst o.n o.d]
  | .hmul2Bf16 _ o => [.src o.a, .src o.b, .dst o.n o.d]
  | .hmul2F16 _ o => [.src o.a, .src o.b, .dst o.n o.d]
  | .hfma2Bf16 _ o => [.src o.a, .src o.b, .gen o.d]
  | .hfma2F16 _ o => [.src o.a, .src o.b, .gen o.d]
  | .hminmax2Bf16 _ o => [.src o.a, .src o.b, .dpair o.n o.d]
  | .hminmax2F16 _ o => [.src o.a, .src o.b, .dpair o.n o.d]
  | .cvt _ o => [.src o.a, .dst o.n o.d]
  | .gqcvtQ _ o => [.src o.a, .src o.b, .dpair o.n o.d]
  | .gqcvtF _ o => [.pair o.a, .src o.b, .dst o.n o.d]
  | .rcp _ o => [.src o.a, .dst o.n o.d]
  | .rsqrt _ o => [.src o.a, .dst o.n o.d]
  | .sqrt _ o => [.src o.a, .dst o.n o.d]
  | .ex2 _ o => [.src o.a, .dst o.n o.d]
  | .lg2 _ o => [.src o.a, .dst o.n o.d]
  | .sin _ o => [.src o.a, .dst o.n o.d]
  | .cos _ o => [.src o.a, .dst o.n o.d]
  | .tanh _ o => [.src o.a, .dst o.n o.d]
  | .shflIdx _ o => [.src o.a, .src o.b, .dst o.n o.d]
  | .shflXor _ o => [.src o.a, .src o.b, .dst o.n o.d]
  | .shflUp _ o => [.src o.a, .src o.b, .dst o.n o.d]
  | .shflDn _ o => [.src o.a, .src o.b, .dst o.n o.d]
  | .voteAll _ _ => []
  | .voteAny _ _ => []
  | .voteBallot _ o => [.dpair false o.d]
  | .voteEq _ o => [.src o.a]
  | .reduxAdd _ o => [.src o.a, .dst o.n o.d]
  | .reduxMinI _ o => [.src o.a, .dst o.n o.d]
  | .reduxMaxI _ o => [.src o.a, .dst o.n o.d]
  | .reduxMinN _ o => [.src o.a, .dst o.n o.d]
  | .reduxMaxN _ o => [.src o.a, .dst o.n o.d]
  | .reduxAnd _ o => [.src o.a, .dst o.n o.d]
  | .reduxOr _ o => [.src o.a, .dst o.n o.d]
  | .reduxXor _ o => [.src o.a, .dst o.n o.d]
  | .reduxFmin _ o => [.src o.a, .dst o.n o.d]
  | .reduxFmax _ o => [.src o.a, .dst o.n o.d]
  | .hbfly _ o => [.src o.a, .dst o.n o.d]
  | .unpk _ o => [.src o.a, .dst o.n o.d]
  | .cbld _ o => [.src o.a]
  | .qmap _ o => [.port o.d, .src o.a]
  | .clkrd _ o => [.dpair false o.d]
  | .ld8s _ o => [(if o.w then .pair o.a else .gen o.a), .gen o.d]
  | .ld8z _ o => [(if o.w then .pair o.a else .gen o.a), .gen o.d]
  | .ld16s _ o => [(if o.w then .pair o.a else .gen o.a), .gen o.d]
  | .ld16z _ o => [(if o.w then .pair o.a else .gen o.a), .gen o.d]
  | .ld32 _ o => [(if o.w then .pair o.a else .gen o.a), .gen o.d]
  | .ld64 _ o => [(if o.w then .pair o.a else .gen o.a), .pair o.d]
  | .ld128 _ o => [(if o.w then .pair o.a else .gen o.a), .quad o.d]
  | .st8 _ o => [(if o.w then .pair o.a else .gen o.a), .gen o.d]
  | .st16 _ o => [(if o.w then .pair o.a else .gen o.a), .gen o.d]
  | .st32 _ o => [(if o.w then .pair o.a else .gen o.a), .gen o.d]
  | .st64 _ o => [(if o.w then .pair o.a else .gen o.a), .pair o.d]
  | .st128 _ o => [(if o.w then .pair o.a else .gen o.a), .quad o.d]
  | .lds32 _ o => [.gen o.a, .gen o.d]
  | .lds64 _ o => [.gen o.a, .pair o.d]
  | .lds128 _ o => [.gen o.a, .quad o.d]
  | .sts32 _ o => [.gen o.a, .gen o.d]
  | .sts64 _ o => [.gen o.a, .pair o.d]
  | .sts128 _ o => [.gen o.a, .quad o.d]
  | .prefetch _ o => [(if o.w then .pair o.a else .gen o.a)]
  | .atom32Add _ o => [(if o.w then .pair o.a else .gen o.a), .gen o.d]
  | .atom32And _ o => [(if o.w then .pair o.a else .gen o.a), .gen o.d]
  | .atom32Or _ o => [(if o.w then .pair o.a else .gen o.a), .gen o.d]
  | .atom32Xor _ o => [(if o.w then .pair o.a else .gen o.a), .gen o.d]
  | .atom32MinI _ o => [(if o.w then .pair o.a else .gen o.a), .gen o.d]
  | .atom32MaxI _ o => [(if o.w then .pair o.a else .gen o.a), .gen o.d]
  | .atom32MinN _ o => [(if o.w then .pair o.a else .gen o.a), .gen o.d]
  | .atom32MaxN _ o => [(if o.w then .pair o.a else .gen o.a), .gen o.d]
  | .atom32Exch _ o => [(if o.w then .pair o.a else .gen o.a), .gen o.d]
  | .atom32Cas _ o => [(if o.w then .pair o.a else .gen o.a), .pair o.d]
  | .atom32Fadd _ o => [(if o.w then .pair o.a else .gen o.a), .gen o.d]
  | .atom32Fmin _ o => [(if o.w then .pair o.a else .gen o.a), .gen o.d]
  | .atom32Fmax _ o => [(if o.w then .pair o.a else .gen o.a), .gen o.d]
  | .atom64Add _ o => [(if o.w then .pair o.a else .gen o.a), .pair o.d]
  | .atom64And _ o => [(if o.w then .pair o.a else .gen o.a), .pair o.d]
  | .atom64Or _ o => [(if o.w then .pair o.a else .gen o.a), .pair o.d]
  | .atom64Xor _ o => [(if o.w then .pair o.a else .gen o.a), .pair o.d]
  | .atom64MinI _ o => [(if o.w then .pair o.a else .gen o.a), .pair o.d]
  | .atom64MaxI _ o => [(if o.w then .pair o.a else .gen o.a), .pair o.d]
  | .atom64MinN _ o => [(if o.w then .pair o.a else .gen o.a), .pair o.d]
  | .atom64MaxN _ o => [(if o.w then .pair o.a else .gen o.a), .pair o.d]
  | .atom64Exch _ o => [(if o.w then .pair o.a else .gen o.a), .pair o.d]
  | .atom64Cas _ o => [(if o.w then .pair o.a else .gen o.a), .quad o.d]
  | .atoms32Add _ o => [.gen o.a, .gen o.d]
  | .atoms32And _ o => [.gen o.a, .gen o.d]
  | .atoms32Or _ o => [.gen o.a, .gen o.d]
  | .atoms32Xor _ o => [.gen o.a, .gen o.d]
  | .atoms32MinI _ o => [.gen o.a, .gen o.d]
  | .atoms32MaxI _ o => [.gen o.a, .gen o.d]
  | .atoms32MinN _ o => [.gen o.a, .gen o.d]
  | .atoms32MaxN _ o => [.gen o.a, .gen o.d]
  | .atoms32Exch _ o => [.gen o.a, .gen o.d]
  | .atoms32Cas _ o => [.gen o.a, .pair o.d]
  | .atoms32Fadd _ o => [.gen o.a, .gen o.d]
  | .atoms32Fmin _ o => [.gen o.a, .gen o.d]
  | .atoms32Fmax _ o => [.gen o.a, .gen o.d]
  | .fenceAcq _ _ => []
  | .fenceRel _ _ => []
  | .fenceFull _ _ => []
  | .qfence _ o => [.gen o.a]
  | .flush _ o => [(if o.w then .pair o.a else .gen o.a), .gen o.d]
  | .mxs _ o => [.desc o.a 4]
  | .smx _ o => [.desc o.a 7]
  | .mxrd _ o => [.gen o.d, .gen o.a]
  | .mxstat _ o => [.quad o.d]
  | .cpbox _ o => [.pair o.d, .desc o.a 16]
  | .cplin _ o => [.pair o.d, .desc o.a 10]
  | .stcfg _ o => [.pair o.a]
  | .rtplan _ o => [.pair o.d, .desc o.a 10]
  | .rtscat _ o => [.pair o.d, .desc o.a 10]
  | .rtcomb _ o => [.pair o.d, .desc o.a 10]
  | .nmcall _ o => [.desc o.a 2]
  | .nmbkMac _ o => [.pair o.a]
  | .nmbkBcst _ o => [.pair o.a, .gen o.d]
  | .nmbkRdac _ o => [.pair o.a, .gen o.d]
  | .nmbkLmac _ o => [.pair o.a]
  | .cntadd _ o => [(if o.w then .pair o.a else .gen o.a), .pair o.d]
  | .sysrd _ o => [if sysWide o.num.toNat then .pair o.d else .gen o.d]
  | .syswr _ o => [if sysWide o.num.toNat then .pair o.d else .gen o.d]
  | .trapret _ => [.quad 0#7, .quad 4#7]
  | .flagsWrite _ o => [.gen o.d]
  | .rrcommitCommit _ => []
  | .rrcommitFetch _ => []
  | .stinv _ _ => []
  | .nmcinv _ _ => []
  | .icinv _ => []
  | .reload _ _ => []
  | .kill _ _ _ => []
  | .nmkickScrub _ _ _ => []
  | .nmkickMigrationCopy _ _ _ => []
  | .nmkickZero _ _ _ => []
  | .portmapEnable _ _ _ => []
  | .issueTurn _ => []
  | .rhizoidIssue _ _ => []
  | .hitchDeadlock _ => []
  | .waitgeReread _ _ => []
  | .waitpRead _ _ => []
  | .storeDrain _ _ => []
  | .storePerformHome _ _ => []
  | .loadReturn _ _ _ => []
  | .fenceToken _ _ => []
  | .workgroupRetire _ => []
  | .leaveRequest _ _ _ => []
  | .matrixSelect _ => []
  | .matrixPass _ => []
  | .tileClaimPass _ _ => []
  | .smxNormPass _ => []
  | .aliasBuild _ => []
  | .smxSamplePass _ => []
  | .copyBegin _ _ => []
  | .copyChunk _ _ => []
  | .copyComplete _ _ => []
  | .splicePlanRun _ _ => []
  | .spliceScatterRow _ _ => []
  | .spliceCombineRow _ _ => []
  | .spliceComplete _ _ => []
  | .callDispatch _ => []
  | .blockComplete _ => []
  | .bankCommandExecute _ _ => []
  | .allbankWave _ => []
  | .microcodeRowStep _ => []
  | .microcodeKernelEnd _ => []
  | .reductionAdd _ => []
  | .graphDone _ => []
  | .asyncTrap _ _ => []
  | .workgroupFatal _ => []
  | .pageNotResident _ _ => []
  | .peerRetry _ => []
  | .laneRetrainDone _ => []
  | .clusterSubstitute _ => []
  | .rowRetire _ _ => []
  | .hainv => []
  | .piinv => []
  | .cminv => []
  | .engineRequestPass => []
  | .sleepWake => []
  | .dispatchStep => []
  | .launchComplete => []
  | .budgetPeriod => []
  | .timeSliceEnd => []
  | .partitionSwap => []
  | .contextRestore => []
  | .pageEvict => []
  | .pageBringBack => []
  | .powerWindowStart => []
  | .leaveGrant => []
  | .thermalTrip => []
  | .walkerNodeStep => []
  | .launchNodeRetry => []
  | .graphArm => []
  | .regionFatal => []
  | .counterAddFail => []
  | .uncorrectableError => []
  | .hostMemRead => []
  | .hostMemWrite => []
  | .hostSnoop => []
  | .hostRegisterAccess => []
  | .msixUnmask => []
  | .peerRead => []
  | .peerWrite => []
  | .peerAtomic => []
  | .peerLost => []
  | .laneFailure => []
  | .cxlLinkDown => []
  | .resetDevice => []
  | .spdmGetVersion => []
  | .spdmGetCapabilities => []
  | .spdmNegotiateAlgorithms => []
  | .spdmGetDigests => []
  | .spdmGetCertificate => []
  | .spdmChallenge => []
  | .spdmGetMeasurements => []
  | .correctedError => []
  | .ualinkPortUp => []
  | .cxlLinkUp => []

/-- The predicates that a word writes. -/
def Instr.predDests : Instr → List Nat
  | .isetpI _ o => [o.pd.toNat]
  | .isetpN _ o => [o.pd.toNat]
  | .fsetp _ o => [o.pd.toNat]
  | .plop _ o => [o.pd.toNat]
  | .v2p _ _ => List.range 32
  | .voteAll _ o => [o.pd.toNat]
  | .voteAny _ o => [o.pd.toNat]
  | .voteEq _ o => [o.pd.toNat]
  | _ => []

/-- The predicates that a word reads or writes, its guard apart. -/
def Instr.preds : Instr → List Nat
  | .nop _ => []
  | .br _ _ => []
  | .call _ _ => []
  | .brm _ o => [o.p0.toNat, o.p1.toNat, o.p2.toNat, o.p3.toNat]
  | .jmpr _ _ => []
  | .callr _ _ => []
  | .exit _ => []
  | .lit32 _ _ => []
  | .trap _ _ => []
  | .yieldTurn _ => []
  | .hset _ _ => []
  | .rejoin _ _ => []
  | .bar _ => []
  | .sleep _ _ => []
  | .waitge _ _ => []
  | .waitp _ _ => []
  | .iadd _ _ => []
  | .isub _ _ => []
  | .imul _ _ => []
  | .imulhiI _ _ => []
  | .imulhiN _ _ => []
  | .imad _ _ => []
  | .iminI _ _ => []
  | .imaxI _ _ => []
  | .iminN _ _ => []
  | .imaxN _ _ => []
  | .land _ _ => []
  | .lor _ _ => []
  | .lxor _ _ => []
  | .shl _ _ => []
  | .shr _ _ => []
  | .sar _ _ => []
  | .iaddi _ _ => []
  | .andi _ _ => []
  | .ori _ _ => []
  | .xori _ _ => []
  | .shli _ _ => []
  | .shri _ _ => []
  | .sari _ _ => []
  | .movi _ _ => []
  | .iadd64 _ _ => []
  | .addx64 _ _ => []
  | .isetpI _ o => [o.pd.toNat]
  | .isetpN _ o => [o.pd.toNat]
  | .sel _ _ => []
  | .plop _ o => [o.pd.toNat, o.pa.toNat, o.pb.toNat]
  | .p2v _ _ => List.range 32
  | .v2p _ _ => List.range 32
  | .popc _ _ => []
  | .clz _ _ => []
  | .brev _ _ => []
  | .ctz _ _ => []
  | .lnot _ _ => []
  | .neg _ _ => []
  | .abs _ _ => []
  | .bswz _ _ => []
  | .fadd _ _ => []
  | .fsub _ _ => []
  | .fmul _ _ => []
  | .ffma _ _ => []
  | .fmin _ _ => []
  | .fmax _ _ => []
  | .fdiv _ _ => []
  | .fsetp _ o => [o.pd.toNat]
  | .fabs _ _ => []
  | .fneg _ _ => []
  | .ffloor _ _ => []
  | .fceil _ _ => []
  | .ftrunc _ _ => []
  | .frint _ _ => []
  | .hadd2Bf16 _ _ => []
  | .hadd2F16 _ _ => []
  | .hmul2Bf16 _ _ => []
  | .hmul2F16 _ _ => []
  | .hfma2Bf16 _ _ => []
  | .hfma2F16 _ _ => []
  | .hminmax2Bf16 _ _ => []
  | .hminmax2F16 _ _ => []
  | .cvt _ _ => []
  | .gqcvtQ _ _ => []
  | .gqcvtF _ _ => []
  | .rcp _ _ => []
  | .rsqrt _ _ => []
  | .sqrt _ _ => []
  | .ex2 _ _ => []
  | .lg2 _ _ => []
  | .sin _ _ => []
  | .cos _ _ => []
  | .tanh _ _ => []
  | .shflIdx _ _ => []
  | .shflXor _ _ => []
  | .shflUp _ _ => []
  | .shflDn _ _ => []
  | .voteAll _ o => [o.pd.toNat, o.ps.toNat]
  | .voteAny _ o => [o.pd.toNat, o.ps.toNat]
  | .voteBallot _ o => [o.ps.toNat]
  | .voteEq _ o => [o.pd.toNat]
  | .reduxAdd _ _ => []
  | .reduxMinI _ _ => []
  | .reduxMaxI _ _ => []
  | .reduxMinN _ _ => []
  | .reduxMaxN _ _ => []
  | .reduxAnd _ _ => []
  | .reduxOr _ _ => []
  | .reduxXor _ _ => []
  | .reduxFmin _ _ => []
  | .reduxFmax _ _ => []
  | .hbfly _ _ => []
  | .unpk _ _ => []
  | .cbld _ _ => []
  | .qmap _ _ => []
  | .clkrd _ _ => []
  | .ld8s _ _ => []
  | .ld8z _ _ => []
  | .ld16s _ _ => []
  | .ld16z _ _ => []
  | .ld32 _ _ => []
  | .ld64 _ _ => []
  | .ld128 _ _ => []
  | .st8 _ _ => []
  | .st16 _ _ => []
  | .st32 _ _ => []
  | .st64 _ _ => []
  | .st128 _ _ => []
  | .lds32 _ _ => []
  | .lds64 _ _ => []
  | .lds128 _ _ => []
  | .sts32 _ _ => []
  | .sts64 _ _ => []
  | .sts128 _ _ => []
  | .prefetch _ _ => []
  | .atom32Add _ _ => []
  | .atom32And _ _ => []
  | .atom32Or _ _ => []
  | .atom32Xor _ _ => []
  | .atom32MinI _ _ => []
  | .atom32MaxI _ _ => []
  | .atom32MinN _ _ => []
  | .atom32MaxN _ _ => []
  | .atom32Exch _ _ => []
  | .atom32Cas _ _ => []
  | .atom32Fadd _ _ => []
  | .atom32Fmin _ _ => []
  | .atom32Fmax _ _ => []
  | .atom64Add _ _ => []
  | .atom64And _ _ => []
  | .atom64Or _ _ => []
  | .atom64Xor _ _ => []
  | .atom64MinI _ _ => []
  | .atom64MaxI _ _ => []
  | .atom64MinN _ _ => []
  | .atom64MaxN _ _ => []
  | .atom64Exch _ _ => []
  | .atom64Cas _ _ => []
  | .atoms32Add _ _ => []
  | .atoms32And _ _ => []
  | .atoms32Or _ _ => []
  | .atoms32Xor _ _ => []
  | .atoms32MinI _ _ => []
  | .atoms32MaxI _ _ => []
  | .atoms32MinN _ _ => []
  | .atoms32MaxN _ _ => []
  | .atoms32Exch _ _ => []
  | .atoms32Cas _ _ => []
  | .atoms32Fadd _ _ => []
  | .atoms32Fmin _ _ => []
  | .atoms32Fmax _ _ => []
  | .fenceAcq _ _ => []
  | .fenceRel _ _ => []
  | .fenceFull _ _ => []
  | .qfence _ _ => []
  | .flush _ _ => []
  | .mxs _ _ => []
  | .smx _ _ => []
  | .mxrd _ _ => []
  | .mxstat _ _ => []
  | .cpbox _ _ => []
  | .cplin _ _ => []
  | .stcfg _ _ => []
  | .rtplan _ _ => []
  | .rtscat _ _ => []
  | .rtcomb _ _ => []
  | .nmcall _ _ => []
  | .nmbkMac _ _ => []
  | .nmbkBcst _ _ => []
  | .nmbkRdac _ _ => []
  | .nmbkLmac _ _ => []
  | .cntadd _ _ => []
  | .sysrd _ _ => []
  | .syswr _ _ => []
  | .trapret _ => []
  | .flagsWrite _ _ => []
  | .rrcommitCommit _ => []
  | .rrcommitFetch _ => []
  | .stinv _ _ => []
  | .nmcinv _ _ => []
  | .icinv _ => []
  | .reload _ _ => []
  | .kill _ _ _ => []
  | .nmkickScrub _ _ _ => []
  | .nmkickMigrationCopy _ _ _ => []
  | .nmkickZero _ _ _ => []
  | .portmapEnable _ _ _ => []
  | .issueTurn _ => []
  | .rhizoidIssue _ _ => []
  | .hitchDeadlock _ => []
  | .waitgeReread _ _ => []
  | .waitpRead _ _ => []
  | .storeDrain _ _ => []
  | .storePerformHome _ _ => []
  | .loadReturn _ _ _ => []
  | .fenceToken _ _ => []
  | .workgroupRetire _ => []
  | .leaveRequest _ _ _ => []
  | .matrixSelect _ => []
  | .matrixPass _ => []
  | .tileClaimPass _ _ => []
  | .smxNormPass _ => []
  | .aliasBuild _ => []
  | .smxSamplePass _ => []
  | .copyBegin _ _ => []
  | .copyChunk _ _ => []
  | .copyComplete _ _ => []
  | .splicePlanRun _ _ => []
  | .spliceScatterRow _ _ => []
  | .spliceCombineRow _ _ => []
  | .spliceComplete _ _ => []
  | .callDispatch _ => []
  | .blockComplete _ => []
  | .bankCommandExecute _ _ => []
  | .allbankWave _ => []
  | .microcodeRowStep _ => []
  | .microcodeKernelEnd _ => []
  | .reductionAdd _ => []
  | .graphDone _ => []
  | .asyncTrap _ _ => []
  | .workgroupFatal _ => []
  | .pageNotResident _ _ => []
  | .peerRetry _ => []
  | .laneRetrainDone _ => []
  | .clusterSubstitute _ => []
  | .rowRetire _ _ => []
  | .hainv => []
  | .piinv => []
  | .cminv => []
  | .engineRequestPass => []
  | .sleepWake => []
  | .dispatchStep => []
  | .launchComplete => []
  | .budgetPeriod => []
  | .timeSliceEnd => []
  | .partitionSwap => []
  | .contextRestore => []
  | .pageEvict => []
  | .pageBringBack => []
  | .powerWindowStart => []
  | .leaveGrant => []
  | .thermalTrip => []
  | .walkerNodeStep => []
  | .launchNodeRetry => []
  | .graphArm => []
  | .regionFatal => []
  | .counterAddFail => []
  | .uncorrectableError => []
  | .hostMemRead => []
  | .hostMemWrite => []
  | .hostSnoop => []
  | .hostRegisterAccess => []
  | .msixUnmask => []
  | .peerRead => []
  | .peerWrite => []
  | .peerAtomic => []
  | .peerLost => []
  | .laneFailure => []
  | .cxlLinkDown => []
  | .resetDevice => []
  | .spdmGetVersion => []
  | .spdmGetCapabilities => []
  | .spdmNegotiateAlgorithms => []
  | .spdmGetDigests => []
  | .spdmGetCertificate => []
  | .spdmChallenge => []
  | .spdmGetMeasurements => []
  | .correctedError => []
  | .ualinkPortUp => []
  | .cxlLinkUp => []

end Sys2Proof

namespace Sys2Proof.Machine

/-- The general registers that a field names. -/
def Opn.codes : Opn → List Nat
  | .src c => if c.toNat < 112 then [c.toNat] else []
  | .dst w d => if w || decide (112 ≤ d.toNat) then [] else [d.toNat]
  | .gen c => [c.toNat]
  | .pair c => [c.toNat, c.toNat + 1]
  | .dpair w d => if w then [] else [d.toNat, d.toNat + 1]
  | .quad c => rangeFrom c.toNat 4
  | .port _ => []
  | .desc c k => rangeFrom c.toNat k

/-- The port that a field pops, or pushes. -/
def Opn.pops : Opn → List Nat
  | .src c => if isPort c then [c.toNat - 112] else []
  | _ => []

def Opn.pushes : Opn → List Nat
  | .dst w d => if !w && isPort d then [d.toNat - 112] else []
  | _ => []

end Sys2Proof.Machine
end

