-- ==== Sys2Proof/Machine/Packets.lean ====
section
/-! DEFINITION. Packets and their cycles (R216 to R218, R414), what kind of word each instruction is (R204, R218, R221, R417), and which
words of a cycle a member will execute (R44, R225, R398). -/

namespace Sys2Proof

/-- The header of a word (R215); a command or an event has none. -/
def Instr.header (i : Instr) : Hdr :=
  match i.fields with
  | some (f, _) => f.hdr
  | none => ⟨false, 0#2⟩

/-- The major opcode of a word (R215). -/
def Instr.major (i : Instr) : Nat :=
  match i.fields with
  | some (f, _) => f.op.toNat
  | none => 0

/-- R52, R338: the commands that sign a hitch register. -/
def signMajors : List Nat := [0x70, 0x73, 0x74, 0x75, 0x77, 0x78, 0x79, 0x7A]

/-- R204: the words that rhizoid cores exclude. -/
def mainMajors : List Nat :=
  [0x0C, 0x4D, 0x60, 0x61, 0x62, 0x63, 0x64, 0x65, 0x68, 0x6A, 0x6B, 0x6C, 0x70, 0x71, 0x72, 0x73, 0x74, 0x75, 0x76, 0x77, 0x78,
    0x79, 0x7A, 0x7D, 0x7E]

/-- R221: the words whose only result is a predicate push nothing. -/
def Instr.predOnly (i : Instr) : Bool :=
  match i with
  | .isetpI .. => true
  | .isetpN .. => true
  | .fsetp .. => true
  | .plop .. => true
  | .v2p .. => true
  | .voteAll .. => true
  | .voteAny .. => true
  | .voteEq .. => true
  | _ => false

open Machine in
/-- R204, R218, R221, R225, R229, R412, R417: V and X words push a latch but for those whose only result is a predicate, SEL is never guarded, signed commands other than CPLIN are
unguarded only, and NMBK is for rhizoid cores. -/
def Instr.kind (i : Instr) : WKind :=
  { latch := decide (0x10 ≤ i.major) && decide (i.major < 0x50) && !i.predOnly,
    guarded := i.major != 0x2A,
    unguardedOnly := signMajors.contains i.major && i.major != 0x75,
    place := if mainMajors.contains i.major then .mainDie else if i.major = 0x7F then .rhizoid else .anyCore }

/-- R419: words that the handler may not execute. -/
def Instr.signs (i : Instr) : Bool := signMajors.contains i.major

end Sys2Proof

namespace Sys2Proof.Machine

/-! ## Packets (R216, R217, R414) -/

def majorOf (w : Word) : Nat := nbits w.toNat 30 24
def chainOf (w : Word) : Bool := w.getLsbD 31
def wordAt (ws : List Word) (p : Nat) : Word := ws.getD p 0#32

/-- R216: the positions of the instruction words of a packet. -/
def instrPos (ws : List Word) : List Nat :=
  if majorOf (wordAt ws 0) = 0x02 then [0]
  else if majorOf (wordAt ws 0) = 0x0D then [0, 2]
  else if majorOf (wordAt ws 1) = 0x0D then [0, 1]
  else [0, 1, 2]

def posMask (l : List Nat) : BitVec 3 := l.foldl (fun m p => m ||| (1#3 <<< p)) 0#3

/-- R217: the cycles of a packet: `done` are those that have ended, `cur` the one in progress. DESIGN CHOICE (log entry 104): a word with C = 0,
then one with C = 1, then a NOP, take the two cycles of the rule's list, where its count of words with C = 0 gives one. -/
def cyclesGo (ws : List Word) : List Nat → List (List Nat) → List Nat → List (List Nat)
  | [], done, cur => if cur.isEmpty then done else done ++ [cur]
  | p :: r, done, cur =>
    let w := wordAt ws p
    if majorOf w = 0 then
      if cur.isEmpty && !done.isEmpty then cyclesGo ws r (done.dropLast ++ [done.getLastD [] ++ [p]]) []
      else cyclesGo ws r done (cur ++ [p])
    else if chainOf w then cyclesGo ws r done (cur ++ [p])
    else cyclesGo ws r (done ++ [cur ++ [p]]) []

def cyclesOf (ws : List Word) : List (List Nat) := cyclesGo ws (instrPos ws) [] []

/-- R217: two words of a cycle on one pipe: the position of the second. -/
def pipeClash (ws : List Word) : List Nat → List Pipe → Option Nat
  | [], _ => none
  | p :: r, used =>
    let w := wordAt ws p
    if majorOf w = 0 then pipeClash ws r used
    else
      let pipe := pipeOf (BitVec.ofNat 7 (majorOf w))
      if used.contains pipe then some p else pipeClash ws r (pipe :: used)

/-- R247: the waiting words. -/
def isWaiting (w : Word) : Bool := [0x08, 0x09, 0x0A, 0x0B, 0x0C].contains (majorOf w)

/-- R414: the position of a word that makes the packet illegal. -/
def illegalAt (ws : List Word) : Option Nat :=
  let ps := instrPos ws
  let w0 := wordAt ws 0
  let w1 := wordAt ws 1
  let w2 := wordAt ws 2
  if majorOf w0 = 0x02 ∧ chainOf w0 = true then some 0
  else if ps.contains 1 && (majorOf w1 == 0x02 || (majorOf w1 == 0x0D && chainOf w1)) then some 1
  else if ps.contains 2 && (majorOf w2 == 0x02 || majorOf w2 == 0x0D || (chainOf w2 && majorOf w2 != 0)) then some 2
  else
    match (cyclesOf ws).findSome? (fun c => pipeClash ws c []) with
    | some p => some p
    | none => ((ps.filter (fun p => isWaiting (wordAt ws p))).drop 1).head?

/-- The instruction that stands at a position of a packet. -/
def instrAt (ws : List Word) (p : Nat) : Option Instr :=
  match decodeWord (wordAt ws p) (wordAt ws (p + 1)) (wordAt ws (p + 2)) with
  | .ok i => some i
  | .error _ => none

def packetInstrs (ws : List Word) : List Instr := (instrPos ws).filterMap (instrAt ws)

/-! ## The words of a cycle that a member executes (R44, R221, R225, R398) -/

/-- How many entries a word's result pushes onto the latches (R221). -/
def pushCount (i : Instr) : Nat := if i.opns.any (fun o => match o with | .dpair .. => true | _ => false) then 2 else 1

/-- R418, R459: operands that make a word fault: an uncorrectable register that it reads, a port bound for the other direction or not
bound. -/
def Opn.faulty (badRegs : List Nat) (ports : List Binding) : Opn → Bool
  | .src c => if isPort c then (match ports.getD (c.toNat - 112) .unbound with
      | .unbound => true
      | .channel true _ _ => true
      | _ => false) else badRegs.contains c.toNat
  | .dst w d => !w && isPort d && (match ports.getD (d.toNat - 112) .unbound with
      | .stream _ => false
      | .channel true _ _ => false
      | _ => true)
  | .gen c => badRegs.contains c.toNat
  | .pair c => badRegs.contains c.toNat || badRegs.contains (c.toNat + 1)
  | _ => false

/-- Of the words of a cycle at the positions given, those that a member will execute: not skipped, its fields legal, its guard true, its
latches valid (`lv`, as the words before it leave them), its registers sound and its ports of the right direction. `n` and `priv` are its
workgroup's register count and its mode, `bad` the sources and destinations that it may not use. -/
def Member.runsOf (m : Member) (core n : Nat) (priv : Bool) (bad : Opn → Bool) (ws : List Word) : List Nat → List Bool → List Nat
  | [], _ => []
  | p :: r, lv =>
    match instrAt ws p with
    | none => Member.runsOf m core n priv bad ws r lv
    | some i =>
      let k := i.kind
      let off := if k.latch then (false :: lv).take 4 else lv
      if m.skip.getLsbD p then Member.runsOf m core n priv bad ws r off
      else if (fieldCause k i.header i.opns core n priv (i.signs && m.guard i.header)).isSome then Member.runsOf m core n priv bad ws r lv
      else if k.guarded && !m.guard i.header then Member.runsOf m core n priv bad ws r off
      else if i.opns.any (fun o => match o with
        | .src c => decide (124 ≤ c.toNat) && !lv.getD (c.toNat - 124) false
        | _ => false) then Member.runsOf m core n priv bad ws r lv
      else if i.opns.any bad then Member.runsOf m core n priv bad ws r lv
      else p :: Member.runsOf m core n priv bad ws r (if k.latch then (List.replicate (pushCount i) true ++ lv).take 4 else lv)

end Sys2Proof.Machine
end

