-- ==== Sys2Proof/Machine/Operands.lean ====
section
/-! DEFINITION. Operand forms: reading sources (registers, ports, latches) and writing results (R219 to R224, R248, R296,
R297, R416, R418, R449, R459). -/

namespace Sys2Proof.Machine

/-- A source value, with the CLK from which it is there and the notification it depends on. -/
structure Src where
  v : Word
  ready : Nat
  dep : Nat
  deriving DecidableEq, Repr

/-- A lane's outcome of a step of a word: a cause with INFO (cause 0: the word has no effect), or a state and a value. -/
abbrev Lane (α : Type) := Except (Nat × Nat) α

def Member.braid (s : State) (m : Member) : Nat := (s.wgrp m.wg).braidOf m.t

/-! ## Ports (R220, R297) -/

/-- R220: the use that this word already made of a stream port for the braid. -/
def State.portUse (s : State) (c : Cur) (wg b q : Nat) (write : Bool) : Option PortUse :=
  match s.turnOf c.core with
  | none => none
  | some t => t.uses.find? (fun u => u.wg == wg && u.braid == b && u.port == q && u.pkt == c.pkt && u.pos == c.pos && u.write == write)

def State.addUse (s : State) (c : Cur) (m : Member) (q res : Nat) (write : Bool) (v : Word) : State :=
  s.modTurn c.core (fun t => { t with uses := t.uses ++ [⟨m.wg, m.braid s, q, c.pkt, c.pos, write, v, res, m.lane, t.cycle⟩] })

/-- R418: the destination member of a channel send is legal. -/
def memberOk (g : Workgroup) (k : Nat) : Bool := if g.csize ≤ 1 then k == 0 else decide (k < g.csize)

/-- R297: the workgroup that member `k` of the gang is. -/
def Workgroup.mate (g : Workgroup) (wg k : Nat) : Nat := if g.csize ≤ 1 then wg else g.gang.getD k wg

/-- What port `q` of a braid acts on: a number for the stream, the completion queue, or either end of a channel; whether one use
serves the whole braid (R220). -/
def State.portRes (s : State) (wg b q : Nat) : Option (Nat × Bool) :=
  match (s.brd wg b).ports.getD q .unbound with
  | .unbound => none
  | .stream n => some (wg * 8 + n, true)
  | .completion _ => some (2 ^ 60 + bkey wg b * 16 + q, false)
  | .channel false _ n => some (2 ^ 70 + wg * 16 + n, false)
  | .channel true k n => some (2 ^ 80 + (s.wgrp wg).mate wg k * 16 + n, false)

/-- R44: the words of the cycle in progress of a packet that stand after the word being executed. -/
def State.laterWords (s : State) (c : Cur) : List Nat × Packet :=
  match s.turnOf c.core with
  | none => ([], ⟨0, [], false, []⟩)
  | some t =>
    let p := t.pkts.getD c.pkt ⟨0, [], false, []⟩
    (((cyclesOf p.words).getD t.cycle []).filter (fun q => decide (c.pos < q)), p)

/-- R44: the pops (or writes) of a resource by later words of the cycle on lanes below the member's, which come first. A
stream is used once for a braid and word. -/
def State.portAhead (s : State) (c : Cur) (m : Member) (res : Nat) (write : Bool) : Nat :=
  let (later, p) := s.laterWords c
  if later.isEmpty then 0
  else
    let cyc := (cyclesOf p.words).getD ((s.turnOf c.core).elim 0 Turn.cycle) []
    let keys := (p.members.filter (fun u => decide (u.lane < m.lane))).flatMap (fun u =>
      let x := s.thr u.wg u.t
      let b := u.braid s
      let runs := u.runsOf c.core (s.wgrp u.wg).n x.priv (Opn.faulty x.badRegs (s.brd u.wg b).ports) p.words cyc u.lv
      (later.filter runs.contains).flatMap (fun q => match instrAt p.words q with
        | none => []
        | some i =>
          let ports := i.opns.flatMap (fun o => if write then o.pushes else o.pops)
          ((List.range ports.length).zip ports).filterMap (fun k => match s.portRes u.wg b k.2 with
            | some (r, shared) => if r = res then some (if shared then [bkey u.wg b, q, k.2] else [tkey u.wg u.t, q, 16 + k.1]) else none
            | none => none)))
    keys.eraseDups.length

/-- R44: the uses of a resource that earlier words of the cycle have made on lanes above the member's, which come after. -/
def State.portBehind (s : State) (c : Cur) (m : Member) (res : Nat) (write : Bool) : Nat :=
  match s.turnOf c.core with
  | none => 0
  | some t => (t.uses.filter (fun u => u.res == res && u.write == write && u.pkt == c.pkt && u.cyc == t.cycle && decide (u.pos < c.pos) &&
      decide (m.lane < u.lane))).length

def Stream.slotVa (x : Stream) (i : Nat) : Nat := x.base + i * x.slotBytes

def Stream.blank : Stream := ⟨0, 0, [], 0, 0, 0⟩

def Workgroup.stream (g : Workgroup) (n : Nat) : Stream := g.streams.getD n Stream.blank

/-- The slot `ahead` places after position `at_` of the ring, and `behind` places before it. -/
def Stream.slotAt (x : Stream) (at_ ahead behind : Nat) : Nat :=
  if ahead = 0 ∧ behind = 0 then at_ else (at_ + x.slots.length + ahead - behind) % x.slots.length

/-- R177: pop the filled slot `i`; the read position goes on by one. -/
def Stream.popAt (x : Stream) (i : Nat) : Option (Nat × Stream) :=
  if x.slots.getD i .free = Slot.filled then
    some (x.slotVa i, { x with slots := setAt x.slots i .popped, readPos := (x.readPos + 1) % x.slots.length })
  else none

/-- R177: pop the filled slot at the read position. -/
def Stream.pop (x : Stream) : Option (Nat × Stream) := x.popAt x.readPos

/-- R177, R449: free the popped slot `i` by its address. -/
def Stream.freeAt (x : Stream) (i addr : Nat) : Option Stream :=
  if x.slots.getD i .free = Slot.popped ∧ addr = x.slotVa i then
    some { x with slots := setAt x.slots i .free, freePos := (x.freePos + 1) % x.slots.length }
  else none

/-- R177, R449: free the oldest popped slot by its address. -/
def Stream.free (x : Stream) (addr : Nat) : Option Stream := x.freeAt x.freePos addr

def State.modStream (s : State) (wg n : Nat) (f : Stream → Stream) : State :=
  s.modWg wg (fun g => { g with streams := modAt g.streams n f })

/-- R297: the release that an entry of a channel stands behind is complete. -/
def State.chanReady (s : State) (e : Word × Nat × Nat) : Bool := (s.core e.2.1).rels.all (fun r => r.id != e.2.2)

/-- Take the entry with `k` others before it. -/
def takeAt {α : Type} (k : Nat) (l : List α) : Option (α × List α) :=
  match l.drop k with
  | [] => none
  | e :: r => some (e, l.take k ++ r)

/-- R44, R220, R297: a read of port q: its entry is the next one in the order of the cycle. -/
def State.popPort (s : State) (c : Cur) (m : Member) (q : Nat) : Lane (State × Word) :=
  let b := m.braid s
  let res := ((s.portRes m.wg b q).getD (0, false)).1
  match (s.brd m.wg b).ports.getD q .unbound with
  | .unbound => .error (0x19, 0)
  | .channel true _ _ => .error (0x19, 0)
  | .stream n =>
    match s.portUse c m.wg b q false with
    | some u => .ok (s, u.value)
    | none =>
      let x := (s.wgrp m.wg).stream n
      match x.popAt (x.slotAt x.readPos (s.portAhead c m res false) (s.portBehind c m res false)) with
      | none => .error (0, 0)
      | some (a, x) => .ok ((s.modStream m.wg n (fun _ => x)).addUse c m q res false (BitVec.ofNat 32 a), BitVec.ofNat 32 a)
  | .completion _ =>
    match takeAt (s.portAhead c m res false) (Tbl.getD (s.brd m.wg b).comp q []) with
    | none => .error (0, 0)
    | some ((v, scope), r) =>
      .ok ((s.modBrd m.wg b (fun x => { x with comp := Tbl.put x.comp q r })).acquire c.core scope, v)
  | .channel false _ n =>
    match takeAt (s.portAhead c m res false) ((s.wgrp m.wg).chans.getD n []) with
    | none => .error (0, 0)
    | some (e, r) => .ok ((s.modWg m.wg (fun g => { g with chans := setAt g.chans n r })).acquire c.core 2, e.1)

/-- R44, R220, R297, R449: a write to port q, in its place in the order of the cycle. -/
def State.pushPort (s : State) (c : Cur) (m : Member) (q : Nat) (v : Word) : Lane State :=
  let b := m.braid s
  let g := s.wgrp m.wg
  let res := ((s.portRes m.wg b q).getD (0, false)).1
  match (s.brd m.wg b).ports.getD q .unbound with
  | .unbound => .error (0x19, 0)
  | .completion _ => .error (0x19, 0)
  | .channel false _ _ => .error (0x19, 0)
  | .stream n =>
    match s.portUse c m.wg b q true with
    | some _ => .ok s
    | none =>
      let x := g.stream n
      match x.freeAt (x.slotAt x.freePos (s.portAhead c m res true) (s.portBehind c m res true)) v.toNat with
      | none => .error (0x54, 0)
      | some x => .ok ((s.modStream m.wg n (fun _ => x)).addUse c m q res true v)
  | .channel true k n =>
    if !memberOk g k then .error (0x19, 0)
    else
      let dstWg := g.mate m.wg k
      -- R223: the packet began with room for every entry that it pushes
      let at_ := ((s.wgrp dstWg).chans.getD n []).length - s.portBehind c m res true
      let (s1, rel) := (s.addUse c m q res true v).startRel c.core m.wg [m.t] 2 true
      .ok (s1.modWg dstWg (fun x => { x with chans := modAt x.chans n (fun l => l.take at_ ++ (v, c.core, rel) :: l.drop at_) }))

/-! ## Sources (R219, R221, R224, R416, R459) -/

/-- R459: a register whose entry is uncorrectable. -/
def State.badReg (s : State) (m : Member) (r : Nat) : Bool := (s.thr m.wg m.t).badRegs.contains r

/-- Read the operand that code `a` names. DESIGN CHOICE (log entry 105): a word that reads a latch finds the entry that a word before it in the same
cycle has pushed. -/
def State.src (s : State) (c : Cur) (m : Member) (a : BitVec 7) : Lane (State × Src) :=
  if a.toNat < 112 then
    if s.badReg m a.toNat then .error (0x62, a.toNat)
    else .ok (s, ⟨m.reg a.toNat, 0, Tbl.getD (s.thr m.wg m.t).dep a.toNat 0⟩)
  else if a.toNat < 124 then
    match s.popPort c m (a.toNat - 112) with
    | .ok (s', v) => .ok (s', ⟨v, 0, 0⟩)
    | .error e => .error e
  else
    match (s.thr m.wg m.t).latch.getD (a.toNat - 124) none with
    | some l => .ok (s, ⟨l.v, l.ready, l.dep⟩)
    | none => .error (0x13, 0)

/-- The first of `n` registers from `r` that is uncorrectable. -/
def State.firstBad (s : State) (m : Member) (r n : Nat) : Option Nat := (rangeFrom r n).find? (fun i => s.badReg m i)

/-- Read `n` general registers from `r`. -/
def State.regs (s : State) (m : Member) (r n : Nat) : Lane (List Word) :=
  match s.firstBad m r n with
  | some i => .error (0x62, i)
  | none => .ok ((rangeFrom r n).map m.reg)

/-- The greatest dependence of `n` registers from `r` (R150). -/
def State.regsDep (s : State) (m : Member) (r n : Nat) : Nat :=
  (rangeFrom r n).foldl (fun d i => max d (Tbl.getD (s.thr m.wg m.t).dep i 0)) 0

/-- The number that `n` registers hold, the first lowest (R3). -/
def wordsVal : List Word → Nat
  | [] => 0
  | w :: r => w.toNat + 2 ^ 32 * wordsVal r

/-! ## Results (R221, R222, R224, R248) -/

/-- Push a result word. -/
def State.pushWord (s : State) (m : Member) (v : Word) (ready dep : Nat) : State :=
  s.modThr m.wg m.t (fun x => { x with latch := pushLatch x.latch (some ⟨v, ready, dep⟩) })

/-- A 32-bit result of a V or X word: it is pushed, and written to the register or port D unless N is set. -/
def State.result (s : State) (c : Cur) (m : Member) (n : Bool) (d : BitVec 7) (v : Word) (lat after dep : Nat) : Lane State :=
  let ready := readyAt c.core (max s.clk after) lat
  let s1 := s.pushWord m v ready dep
  if n then .ok s1
  else if d.toNat < 112 then .ok (s1.modThr m.wg m.t (fun x => x.setReg d.toNat v ready dep))
  else s1.pushPort c m (d.toNat - 112) v

/-- A 64-bit result: the low word is pushed first; the pair D is written unless N is set. -/
def State.result64 (s : State) (c : Cur) (m : Member) (n : Bool) (d : BitVec 7) (v : Dword) (lat after dep : Nat) : Lane State :=
  let ready := readyAt c.core (max s.clk after) lat
  let s1 := (s.pushWord m (dlo v) ready dep).pushWord m (dhi v) ready dep
  if n then .ok s1
  else .ok (s1.modThr m.wg m.t (fun x => (x.setReg d.toNat (dlo v) ready dep).setReg (d.toNat + 1) (dhi v) ready dep))

/-- R222 (K words): write a register with a latency; nothing is pushed. -/
def State.putReg (s : State) (c : Cur) (m : Member) (d : Nat) (v : Word) (lat dep : Nat) : State :=
  s.modThr m.wg m.t (fun x => x.setReg d v (readyAt c.core s.clk lat) dep)

/-- The key under which the scoreboard holds predicate `i`. -/
def predKey (i : Nat) : Nat := 128 + i

/-- R150, R224, R248: a predicate result with its dependence; it is read by words of later cycles. -/
def State.putPred (s : State) (c : Cur) (m : Member) (i : Nat) (v : Bool) (lat after dep : Nat) : State :=
  (s.modThr m.wg m.t (fun x => { x with
    busy := Tbl.put x.busy (predKey i) (laterOf (Tbl.get? x.busy (predKey i)) (readyAt c.core (max s.clk after) lat)),
    dep := Tbl.set x.dep 0 (predKey i) dep })).atCycleEnd c.core (.pred m.wg m.t i v)

/-- R150: what predicate `i` depends on. -/
def State.predDep (s : State) (m : Member) (i : Nat) : Nat := Tbl.getD (s.thr m.wg m.t).dep (predKey i) 0

/-- Change what the packet's group holds of a member. -/
def State.upd (s : State) (c : Cur) (m : Member) (f : Member → Member) : State :=
  s.modTurn c.core (fun t => { t with
    pkts := modAt t.pkts c.pkt (fun p => { p with
      members := p.members.map (fun x => if x.wg = m.wg ∧ x.t = m.t then f x else x) }) })

/-! ## Addresses of memory words (R205, R233, R432, R452) -/

/-- R233: SEGB as the thread's address formation reads it (R400). -/
def State.segbOf (s : State) (wg t : Nat) : Nat :=
  if (s.thr wg t).priv then 0 else (s.brd wg ((s.wgrp wg).braidOf t)).segb

/-- R233, R432: the VA of a memory word: base `a`, W and a byte offset. -/
def State.wordVa (s : State) (m : Member) (w : Bool) (a off : Nat) : Option Nat :=
  formVa w (s.segbOf m.wg m.t) (m.reg64 a) (m.reg a).toNat off

/-- R150: what such an address depends on: its registers and, where SEGB is in the sum, SEGB. -/
def State.addrDep (s : State) (m : Member) (w : Bool) (a : Nat) : Nat :=
  if w then s.regsDep m a 2
  else max (s.regsDep m a 1) (if (s.thr m.wg m.t).priv then 0 else (s.brd m.wg (m.braid s)).segbDep)

/-- The VA that INFO holds where the address itself overflows. -/
def State.rawVa (s : State) (m : Member) (w : Bool) (a off : Nat) : Nat :=
  (if w then m.reg64 a + off else s.segbOf m.wg m.t + (m.reg a).toNat + off) % 2 ^ 57

/-- A memory word enters its thread's pending words with a fresh stamp. -/
def State.addMop (s : State) (wg t : Nat) (m : MOp) : State :=
  let (s1, q) := s.freshSeq
  s1.modThr wg t (fun x => { x with mops := x.mops ++ [{ m with seq := q, grp := s.issueGrp ((s.wgrp wg).coreOf t), born := s.clk }] })

/-- A pending memory word with nothing but its kind and address. -/
def MOp.mk0 (kind : MKind) (va ia pol asid pc : Nat) (raw : Word) (wpos : Nat) : MOp :=
  { seq := 0, word := 0, kind := kind, va := va, ia := ia, pol := pol, hint := 0, scope := 0, core := 0, addr := 0, pc := pc,
    raw := raw, wpos := wpos, dep := 0, posted := false, logged := none, replay := false, asid := asid, grp := 0,
    born := 0, lseq := 0 }

/-! ## Word shapes -/

/-- One source to one 32-bit result. -/
def op1 (lat : Nat) (n : Bool) (d a : BitVec 7) (f : Word → Word) (s : State) (c : Cur) (m : Member) : Lane State :=
  match s.src c m a with
  | .error e => .error e
  | .ok (s1, x) => s1.result c m n d (f x.v) lat x.ready x.dep

/-- Two sources to one 32-bit result. -/
def op2 (lat : Nat) (n : Bool) (d a b : BitVec 7) (f : Word → Word → Word) (s : State) (c : Cur) (m : Member) : Lane State :=
  match s.src c m a with
  | .error e => .error e
  | .ok (s1, x) =>
    match s1.src c m b with
    | .error e => .error e
    | .ok (s2, y) => s2.result c m n d (f x.v y.v) lat (max x.ready y.ready) (max x.dep y.dep)

/-- Two sources and the register D to one 32-bit result. -/
def op3 (lat : Nat) (n : Bool) (d a b : BitVec 7) (f : Word → Word → Word → Word) (s : State) (c : Cur) (m : Member) : Lane State :=
  match s.src c m a with
  | .error e => .error e
  | .ok (s1, x) =>
    match s1.src c m b with
    | .error e => .error e
    | .ok (s2, y) =>
      match s2.src c m d with
      | .error e => .error e
      | .ok (s3, z) => s3.result c m n d (f x.v y.v z.v) lat (max x.ready y.ready) (max x.dep (max y.dep z.dep))

end Sys2Proof.Machine
end

