-- ==== Sys2Proof/Machine/Flags.lean ====
section
/-! DEFINITION. The sticky floating-point flags and the flag rule of each operation (R58, R103 to R106). -/

namespace Sys2Proof.Machine
open Sys2Proof.Machine.Num

/-- R106: a thread raises flags, which reach its braid when the word writes back: with the latency `lat` after its operands are there;
words in privileged mode raise none (R400). DESIGN CHOICE (log entry 100): a word that raises no flag leaves nothing pending, so that it never
holds a later SYSRD or SYSWR of FLAGS. -/
def State.raiseFlags (s : State) (c : Cur) (m : Member) (lat after : Nat) (f : Flags) : State :=
  if (s.thr m.wg m.t).priv || f == 0#5 then s
  else s.atCycleEnd c.core (.flags m.wg (m.braid s) (readyAt c.core (max s.clk after) lat) f)

/-- R105: one rounding of an exact result; invalid where a NaN is made from operands that are not NaN. -/
def fpOut (f : Fmt) (ops : List Val) (v : Val) : Nat × Flags :=
  if v.isNan then (f.nanBits, if ops.any Val.isNan then 0#5 else fInvalid) else roundTo f false v

/-- R103, R277: the sum, difference and product. -/
def fAdd (f : Fmt) (a b : Nat) : Nat × Flags := fpOut f [Num.decode f a, Num.decode f b] (add (Num.decode f a) (Num.decode f b))
def fSub (f : Fmt) (a b : Nat) : Nat × Flags := fpOut f [Num.decode f a, Num.decode f b] (add (Num.decode f a) (Num.decode f b).negate)
def fMul (f : Fmt) (a b : Nat) : Nat × Flags := fpOut f [Num.decode f a, Num.decode f b] (mul (Num.decode f a) (Num.decode f b))

/-- R103, R104: a times b plus d with one rounding; 0 times infinity is invalid whatever d is. -/
def fFma (f : Fmt) (a b d : Nat) : Nat × Flags :=
  let x := Num.decode f a
  let y := Num.decode f b
  let p := mul x y
  if p.isNan && !x.isNan && !y.isNan then (f.nanBits, fInvalid)
  else fpOut f [x, y, Num.decode f d] (add p (Num.decode f d))

/-- R103, R104: the quotient. -/
def fDivide (f : Fmt) (a b : Nat) : Nat × Flags :=
  let (v, fl) := div (Num.decode f a) (Num.decode f b)
  if v.isNan then (f.nanBits, fl) else
    let (r, g) := roundTo f false v
    (r, fl ||| g)

/-- R104: minimum and maximum raise nothing. -/
def fMin (f : Fmt) (a b : Nat) : Nat × Flags := (rne f (minVal (Num.decode f a) (Num.decode f b)), 0#5)
def fMax (f : Fmt) (a b : Nat) : Nat × Flags := (rne f (maxVal (Num.decode f a) (Num.decode f b)), 0#5)

/-- The two halves of a word, each an operation of a 16-bit format (R281, R282). -/
def halves2 (g : Nat → Nat → Nat × Flags) (a b : Word) : Word × Flags :=
  let lo := g (a.toNat % 65536) (b.toNat % 65536)
  let hi := g (a.toNat / 65536) (b.toNat / 65536)
  (BitVec.ofNat 32 (lo.1 + 65536 * hi.1), lo.2 ||| hi.2)

def halves3 (g : Nat → Nat → Nat → Nat × Flags) (a b d : Word) : Word × Flags :=
  let lo := g (a.toNat % 65536) (b.toNat % 65536) (d.toNat % 65536)
  let hi := g (a.toNat / 65536) (b.toNat / 65536) (d.toNat / 65536)
  (BitVec.ofNat 32 (lo.1 + 65536 * hi.1), lo.2 ||| hi.2)

/-- A 32-bit operation as a word operation. -/
def w2 (g : Nat → Nat → Nat × Flags) (a b : Word) : Word × Flags := let r := g a.toNat b.toNat; (BitVec.ofNat 32 r.1, r.2)

/-- One source, a result and flags. -/
def fop1 (lat : Nat) (n : Bool) (d a : BitVec 7) (f : Word → Word × Flags) (s : State) (c : Cur) (m : Member) : Lane State :=
  match s.src c m a with
  | .error e => .error e
  | .ok (s1, x) => (s1.raiseFlags c m lat x.ready (f x.v).2).result c m n d (f x.v).1 lat x.ready x.dep

/-- Two sources, a result and flags. -/
def fop2 (lat : Nat) (n : Bool) (d a b : BitVec 7) (f : Word → Word → Word × Flags) (s : State) (c : Cur) (m : Member) :
    Lane State :=
  match s.src c m a with
  | .error e => .error e
  | .ok (s1, x) =>
    match s1.src c m b with
    | .error e => .error e
    | .ok (s2, y) =>
      (s2.raiseFlags c m lat (max x.ready y.ready) (f x.v y.v).2).result c m n d (f x.v y.v).1 lat (max x.ready y.ready) (max x.dep y.dep)

/-- Two sources and D, a result and flags. -/
def fop3 (lat : Nat) (n : Bool) (d a b : BitVec 7) (f : Word → Word → Word → Word × Flags) (s : State) (c : Cur)
    (m : Member) : Lane State :=
  match s.src c m a with
  | .error e => .error e
  | .ok (s1, x) =>
    match s1.src c m b with
    | .error e => .error e
    | .ok (s2, y) =>
      match s2.src c m d with
      | .error e => .error e
      | .ok (s3, z) =>
        (s3.raiseFlags c m lat (max x.ready y.ready) (f x.v y.v z.v).2).result c m n d (f x.v y.v z.v).1 lat (max x.ready y.ready)
          (max x.dep (max y.dep z.dep))

end Sys2Proof.Machine
end

