-- ==== Sys2Proof/Machine/Issue.lean ====
section
/-! DEFINITION. The issue stage: fetch (R39, R135, R197), groups and turns (R39 to R47),
and the ends of cycles, packets and turns (R246, R247, R398, R401, R404). -/

namespace Sys2Proof.Machine

/-! ## Fetch (R39, R135, R197, R216, R432) -/

/-- The code base of a stack (R197). -/
def State.codeBase (s : State) (k : Nat) : Nat := nbits (s.stack k).nmcode.toNat 35 16 * 65536

/-- The IA of byte `o` of the packet at a thread's PC, or the cause and INFO of its fetch. -/
def State.fetchIa (s : State) (wg t o : Nat) : Except (Nat × Nat) Nat :=
  let va := 12 * (s.thr wg t).pc + o
  match (s.wgrp wg).stack with
  | some k =>
    if nbits (s.stack k).nmcode.toNat 63 48 * 65536 ≤ va then .error (0x41, va) else .ok (spaIa k (s.codeBase k + va))
  | none =>
    match s.checkVa (s.asidOf wg t) va 4 .fetch with
    | .ok (ia, _) => .ok ia
    | .error c => .error (c, va)

/-- What a thread's fetch meets; an error at memory names the byte of the packet. -/
inductive Fetch where
  | ok (s : State)
  | fault (cause info : Nat)
  | mem (e : MErr) (o : Nat)

/-- Bytes of code by IA: a rhizoid core reads its own stack (R196, R197). -/
def State.codeRead (s : State) (core ia n : Nat) : Except MErr (State × List Byte × Bool) :=
  if isRhizoid core then s.stackRead ia n 0 else s.homeRead (dieOf core) ia n 0

/-- R135: one fill of an instruction cache line from its IA: its bytes and, where a packet runs over its end, the 8 bytes from `tail` on, so
that a packet's words always come from one fill. -/
def State.fillCode (s : State) (core tag : Nat) (tail : Option Nat) : Except MErr (State × Line) :=
  match s.codeRead core (tag * 128) 64 with
  | .error e => .error e
  | .ok (s1, d1, p1) =>
    match s1.codeRead core (tag * 128 + 64) 64 with
    | .error e => .error e
    | .ok (s2, d2, p2) =>
      match (match tail with
        | none => .ok (s2, [], false)
        | some a => s2.codeRead core a 8 : Except MErr (State × List Byte × Bool)) with
      | .error e => .error e
      | .ok (s3, d3, p3) =>
        let (s4, now) := s3.freshSeq
        let l : Line :=
          { tag := tag, data := (List.range (128 + d3.length)).zip (d1 ++ d2 ++ d3), dirty := [], pol := 0, cls := 0, used := now, gen := 0,
            expiry := 0, fillReq := tail.elim 0 (· + 1), off := 0, own := (0, 0),
            poison := (if p1 then [0] else []) ++ (if p2 then [1] else []) ++ (if p3 then [2] else []) }
        .ok (s4, l)

/-- R132, R196: the sets of an instruction cache of 4 ways: 64 KiB, or 16 KiB of a rhizoid core. -/
def codeSets (core : Nat) : Nat := if isRhizoid core then 32 else 128

/-- The line of an instruction cache that holds a packet: its first byte at `ia`, with the bytes from `tail` on where it runs over the
line's end. -/
def State.codeLine (s : State) (core ia : Nat) (tail : Option Nat) : Option Line :=
  match findLine (ia / 128) (s.core core).l1i with
  | none => none
  | some l => match tail with
    | none => some l
    | some a => if l.fillReq = a + 1 then some l else none

/-- Where byte `o` of a packet stands in its line, given the IA of its first byte and of the byte. -/
def codeAt (first ia : Nat) : Nat := if ia / 128 = first / 128 then ia % 128 else 128 + ia % 128

/-- The IAs of the words of a thread's packet, or the cause and INFO of its fetch. -/
def State.packetIas (s : State) (wg t : Nat) : Except (Nat × Nat) (List Nat) := [0, 4, 8].mapM (fun o => s.fetchIa wg t o)

/-- R216: where a packet runs over the end of its line, the IA of the next line. -/
def tailOf (ias : List Nat) : Option Nat := ias.find? (fun a => a / 128 != ias.headD 0 / 128)

/-- R39, R460: bring a packet into the instruction cache; its lowest poisoned byte is an error. -/
def State.fetchPacket (s : State) (core : Nat) (ias : List Nat) : Fetch :=
  let first := ias.headD 0
  let judge := fun (s : State) (l : Line) => match [0, 1, 2].find? (fun i => l.poison.contains (codeAt first (ias.getD i 0) / 64)) with
    | some i => Fetch.mem (.region 0x60 0) (4 * i)
    | none => .ok s
  match s.codeLine core first (tailOf ias) with
  | some l => judge s l
  | none =>
    match s.fillCode core (first / 128) (tailOf ias) with
    | .error e => .mem e 0
    | .ok (s1, l) => judge (s1.modCore core (fun c => { c with l1i := (placeLine (codeSets core) 4 l c.l1i).1 })) l

/-- Fetch the three words of a thread's packet (R39): it enters the cache, or the thread takes the fault. -/
def State.fetchFor (s : State) (core wg t : Nat) : State :=
  let pc := (s.thr wg t).pc
  let got := match s.packetIas wg t with
    | .error (c, i) => Fetch.fault c i
    | .ok ias => match [0, 1, 2].find? (fun i => s.peerRefused (ias.getD i 0) 4 s.draws .read) with
      | some i => .fault 0x69 (12 * pc + 4 * i)
      | none => s.fetchPacket core ias
  match got with
  | .ok s' => s'
  | .fault c i => s.takeFault wg t ⟨c, i, pc, 0#32, 0, s.clk⟩ 0#3 pc
  | .mem (.region c i) o => s.takeFault wg t ⟨c, if c = 0x60 then 12 * pc + o else i, pc, 0#32, 0, s.clk⟩ 0#3 pc
  | .mem .refused o => s.takeFault wg t ⟨0x69, 12 * pc + o, pc, 0#32, 0, s.clk⟩ 0#3 pc
  | .mem (.notRes tr page ev) _ =>
    let g := s.wgrp wg
    s.reportPage g.part g.dom tr page ev (s.threadReport 0 0x40 0 wg t pc 0)
  -- R375: no port to the peer can be used yet
  | .mem (.held _) _ => s

/-- The packet of a thread as its core's instruction cache holds it. -/
def State.packetOf (s : State) (core wg t : Nat) : Option (List Word) :=
  match s.packetIas wg t with
  | .error _ => none
  | .ok ias =>
    let first := ias.headD 0
    match s.codeLine core first (tailOf ias) with
    | none => none
    | some l => ias.mapM (fun a => (l.bytesAt (codeAt first a) 4).map (fun b => BitVec.ofNat 32 (leVal b)))

/-! ## Readiness (R39, R171, R223, R363, R436) -/

def guardPreds (w : Word) : List Nat := let g := nbits w.toNat 23 22; if g = 0 then [] else [g]

/-- The scoreboard codes of a packet. -/
def packetCodes (ws : List Word) : List Nat :=
  (packetInstrs ws).flatMap (fun i => (i.opns.flatMap Opn.codes) ++ i.preds.map predKey) ++
  (instrPos ws).flatMap (fun p => (guardPreds (wordAt ws p)).map predKey)

/-- R335, R363: words that wait for the thread's earlier privileged register write: memory words, engine commands and system register
accesses (majors 0x50 to 0x7D). -/
def afterWrite (i : Instr) : Bool := decide (0x50 ≤ i.major) && decide (i.major ≤ 0x7D)

/-- What a packet needs of a port: the resource, how many entries, what names the one pop that serves a braid, and how many there
are. -/
structure Need where
  res : Nat
  n : Nat
  shared : Option (List Nat)
  avail : Nat
  deriving DecidableEq, Repr

def Stream.filledRun (x : Stream) : Nat → Nat → Nat
  | _, 0 => 0
  | i, k + 1 => if x.slots.getD (i % x.slots.length) .free = Slot.filled then 1 + Stream.filledRun x (i + 1) k else 0

/-- R223, R225, R404: of the words of the cycles given, those that a thread will execute or may execute, by position: not executed before, and
with a guard that is true or is one of the predicates `open_` that a word before it may write. SEL has no guard (R229). -/
def Thread.mayRun (x : Thread) (ws : List Word) : List (List Nat) → List Nat → List (Nat × Instr)
  | [], _ => []
  | c :: r, open_ =>
    let now := c.filterMap (fun p =>
      let g := nbits (wordAt ws p).toNat 23 22
      if x.skip.getLsbD p || (g != 0 && majorOf (wordAt ws p) != 0x2A && !open_.contains g && !x.p.getLsbD g) then none
      else (instrAt ws p).map (fun i => (p, i)))
    now ++ Thread.mayRun x ws r (open_ ++ now.flatMap (fun i => i.2.predDests))

/-- R223: the words of a packet that will pop or push for a thread. -/
def Thread.portWords (x : Thread) (ws : List Word) : List (Nat × Instr) := x.mayRun ws (cyclesOf ws) []

/-- How many entries the words of a list push onto port `q`. -/
def pushesOf (is : List (Nat × Instr)) (q : Nat) : Nat :=
  (is.map (fun i => ((i.2.opns.flatMap Opn.pushes).filter (· == q)).length)).foldl (· + ·) 0

/-- R223, R297: the entries that a member of a packet in progress, at cycle `k`, has still to push into the channel `res`. -/
def State.memberSends (s : State) (p : Packet) (k : Nat) (m : Member) (res : Nat) : Nat :=
  let is := Thread.mayRun { s.thr m.wg m.t with skip := m.skip } p.words ((cyclesOf p.words).drop k) []
  if p.bad || (s.wgrp m.wg).ended.isSome then 0
  else ((List.range 12).map (fun q =>
    if (s.portRes m.wg (m.braid s) q).any (fun r => r.1 == res) then pushesOf is q else 0)).foldl (· + ·) 0

/-- R223, R297: the entries of a channel that the turns in progress of all cores have still to push: room for them was found when they began. -/
def State.sendsDue (s : State) (res : Nat) : Nat :=
  (s.cores.filterMap (fun c => c.2.turn)).foldl (fun n t =>
    n + (t.pkts.flatMap (fun p => p.members.map (fun m => s.memberSends p t.cycle m res))).foldl (· + ·) 0 -
      (t.uses.filter (fun u => u.res == res && u.write && u.cyc == t.cycle)).length) 0

/-- R220, R223, R297: the entries that a thread's packet pops and pushes. -/
def State.needs (s : State) (wg t : Nat) (ws : List Word) : List Need :=
  let g := s.wgrp wg
  let b := g.braidOf t
  let br := s.brd wg b
  let x := s.thr wg t
  let is := x.portWords ws
  (List.range 12).flatMap (fun q =>
    let res := ((s.portRes wg b q).getD (0, false)).1
    let uses := is.map (fun i => (i.1, (i.2.opns.flatMap Opn.pops).filter (· == q)))
    let names := (uses.map (fun u => u.2.length)).foldl (· + ·) 0
    let pushes := pushesOf is q
    match br.ports.getD q .unbound with
    | .unbound => []
    | .stream n =>
      let y := g.stream n
      (uses.filter (fun u => !u.2.isEmpty)).map (fun u =>
        ⟨res, 1, some [bkey wg b, q, x.pc, if x.priv then 1 else 0, u.1], y.filledRun y.readPos y.slots.length⟩)
    | .completion _ => if names = 0 then [] else [⟨res, names, none, (Tbl.getD br.comp q []).length⟩]
    | .channel false _ n =>
      if names = 0 then [] else [⟨res, names, none, ((g.chans.getD n []).takeWhile s.chanReady).length⟩]
    | .channel true k n =>
      if pushes = 0 then [] else [⟨res, pushes, none, 32 - ((s.wgrp (g.mate wg k)).chans.getD n []).length - s.sendsDue res⟩])

/-- What has been promised of the ports: entries by resource, and the pops that serve whole braids. -/
abbrev Promised := Tbl Nat × List (List Nat)

/-- R223: add what a packet needs to what is promised; none where a port cannot serve it. -/
def addNeeds (a : Promised) (ns : List Need) : Option Promised :=
  ns.foldl (fun a n => match a with
    | none => none
    | some (t, ks) =>
      if n.shared.any ks.contains then some (t, ks)
      else
        let k := Tbl.getD t n.res 0 + n.n
        if k ≤ n.avail then some (Tbl.put t n.res k, n.shared.toList ++ ks) else none) (some a)

/-- R160: the request of a queue entry. -/
def QEntry.reqId : QEntry → Option Nat
  | .req id => some id
  | .fence .. => none

/-- R171: a request in a tile's queue that was passed at or before a CLK. -/
def State.tileBusy (s : State) (cl t upto : Nat) : Bool :=
  (s.tile cl t).queue.any (fun e => match e.reqId with
    | some id => (Tbl.get? s.reqs id).any (fun r => decide (r.formed + 1 ≤ upto))
    | none => false)

/-- R83: a tile that a workgroup's gang claims has not yet come back after a swap. -/
def State.tileAway (s : State) (cl t wg : Nat) : Bool :=
  (s.part (s.wgrp wg).part).shadow.tiles.any (fun x => x.1 == cl && x.2.1 == t && (x.2.2.claim.getD []).contains wg)

/-- A copy request bound to a stream of a workgroup (R354). -/
def EReq.bindsStream (r : EReq) (wg n : Nat) : Bool :=
  let ctl := (r.regs.getD 5 0#32).toNat
  r.op == .cpbox && nbit ctl 31 && nbit ctl 30 && nbits ctl 29 27 == n && r.members.contains wg

/-- R363: a privileged register write of the thread is not complete. -/
def Thread.writing (x : Thread) : Bool := x.mops.any (fun m => match m.kind with | .syswr .. => true | _ => false)

/-- R75, R171, R354: what else a word waits for before its packet is ready; `at_` is the packet's first issue attempt. -/
def State.wordHeld (s : State) (core wg : Nat) (at_ : Nat) : Instr → Bool
  | .mxs _ _ => decide (8 ≤ ((s.cluster (clusterOf core)).table.filter (fun e => e.core == core)).length)
  | .smx _ _ => decide (8 ≤ ((s.cluster (clusterOf core)).table.filter (fun e => e.core == core)).length)
  | .mxrd _ o => s.tileBusy (clusterOf core) o.q.toNat at_ || s.tileAway (clusterOf core) o.q.toNat wg
  | .mxstat _ o => s.tileBusy (clusterOf core) o.q.toNat at_ || s.tileAway (clusterOf core) o.q.toNat wg
  | .stcfg _ o => s.reqs.any (fun p => p.2.bindsStream wg o.q.toNat)
  | _ => false

/-- R106, R335: a word that waits in its cycle: a read or write of FLAGS, for the flags that the braid's earlier words have not delivered;
one after a privileged register write of the thread, for that write. -/
def State.cycleWaits (s : State) (wg t : Nat) : Instr → Bool
  | .sysrd h o => (o.num == 0x40#14 && !(s.brd wg ((s.wgrp wg).braidOf t)).flagsDue.isEmpty) || ((s.thr wg t).writing && afterWrite (.sysrd h o))
  | .flagsWrite h o => !(s.brd wg ((s.wgrp wg).braidOf t)).flagsDue.isEmpty || ((s.thr wg t).writing && afterWrite (.flagsWrite h o))
  | i => (s.thr wg t).writing && afterWrite i

/-- The thread could issue, its packet apart. -/
def State.mayIssue (s : State) (x : Thread) : Bool :=
  let g := s.wgrp x.wg
  x.wait == .ready && !x.exited && !x.off && g.ended.isNone && !g.retired && !g.stopping && !g.swapped && x.clear s.clk notBefore

/-- R39: the packet that a ready thread would issue. -/
def State.ready (s : State) (core : Nat) (x : Thread) : Option (List Word) :=
  if !s.mayIssue x then none
  else match s.packetOf core x.wg x.t with
    | none => none
    | some ws =>
      if !(packetCodes ws).all (x.clear s.clk) then none
      else if (addNeeds ([], []) (s.needs x.wg x.t ws)).isNone then none
      else if (instrPos ws).any (fun p => decide (0x50 ≤ majorOf (wordAt ws p)) && decide (majorOf (wordAt ws p) < 0x70)) &&
        decide ((if isRhizoid core then 16 else 32) ≤ s.logCount core) then none
      else if (packetInstrs ws).any (fun i => s.wordHeld core x.wg (x.attempt.getD s.clk) i || s.cycleWaits x.wg x.t i) then none
      else some ws

/-- R171: note the first issue attempt of the threads of a core that could otherwise issue. -/
def State.noteAttempts (s : State) (core : Nat) : State :=
  { s with threads := s.threads.map (fun p =>
      if (s.wgrp p.2.wg).coreOf p.2.t = core ∧ s.mayIssue p.2 = true ∧ p.2.attempt = none then
        (match s.packetOf core p.2.wg p.2.t with
          | some ws => if (packetCodes ws).all (p.2.clear s.clk) then (p.1, { p.2 with attempt := some s.clk }) else p
          | none => p)
      else p) }

/-! ## Groups (R40 to R42) -/

/-- A ready thread of a window. -/
structure Cand where
  wg : Nat
  t : Nat
  lane : Nat
  row : Nat
  pc : Nat
  bound : Option Nat
  starve : Nat
  hold : Bool
  words : List Word
  /-- R45: for how many cc it has been ready and passed over. -/
  late : Nat
  deriving DecidableEq, Repr

/-- The workgroup row of a thread (R33, R202). -/
def Workgroup.rowOf (g : Workgroup) (t : Nat) : Nat := if g.stack.isSome then t / 768 else t / 64

/-- Threads of a list that are ready, their bound sets apart. -/
def State.cands (s : State) (core : Nat) (xs : List Thread) : List Cand :=
  xs.filterMap (fun x => (s.ready core x).map (fun ws =>
    (⟨x.wg, x.t, x.lane, (s.wgrp x.wg).rowOf x.t, x.pc, x.bound, x.starve, x.hold, ws, if x.starve = 0 then 0 else s.clk - x.since⟩ : Cand)))

/-- R39, R47, R258: the ready threads of a list that may be taken: not held by YIELD, and of a bound set only with every other member. -/
def State.free (s : State) (cs : List Cand) : List Cand :=
  let ok := cs.filter (fun c => !c.hold)
  ok.filter (fun c => match c.bound with
    | none => true
    | some b => (s.threadsOf c.wg).all (fun u => u.bound != some b || ok.any (fun d => d.wg == u.wg && d.t == u.t && d.pc == c.pc)))

/-- R216, R400: two threads stand at one packet: the same PC and, whatever the address space, the same words (DESIGN CHOICE, log entry 78). -/
def Cand.same (a b : Cand) : Bool := a.pc == b.pc && a.words == b.words

def laneCount (cs : List Cand) (at_ : Cand) (taken : List Nat) : Nat :=
  (((cs.filter (fun c => c.same at_ && !taken.contains c.lane)).map Cand.lane).eraseDups).length

/-- R41: a thread at the PC with the largest population over the free lanes; ties go to the lower PC. -/
def bestPc (cs : List Cand) (taken : List Nat) : Option Cand :=
  match maxBy (fun c => laneCount cs c taken) (sortBy Cand.pc cs) with
  | some c => if laneCount cs c taken = 0 then none else some c
  | none => none

/-- Place a bound set, if none of its lanes is taken. -/
def placeSet (set : List Cand) (got : List Cand × List Nat) : List Cand × List Nat :=
  if set.any (fun c => got.2.contains c.lane) then got else (got.1 ++ set, got.2 ++ set.map Cand.lane)

/-- R41, R42: fill a packet's lanes with threads that stand where `at_` does: the starved thread or its set first, then bound sets, then
unbound threads by row. -/
def fillAt (cs : List Cand) (at_ : Cand) (first : Option Cand) (taken : List Nat) : List Cand × List Nat :=
  let here := sortBy (fun c => c.row * 64 + c.lane) (cs.filter (fun c => c.same at_))
  let setOf := fun (c : Cand) => match c.bound with
    | none => [c]
    | some b => here.filter (fun d => d.bound == some b)
  let g0 : List Cand × List Nat := match first with
    | some c => placeSet (setOf c) ([], taken)
    | none => ([], taken)
  let sets := ((here.filterMap Cand.bound).eraseDups)
  let g1 := sets.foldl (fun g b => placeSet (here.filter (fun d => d.bound == some b)) g) g0
  (here.filter (fun c => c.bound.isNone)).foldl (fun g c => placeSet [c] g) g1

/-- R45: the thread that has been ready and passed over longest, of those for which it has been 1,000 cc: without it the promise of R45 could be
broken, so it goes before R41 and R42 (DESIGN CHOICE, log entry 77). -/
def lateMain (cs : List Cand) : Option Cand := maxBy Cand.late (cs.filter (fun c => decide (1000 ≤ c.late)))

/-- R42: the starved thread of a window that is served first: of the lowest row, and there of the lowest home lane. -/
def starvedMain (cs : List Cand) : Option Cand :=
  (lateMain cs).or (minBy (fun c => c.row * 64 + c.lane) (cs.filter (fun c => decide (16 ≤ c.starve))))

/-- R203: on a rhizoid core, the thread that has been passed over longest, from 64 turns on: with at most 256 threads and turns of at most
12 mc, each is issued within 4,096 mc (DESIGN CHOICE, log entry 77). -/
def starvedRhizoid (cs : List Cand) : Option Cand := maxBy Cand.starve (cs.filter (fun c => decide (64 ≤ c.starve)))

/-- R41, R42: the group of a window, `st` the starved thread that is served first: the packets' threads. -/
def formGroup (cs : List Cand) (st : Option Cand) (two : Bool) : List (List Cand) :=
  match st.or (bestPc cs []) with
  | none => []
  | some pa =>
    let (a, taken) := fillAt cs pa st []
    if !two then [a]
    else
      let others := cs.filter (fun c => !c.same pa)
      let late := lateMain (others.filter (fun c => !taken.contains c.lane))
      match late.or (bestPc others taken) with
      | none => [a]
      | some pb => [a, (fillAt others pb late taken).1]

/-- R47, R223: the threads of a group in ascending home lane order, while the ports can serve them; a bound set is taken whole or not
at all. -/
def State.servePorts (s : State) (group : List (List Cand)) : List (List Cand) :=
  let all := sortBy Cand.lane group.flatten
  let units := (all.map (fun c => match c.bound with
    | none => [c]
    | some b => all.filter (fun d => d.bound == some b))).eraseDups
  let got := (units.foldl (fun (a : List Cand × Promised) u =>
    match addNeeds a.2 (u.flatMap (fun c => s.needs c.wg c.t c.words)) with
    | some p => (a.1 ++ u, p)
    | none => a) ([], ([], []))).1
  (group.map (fun p => p.filter got.contains)).filter (fun p => !p.isEmpty)

/-! ## Turns (R40, R42, R43, R258) -/

/-- Which latches of a thread are valid. -/
def Thread.validLatches (x : Thread) : List Bool := x.latch.map Option.isSome

def Member.new (x : Thread) : Member :=
  { wg := x.wg, t := x.t, lane := x.lane, snap := x.v, p0 := x.p ||| 1#32, ps := x.p ||| 1#32, skip := x.skip, failed := 0#3,
    target := none, wait := none, waitPos := 0, exit := false, yielded := false, trapret := false, lv := x.validLatches, fault := none }

/-- The words of the issue cycle that a turn has come to, by packet and position: those that it has held back, or all of the cycle's. -/
def Turn.cycleWords (t : Turn) : List (Nat × Nat) :=
  if !t.held.isEmpty then t.held
  else (List.range t.pkts.length).flatMap (fun i =>
    match t.pkts[i]? with
    | some p => if p.bad then [] else ((cyclesOf p.words).getD t.cycle []).map (fun q => (i, q))
    | none => [])

/-- The acts of that cycle. -/
def Turn.cycleActs (core : Nat) (t : Turn) : List Act := t.cycleWords.map (fun x => Act.word core x.1 x.2) ++ [.cycleEnd core]

/-- R106, R335: the next cycle of a turn, or what it has held back, waits: a word of it has something to wait for in some thread, whose
workgroup goes on. -/
def State.turnWaits (s : State) (t : Turn) : Bool :=
  t.cycleWords.any (fun x => match t.pkts[x.1]? with
    | some p => (instrAt p.words x.2).any (fun i =>
      p.members.any (fun m => !m.skip.getLsbD x.2 && (s.wgrp m.wg).ended.isNone && s.cycleWaits m.wg m.t i))
    | none => false)

/-- R141, R335, R363: a word is held back: it follows a command register's write of one of its threads in its own cycle, or a word that is held
back. -/
def State.holdsWord (s : State) (core pkt pos : Nat) : Bool :=
  match s.turnOf core with
  | none => false
  | some t => match t.pkts[pkt]? with
    | none => false
    | some p =>
      (!t.held.isEmpty && t.held.head? != some (pkt, pos)) ||
      ((instrAt p.words pos).any afterWrite && p.members.any (fun m => t.acts.any (fun a => match a with
        | .priv wg _ th _ n _ _ _ _ => wg == m.wg && th == m.t && sysCommand n
        | _ => false)))

/-- The word is held back, until nothing of the cycle waits any more. -/
def State.holdWord (s : State) (core pkt pos : Nat) : State :=
  s.modTurn core (fun t => if t.held.contains (pkt, pos) then t else { t with held := t.held ++ [(pkt, pos)] })

/-- The word is executed now. -/
def State.freeWord (s : State) (core pkt pos : Nat) : State :=
  s.modTurn core (fun t => { t with held := t.held.filter (· != (pkt, pos)) })

/-- R258: the YIELD holds of threads end with their window's turn. -/
def State.endHolds (s : State) (xs : List Thread) : State :=
  (xs.filter Thread.hold).foldl (fun s x => s.modThr x.wg x.t (fun y => { y with hold := false })) s

/-- R43: begin a turn with the packets of a group: `window` are the threads that were ready for it and `xs` all of the window. -/
def State.beginTurn (s : State) (core : Nat) (group : List (List Cand)) (window : List Cand) (xs : List Thread) : State :=
  let num := (s.core core).turns + 1
  let inGroup := fun (c : Cand) => group.any (fun p => p.any (fun d => d.wg == c.wg && d.t == c.t))
  -- starvation counts of the window (R42); YIELD holds end (R258)
  let s1 := (window.foldl (fun s c => s.modThr c.wg c.t (fun x =>
    if inGroup c || c.hold then x else { x with starve := x.starve + 1, since := if x.starve = 0 then s.clk else x.since })) s).endHolds xs
  let s2 := group.flatten.foldl (fun s c => s.modThr c.wg c.t (fun x => { x with
    starve := 0, lastTurn := num, attempt := none,
    latch := if x.lastTurn + 1 = num then x.latch else [none, none, none, none] })) s1
  let pkts := group.map (fun p =>
    let ms := (sortBy Cand.lane p).map (fun c => Member.new (s2.thr c.wg c.t))
    let ws := (p.headD ⟨0, 0, 0, 0, 0, none, 0, false, [0#32, 0#32, 0#32], 0⟩).words
    (⟨(p.headD ⟨0, 0, 0, 0, 0, none, 0, false, [], 0⟩).pc, ws, (illegalAt ws).isSome, ms⟩ : Packet))
  let s3 := group.flatten.foldl (fun s c => s.modThr c.wg c.t (fun x => { x with skip := 0#3 })) s2
  let t : Turn := ⟨num, 0, pkts, [], [], []⟩
  let s4 := s3.modCore core (fun c => { c with turn := some t, turns := num })
  s4.dueNext (t.cycleActs core)

/-- R42: threads of a window that are not ready are not starving. -/
def State.clearStarve (s : State) (core : Nat) (xs : List Thread) (window : List Cand) : State :=
  (xs.filter (fun x => (s.wgrp x.wg).coreOf x.t == core && !window.any (fun c => c.wg == x.wg && c.t == x.t) && x.starve != 0 && !x.hold)).foldl
    (fun s x => s.modThr x.wg x.t (fun y => { y with starve := 0 })) s

/-- R59, R83: threads resident on a core: not those whose context is swapped out. -/
def State.coreThreads (s : State) (core : Nat) : List Thread :=
  (Tbl.vals s.threads).filter (fun x => (s.wgrp x.wg).coreOf x.t == core && !(s.wgrp x.wg).swapped)

/-- R40: the windows of a core: the physical slot of its lowest row, and its threads; in ring order from the one after the
last served. -/
def State.windows (s : State) (core : Nat) : List (Nat × List Thread) :=
  let xs := s.coreThreads core
  let key := fun (x : Thread) => let g := s.wgrp x.wg; g.rows.getD (g.rowOf x.t / 4 * 4) 0
  let ks := sortBy id ((xs.map key).eraseDups)
  let last := (s.core core).lastWin
  let (after, before) := match last with
    | none => (ks, [])
    | some l => (ks.filter (fun k => decide (l < k)), ks.filter (fun k => decide (k ≤ l)))
  (after ++ before).map (fun k => (k, xs.filter (fun x => key x == k)))

/-- R45: the windows with a thread that goes before R41 and R42, the longest passed over first. -/
def State.lateWindows (s : State) (core : Nat) (ws : List (Nat × List Thread)) : List (Nat × List Thread) :=
  let l := ws.filterMap (fun w => (lateMain (s.free (s.cands core w.2))).map (fun c => (c.late, w)))
  ((sortBy (fun (x : Nat × Nat × List Thread) => 2 ^ 64 - x.1) l).map Prod.snd)

/-- R40, R258: take the first window with a thread that may issue; a window whose ready threads are all held by YIELD is
passed over, which ends its holds. DESIGN CHOICE (log entry 89): a window whose group comes out empty, because its ports cannot serve a ready
bound set whole (R47, R223), is passed over and has had no turn. -/
def State.takeWindow (s : State) (core : Nat) : List (Nat × List Thread) → State
  | [] => s
  | (k, xs) :: r =>
    let now := xs.map (fun x => s.thr x.wg x.t)
    let cs := s.cands core now
    let free := s.free cs
    if free.isEmpty then State.takeWindow (if cs.any Cand.hold then s.endHolds now else s) core r
    else
      let group := s.servePorts (formGroup free (starvedMain free) true)
      if group.isEmpty then State.takeWindow s core r
      else ((s.clearStarve core now free).modCore core (fun c => { c with lastWin := some k })).beginTurn core group free now

/-- Fetch for every thread of a core that could issue. -/
def State.fetchCore (s : State) (core : Nat) : State :=
  (s.coreThreads core).foldl (fun s x => if s.mayIssue (s.thr x.wg x.t) then s.fetchFor core x.wg x.t else s) s

/-- ISSUE_TURN (R39 to R43): the free issue stage of a main-die core begins a turn, where a window has a ready thread. -/
def execIssueTurn (core : Nat) (s : State) : Res :=
  .next (if (s.core core).turn.isSome || (s.core core).halted || s.tripped then s
    else
      let s1 := (s.fetchCore core).noteAttempts core
      let ws := s1.windows core
      s1.takeWindow core (s1.lateWindows core ws ++ ws ++ ws))

/-- RHIZOID_ISSUE (R203): one group of one packet, from all resident rows of a rhizoid core. -/
def execRhizoidIssue (stack pos : Nat) (s : State) : Res :=
  let core := 192 + 48 * stack + pos
  .next (if (s.core core).turn.isSome || s.tripped then s
    else
      let s1 := (s.fetchCore core).noteAttempts core
      let xs := s1.coreThreads core
      let cs := s1.cands core xs
      let free := (s1.free cs).map (fun c => { c with row := (s1.thr c.wg c.t).row })
      if free.isEmpty then (if cs.any Cand.hold then s1.endHolds xs else s1)
      else
        let group := s1.servePorts (formGroup free (starvedRhizoid free) false)
        if group.isEmpty then s1 else (s1.clearStarve core xs free).beginTurn core group free xs)

/-! ## The end of a cycle (R106, R224, R295, R296, R354, R363) -/

/-- R362: of two writers of one register in a cycle, the first stands: by one braid, the lower home lane; by several, the lower thread
number. -/
def privBeats (acts : List CycAct) (num wg' b' t' l' wg b t lane : Nat) : Bool :=
  let one := acts.all (fun a => match a with | .priv w x _ _ n _ _ _ _ => n != num || (w == wg && x == b) | _ => true)
  if one then wg' == wg && b' == b && decide (l' < lane) else decide (t' < t) || (t' == t && decide (wg' < wg))

/-- R362: a write of a register by one workgroup and by another names one register: the RRSEL window is each partition's own. -/
def State.oneReg (s : State) (n wg wg' : Nat) : Bool :=
  !(decide (0x1100 ≤ n) && decide (n ≤ 0x1104)) || (s.wgrp wg).part == (s.wgrp wg').part

/-- R362: the writes of a register by threads of other cores in this cc, not yet made: workgroup, thread and stamp. -/
def State.rivals (s : State) (wg core n : Nat) : List (Nat × Nat × Nat) :=
  s.threads.flatMap (fun p => (p.2.mops.filter (fun m => m.born == s.clk && m.core != core && s.oneReg n wg p.2.wg && (match m.kind with
    | .syswr n' _ started => n' == n && !started
    | _ => false))).map (fun m => (p.2.wg, p.2.t, m.seq)))

/-- R362: a write of a privileged register becomes a pending word; of the writers on several cores in one cycle the lowest thread number stands. -/
def State.startWrite (s : State) (wg t n : Nat) (m : MOp) : State :=
  let rs := s.rivals wg m.core n
  if rs.any (fun r => decide (r.2.1 < t) || (r.2.1 == t && decide (r.1 < wg))) then s
  else (rs.foldl (fun s r => s.dropMop r.1 r.2.1 r.2.2) s).addMop wg t m

/-- One effect that lands at the end of the cycle. Among writers of one item the lowest lane or thread stands: `acts` are
the effects of the cycle. -/
def State.land (s : State) (acts : List CycAct) : CycAct → State
  | .pred wg t i v => s.modThr wg t (fun x => { x with p := setPred x.p i v })
  | .flagsSet wg b lane f =>
    if acts.any (fun a => match a with | .flagsSet wg' b' l' _ => wg' == wg && b' == b && decide (l' < lane) | _ => false) then s
    else s.modBrd wg b (fun x => { x with flags := f })
  | .flags wg b ready f => s.modBrd wg b (fun x => { x with flagsDue := x.flagsDue ++ [(ready, f)] })
  | .segb wg b lane v dep =>
    if acts.any (fun a => match a with | .segb wg' b' l' _ _ => wg' == wg && b' == b && decide (l' < lane) | _ => false) then s
    else s.modBrd wg b (fun x => { x with segb := v, segbDep := dep })
  | .bind wg b port lane v =>
    if acts.any (fun a => match a with | .bind wg' b' p' l' _ => wg' == wg && b' == b && p' == port && decide (l' < lane) | _ => false) then s
    else s.modBrd wg b (fun x => { x with ports := setAt x.ports port v })
  | .code wg b i v => s.modBrd wg b (fun x => { x with codebook := setAt x.codebook i v })
  | .stcfg wg n t x =>
    -- R326, R449: a pair of the cycle that is not legal takes every write of the stream with it
    if acts.any (fun a => match a with | .stcfg wg' n' t' y => wg' == wg && n' == n && (y.isNone || decide (t' < t)) | _ => false) then s
    else s.modStream wg n (fun y => x.getD y)
  | .qfence wg b pkt lane v =>
    if acts.any (fun a => match a with | .qfence wg' b' p' l' _ => wg' == wg && b' == b && p' == pkt && decide (l' < lane) | _ => false) then s
    else { s with qfences := s.qfences ++ [(wg, b, v)] }
  | .priv wg b t lane num v pc raw wpos =>
    if acts.any (fun a => match a with | .priv wg' b' t' l' n' _ _ _ _ => n' == num && privBeats acts num wg' b' t' l' wg b t lane | _ => false) then s
    else s.startWrite wg t num { MOp.mk0 (.syswr num v false) 0 0 0 0 pc raw wpos with word := s.seq, core := (s.wgrp wg).coreOf t, scope := 4 }

/-- R217: the number of cycles of a packet. -/
def Packet.cycles (p : Packet) : Nat := if p.bad then 1 else (cyclesOf p.words).length

/-- The end of an issue cycle: its effects land, its workgroups are charged (R68), and packets and the turn that have
finished end. -/
def State.endCycle (s : State) (core : Nat) : State :=
  match s.turnOf core with
  | none => s
  | some t =>
    if !t.held.isEmpty then
      -- R335: the command registers are written, and the words held back go on when the commands have completed
      let isPriv := fun (a : CycAct) => match a with | .priv .. => true | _ => false
      let now := t.acts.filter isPriv
      (now.foldl (fun s a => s.land now a) s).modTurn core (fun u => { u with acts := u.acts.filter (fun a => !isPriv a) })
    else
    let sets := t.acts.filter (fun a => match a with | .flagsSet .. => true | _ => false)
    let rest := t.acts.filter (fun a => match a with | .flagsSet .. => false | _ => true)
    let s1 := (sets ++ rest).foldl (fun s a => s.land t.acts a) s
    let live := t.pkts.filter (fun p => decide (t.cycle < p.cycles) && !p.bad)
    let wgs := (live.flatMap (fun p => p.members.map Member.wg)).eraseDups
    let s2 := wgs.foldl (fun s w => s.modWg w (fun g => { g with charge := g.charge + 1 })) s1
    let s3 := s2.modTurn core (fun u => { u with
      acts := [], cycle := t.cycle + 1,
      pkts := u.pkts.map (fun p => { p with members := p.members.map (fun m => { m with ps := (s2.thr m.wg m.t).p ||| 1#32, lv := (s2.thr m.wg m.t).validLatches }) }) })
    let ends := (List.range t.pkts.length).filter (fun i => match t.pkts[i]? with
      | some p => p.cycles == t.cycle + 1
      | none => false)
    let all := t.pkts.all (fun p => decide (p.cycles ≤ t.cycle + 1))
    s3.dueNext (ends.map (fun i => Act.packetEnd core i) ++ (if all then [.turnEnd core] else []))

/-! ## The end of a packet (R246, R247, R255, R398, R401 to R404, R430) -/

/-- R404: read the frame at a VA as the thread's stores left it (R147): its doubles, or a cause of R397, or a page that is
not resident. -/
def State.readFrame (s : State) (core wg t fva : Nat) : Except MErr (State × List Nat) :=
  if 2 ^ 57 ≤ fva then .error (.region 0x44 0)
  else if fva % 8 != 0 then .error (.region 0x43 0)
  else if 2 ^ 57 < fva + 128 then .error (.region 0x44 0)
  else
    let q := (s.brd wg ((s.wgrp wg).braidOf t)).storeQ
    let rd := fun (a : Except MErr (State × List Nat)) (i : Nat) => match a with
      | .error e => .error e
      | .ok (s, ds) =>
        match s.checkVa (s.asidOf wg t) (fva + 8 * i) 8 .read with
        | .error c => .error (.region c 0)
        | .ok (ia, pol) =>
          match s.coreLoad core ia 8 pol 0 with
          | .error e => .error e
          | .ok (s1, bs, p, _) =>
            if p then .error (.region 0x60 0)
            else
              let m : Tbl Byte := (q.filter (fun e => !e.scratch && overlaps e.ia e.data.length ia 8)).foldl
                (fun m e => (e.data.zip (rangeFrom e.ia e.data.length)).foldl (fun m p => Tbl.put m p.2 p.1) m)
                ((rangeFrom ia 8).zip bs)
              .ok (s1, ds ++ [leVal ((rangeFrom ia 8).map (fun a => Tbl.getD m a 0#8))])
    (List.range 16).foldl rd (.ok (s, []))

/-- TRAPRET at the end of its packet (R404). -/
def State.finishTrapret (s : State) (core : Nat) (p : Packet) (m : Member) : State :=
  let fva := m.reg64 0
  let pos := ((instrPos p.words).find? (fun q => majorOf (wordAt p.words q) == 0x7E)).getD 0
  let raw := wordAt p.words pos
  match s.readFrame core m.wg m.t fva with
  | .ok (s1, ds) => s1.trapReturn m.wg m.t fva ds p.pc raw
  | .error (.notRes tr page ev) =>
    -- the frame's page is served, and the TRAPRET alone is executed again
    let g := s.wgrp m.wg
    (s.reportPage g.part g.dom tr page ev (s.threadReport 0 0x40 0 m.wg m.t p.pc raw.toNat)).modThr m.wg m.t
      (fun x => { x with skip := posMask (instrPos p.words) &&& ~~~(1#3 <<< pos) })
  | .error (.held _) => s.modThr m.wg m.t (fun x => { x with skip := posMask (instrPos p.words) &&& ~~~(1#3 <<< pos) })
  | .error (.region c i) =>
    if causeClass c = 3 ∧ c ≠ 0x60 then s.takeFault m.wg m.t ⟨c, i, p.pc, raw, pos, s.clk⟩ 0#3 p.pc
    -- R461: a poisoned frame is a device structure, of cause 0x61 (DEDUCED, log entry 28)
    else s.raiseFatal m.wg ⟨0x1B, if c = 0x60 then 0x61 else c, m.t, p.pc, raw, s.clk⟩
  | .error .refused => s.raiseFatal m.wg ⟨0x1B, 0x69, m.t, p.pc, raw, s.clk⟩

/-- R251, R402, R472: the words of a packet that can take effect: a NOP has none. -/
def effectPos (ws : List Word) : List Nat := (instrPos ws).filter (fun q => majorOf (wordAt ws q) != 0)

/-- R402: the other words of the packet of a member's waiting word that took effect. -/
def Packet.others (p : Packet) (pos : Nat) : BitVec 3 := posMask (effectPos p.words) &&& ~~~(1#3 <<< pos)

/-- R247: the thread takes the wait of its packet. A REJOIN or BAR waits since its signature. -/
def State.takeWait (s : State) (p : Packet) (m : Member) : State :=
  let enter := fun (w : Wait) => s.modThr m.wg m.t (fun x => { x with
    wait := w, resume := p.pc + 1, waitWord := (p.pc, wordAt p.words m.waitPos), waitAt := (m.waitPos, p.others m.waitPos) })
  match m.wait with
  | some (.sleep wake) => if wake ≤ s.clk then s.modThr m.wg m.t (fun x => { x with pc := p.pc + 1 }) else enter (.sleep wake)
  | some (.waitge va target scope lr) => (enter (.waitge va target scope lr)).due (.event (.waitgeReread m.wg m.t))
  | some (.waitp pr va target scope) =>
    let s1 := enter (.waitp pr va target scope)
    if pr ≤ s.clk then s1.due (.event (.waitpRead m.wg m.t)) else s1
  | _ => s

/-- R258: after a packet that holds YIELD the thread is held out of its window's next turn. -/
def State.takeYield (s : State) (m : Member) : State :=
  if m.yielded then s.modThr m.wg m.t (fun x => { x with hold := true }) else s

/-- R246: the thread moves on; `exits` says that an EXIT of its packet takes effect (R255). -/
def State.moveOn (s : State) (core : Nat) (p : Packet) (m : Member) (exits : Bool) : State :=
  if m.exit && exits then s.exitThread m.wg m.t
  else if m.trapret then s.finishTrapret core p m
  else if m.wait.isSome then s.takeWait p m
  else s.modThr m.wg m.t (fun x => { x with pc := m.target.getD (p.pc + 1) })

/-- R430: an asynchronous trap that is pending at the end of a packet. -/
def State.takeAsync (s : State) (wg t : Nat) : State :=
  let x := s.thr wg t
  match x.async with
  | [] => s
  | a :: r =>
    if x.exited || x.off then s
    else
      (s.modThr wg t (fun y => { y with async := r })).takeFault wg t a 0#3 (if x.wait = .ready then x.pc else x.resume)

/-- R247, R398: the fault of a member at the end of its packet. -/
def State.memberFault (s : State) (p : Packet) (m : Member) : Option Async :=
  if p.bad then
    let pos := (illegalAt p.words).getD 0
    some ⟨0x12, 0, p.pc, wordAt p.words pos, pos, s.clk⟩
  else if m.wait.isSome && m.target.isSome && (match m.fault with
    | none => true
    | some (pos, a) => causeClass a.cause == 0 || decide (m.waitPos ≤ pos)) then
    some ⟨0x12, 0, p.pc, wordAt p.words m.waitPos, m.waitPos, s.clk⟩
  else m.fault.map Prod.snd

/-- R398, R401, R402: a member takes its fault. -/
def State.takeMemberFault (s : State) (p : Packet) (m : Member) (a : Async) : State :=
  let exits := (instrPos p.words).filter (fun q => majorOf (wordAt p.words q) == 0x06)
  let done := if p.bad then 0#3 else posMask (effectPos p.words) &&& ~~~m.failed &&&
    ~~~(if m.exit then posMask exits else 0#3)
  let rpc := if a.cause = 0x01 ∧ m.exit = false then m.target.getD (p.pc + 1) else p.pc
  (s.takeWait p m).takeFault m.wg m.t a done rpc

/-- R397, R401: a recoverable fault of a thread ends its workgroup: it is in a block, in privileged mode or with TEN clear, or its frame cannot
be stored. -/
def State.endsAnyway (s : State) (wg t : Nat) : Bool :=
  let g := s.wgrp wg
  let p := s.part g.part
  g.stack.isSome || (s.thr wg t).priv || !p.tctl.getLsbD 0 ||
    (match s.checkVa (nbits p.tasid.toNat 11 0) (s.frameVa wg t) 16 .write with | .error _ => true | .ok _ => false)

/-- The end of a packet for one thread: its fault is taken (R398, R401), or it moves on. A workgroup that has just ended notes the faults of
the cycle (R407, R408) and does nothing more. -/
def State.finishMember (s : State) (core : Nat) (p : Packet) (m : Member) : State :=
  let g := s.wgrp m.wg
  if g.retired || g.stopping then s
  else match s.memberFault p m with
    | none => if g.ended.isSome then s else ((s.moveOn core p m true).takeYield m).takeAsync m.wg m.t
    | some a =>
      if g.ended.isSome && causeClass a.cause == 0 && !s.endsAnyway m.wg m.t then s
      else if a.cause = 0x20 then
        -- R255: the lane runs on, and an EXIT of the packet does not take effect
        let s1 := s.noteLane m.wg m.t a
        if g.ended.isSome then s1 else ((s1.moveOn core p m false).takeYield m).takeAsync m.wg m.t
      else (s.takeMemberFault p m a).takeYield m

/-- R47: a bound set whose members' PCs differ after a packet dissolves. -/
def State.checkBounds (s : State) (ms : List Member) : State :=
  let bs := (ms.filterMap (fun m => (s.thr m.wg m.t).bound)).eraseDups
  bs.foldl (fun s b =>
    let xs := (Tbl.vals s.threads).filter (fun x => x.bound == some b)
    let pcs := (xs.map (fun x => if x.wait = .ready then x.pc else x.resume)).eraseDups
    if pcs.length ≤ 1 then s else s.dissolve (some b)) s

/-- The end of a packet (R246, R398). -/
def State.endPacket (s : State) (core pkt : Nat) : State :=
  match (s.turnOf core).bind (fun t => t.pkts[pkt]?) with
  | none => s
  | some p => (p.members.foldl (fun s m => s.finishMember core p m) s).checkBounds p.members

/-- R43: the issue stage is free again. -/
def State.endTurn (s : State) (core : Nat) : State := s.modCore core (fun c => { c with turn := none })

/-- R412, R413: a word that decodes to no instruction. -/
def badWord (s : State) : State :=
  match s.cur with
  | none => s
  | some c =>
    let ms := s.members c.core c.pkt
    (List.range ms.length).foldl (fun s i => match ms[i]? with
      | some m => if m.skip.getLsbD c.pos then s else s.faultMember c i 0x10 0
      | none => s) s

end Sys2Proof.Machine
end

