-- ==== Sys2Proof/Machine/Integer.lean ====
section
/-! DEFINITION. Integer, predicate and selection words (spec 10, R265 to R274; latencies R248). -/

namespace Sys2Proof.Machine

/-! ## The operations -/

/-- R265: the high half of the signed product. -/
def mulHiS (a b : Word) : Word := BitVec.ofInt 32 (a.toInt * b.toInt / 2 ^ 32)
/-- R265: the high half of the unsigned product. -/
def mulHiU (a b : Word) : Word := BitVec.ofNat 32 (a.toNat * b.toNat / 2 ^ 32)
def minS (a b : Word) : Word := if a.toInt ≤ b.toInt then a else b
def maxS (a b : Word) : Word := if b.toInt ≤ a.toInt then a else b
def minU (a b : Word) : Word := if a.toNat ≤ b.toNat then a else b
def maxU (a b : Word) : Word := if b.toNat ≤ a.toNat then a else b
/-- R265: a count of 32 or more shifts everything out. -/
def shlW (a b : Word) : Word := if b.toNat < 32 then a <<< b.toNat else 0#32
def shrW (a b : Word) : Word := if b.toNat < 32 then a >>> b.toNat else 0#32
def sarW (a b : Word) : Word := if b.toNat < 32 then a.sshiftRight b.toNat else if a.msb then 0xFFFFFFFF#32 else 0#32

/-- R269. -/
def popcW (a : Word) : Word := BitVec.ofNat 32 (Num.popcount 32 a.toNat)
def clzW (a : Word) : Word := BitVec.ofNat 32 (if a = 0#32 then 32 else 31 - Nat.log2 a.toNat)
def brevW (a : Word) : Word := a.reverse
def ctzW (a : Word) : Word := BitVec.ofNat 32 (if a = 0#32 then 32 else 31 - Nat.log2 a.reverse.toNat)
def negW (a : Word) : Word := 0#32 - a
def absW (a : Word) : Word := if a.msb then 0#32 - a else a

/-- R270: result byte `i` of BSWZ. -/
def bswzByte (pool sel i : Nat) : Nat :=
  let f := nbits sel (5 * i + 4) (5 * i)
  let x := (pool / 2 ^ (8 * (f % 8))) % 256
  if f / 8 = 0 then x else if f / 8 = 1 then 0 else if f / 8 = 2 then (if 128 ≤ x then 255 else 0) else 255

/-- R270. -/
def bswzW (a b sel : Word) : Word :=
  let pool := a.toNat + 2 ^ 32 * b.toNat
  BitVec.ofNat 32 (bswzByte pool sel.toNat 0 + 2 ^ 8 * bswzByte pool sel.toNat 1 + 2 ^ 16 * bswzByte pool sel.toNat 2 +
    2 ^ 24 * bswzByte pool sel.toNat 3)

/-- R227, R271: a condition code on two integers. -/
def condI (cond : BitVec 2) (a b : Int) : Bool :=
  if cond = 0#2 then decide (a = b) else if cond = 1#2 then decide (a ≠ b) else if cond = 2#2 then decide (a < b) else decide (a ≤ b)

/-- R228, R273: the bit of the table that two predicates select. -/
def tableBit (tbl : BitVec 4) (a b : Bool) : Bool := tbl.getLsbD (2 * a.toNat + b.toNat)

/-! ## Shapes of this family -/

/-- A constant to one 32-bit result. -/
def op0 (lat : Nat) (n : Bool) (d : BitVec 7) (r : Word) (s : State) (c : Cur) (m : Member) : Lane State :=
  s.result c m n d r lat 0 0

/-- R150: the greatest dependence of the predicates. -/
def State.predsDep (s : State) (m : Member) : Nat := (rangeFrom 1 31).foldl (fun d i => max d (s.predDep m i)) 0

/-- A compare of two sources into a predicate (R271). -/
def opCmp (lat : Nat) (o : OpCP) (f : Word → Word → Bool) (s : State) (c : Cur) (m : Member) : Lane State :=
  match s.src c m o.a with
  | .error e => .error e
  | .ok (s1, x) =>
    match s1.src c m o.b with
    | .error e => .error e
    | .ok (s2, y) => .ok (s2.putPred c m o.pd.toNat (f x.v y.v) lat (max x.ready y.ready) (max x.dep y.dep))

/-- R268: two pairs to a pair. -/
def opIadd64 (o : OpRR) (s : State) (c : Cur) (m : Member) : Lane State :=
  match (s.firstBad m o.a.toNat 2).or (s.firstBad m o.b.toNat 2) with
  | some r => .error (0x62, r)
  | none => s.result64 c m o.n o.d (dwordOf (m.reg o.a.toNat) (m.reg (o.a.toNat + 1)) + dwordOf (m.reg o.b.toNat) (m.reg (o.b.toNat + 1)))
      5 0 (max (s.regsDep m o.a.toNat 2) (s.regsDep m o.b.toNat 2))

/-- R268: a pair and a signed offset to a pair. -/
def opAddx64 (o : OpRR) (s : State) (c : Cur) (m : Member) : Lane State :=
  match s.firstBad m o.a.toNat 2 with
  | some r => .error (0x62, r)
  | none =>
    match s.src c m o.b with
    | .error e => .error e
    | .ok (s1, y) => s1.result64 c m o.n o.d (dwordOf (m.reg o.a.toNat) (m.reg (o.a.toNat + 1)) + y.v.signExtend 64)
        5 y.ready (max (s.regsDep m o.a.toNat 2) y.dep)

/-- R272: the predicate that SEL's guard field selects picks one of two sources. -/
def opSel (h : Hdr) (o : OpRR) (s : State) (c : Cur) (m : Member) : Lane State :=
  match s.src c m o.a with
  | .error e => .error e
  | .ok (s1, x) =>
    match s1.src c m o.b with
    | .error e => .error e
    | .ok (s2, y) =>
      s2.result c m o.n o.d (if h.g == 0#2 || m.ps.getLsbD h.g.toNat then x.v else y.v) 4 (max x.ready y.ready)
        (max (s.predDep m h.g.toNat) (max x.dep y.dep))

/-- R273. -/
def opPlop (o : OpPL) (s : State) (c : Cur) (m : Member) : Lane State :=
  .ok (s.putPred c m o.pd.toNat (tableBit o.tbl (m.ps.getLsbD o.pa.toNat) (m.ps.getLsbD o.pb.toNat)) 2 0 (max (s.predDep m o.pa.toNat) (s.predDep m o.pb.toNat)))

/-- R274: the bits of v[A] become predicates 1 to 31. -/
def opV2p (o : OpA) (s : State) (c : Cur) (m : Member) : Lane State :=
  match s.src c m o.a with
  | .error e => .error e
  | .ok (s1, x) => .ok ((rangeFrom 1 31).foldl (fun s i => s.putPred c m i (x.v.getLsbD i) 2 x.ready x.dep) s1)

/-! ## The words -/

/-- R265. -/
def execIadd (h : Hdr) (o : OpRR) (s : State) : Res :=
  .next (perLane wV h (Instr.iadd h o).opns (op2 4 o.n o.d o.a o.b (fun a b => a + b)) s)

/-- R265. -/
def execIsub (h : Hdr) (o : OpRR) (s : State) : Res :=
  .next (perLane wV h (Instr.isub h o).opns (op2 4 o.n o.d o.a o.b (fun a b => a - b)) s)

/-- R265. -/
def execImul (h : Hdr) (o : OpRR) (s : State) : Res :=
  .next (perLane wV h (Instr.imul h o).opns (op2 6 o.n o.d o.a o.b (fun a b => a * b)) s)

/-- R265. -/
def execImulhiI (h : Hdr) (o : OpRR) (s : State) : Res :=
  .next (perLane wV h (Instr.imulhiI h o).opns (op2 6 o.n o.d o.a o.b mulHiS) s)

/-- R265. -/
def execImulhiN (h : Hdr) (o : OpRR) (s : State) : Res :=
  .next (perLane wV h (Instr.imulhiN h o).opns (op2 6 o.n o.d o.a o.b mulHiU) s)

/-- R265. -/
def execIminI (h : Hdr) (o : OpRR) (s : State) : Res :=
  .next (perLane wV h (Instr.iminI h o).opns (op2 4 o.n o.d o.a o.b minS) s)

/-- R265. -/
def execImaxI (h : Hdr) (o : OpRR) (s : State) : Res :=
  .next (perLane wV h (Instr.imaxI h o).opns (op2 4 o.n o.d o.a o.b maxS) s)

/-- R265. -/
def execIminN (h : Hdr) (o : OpRR) (s : State) : Res :=
  .next (perLane wV h (Instr.iminN h o).opns (op2 4 o.n o.d o.a o.b minU) s)

/-- R265. -/
def execImaxN (h : Hdr) (o : OpRR) (s : State) : Res :=
  .next (perLane wV h (Instr.imaxN h o).opns (op2 4 o.n o.d o.a o.b maxU) s)

/-- R265. -/
def execLand (h : Hdr) (o : OpRR) (s : State) : Res :=
  .next (perLane wV h (Instr.land h o).opns (op2 4 o.n o.d o.a o.b (fun a b => a &&& b)) s)

/-- R265. -/
def execLor (h : Hdr) (o : OpRR) (s : State) : Res :=
  .next (perLane wV h (Instr.lor h o).opns (op2 4 o.n o.d o.a o.b (fun a b => a ||| b)) s)

/-- R265. -/
def execLxor (h : Hdr) (o : OpRR) (s : State) : Res :=
  .next (perLane wV h (Instr.lxor h o).opns (op2 4 o.n o.d o.a o.b (fun a b => a ^^^ b)) s)

/-- R265. -/
def execShl (h : Hdr) (o : OpRR) (s : State) : Res :=
  .next (perLane wV h (Instr.shl h o).opns (op2 4 o.n o.d o.a o.b shlW) s)

/-- R265. -/
def execShr (h : Hdr) (o : OpRR) (s : State) : Res :=
  .next (perLane wV h (Instr.shr h o).opns (op2 4 o.n o.d o.a o.b shrW) s)

/-- R265. -/
def execSar (h : Hdr) (o : OpRR) (s : State) : Res :=
  .next (perLane wV h (Instr.sar h o).opns (op2 4 o.n o.d o.a o.b sarW) s)

/-- R266. -/
def execImad (h : Hdr) (o : OpRRD) (s : State) : Res :=
  .next (perLane wV h (Instr.imad h o).opns (op3 6 o.n o.d o.a o.b (fun a b d => a * b + d)) s)

/-- R267. -/
def execIaddi (h : Hdr) (o : OpRI) (s : State) : Res :=
  .next (perLane wV h (Instr.iaddi h o).opns (op1 4 o.n o.d o.a (fun a => a + o.imm.signExtend 32)) s)

/-- R267. -/
def execAndi (h : Hdr) (o : OpRI) (s : State) : Res :=
  .next (perLane wV h (Instr.andi h o).opns (op1 4 o.n o.d o.a (fun a => a &&& o.imm.setWidth 32)) s)

/-- R267. -/
def execOri (h : Hdr) (o : OpRI) (s : State) : Res :=
  .next (perLane wV h (Instr.ori h o).opns (op1 4 o.n o.d o.a (fun a => a ||| o.imm.setWidth 32)) s)

/-- R267. -/
def execXori (h : Hdr) (o : OpRI) (s : State) : Res :=
  .next (perLane wV h (Instr.xori h o).opns (op1 4 o.n o.d o.a (fun a => a ^^^ o.imm.setWidth 32)) s)

/-- R267. -/
def execShli (h : Hdr) (o : OpSh) (s : State) : Res :=
  .next (perLane wV h (Instr.shli h o).opns (op1 4 o.n o.d o.a (fun a => a <<< o.amt.toNat)) s)

/-- R267. -/
def execShri (h : Hdr) (o : OpSh) (s : State) : Res :=
  .next (perLane wV h (Instr.shri h o).opns (op1 4 o.n o.d o.a (fun a => a >>> o.amt.toNat)) s)

/-- R267. -/
def execSari (h : Hdr) (o : OpSh) (s : State) : Res :=
  .next (perLane wV h (Instr.sari h o).opns (op1 4 o.n o.d o.a (fun a => a.sshiftRight o.amt.toNat)) s)

/-- R267. -/
def execMovi (h : Hdr) (o : OpI14) (s : State) : Res :=
  .next (perLane wV h (Instr.movi h o).opns (op0 2 o.n o.d (o.imm.signExtend 32)) s)

/-- R268. -/
def execIadd64 (h : Hdr) (o : OpRR) (s : State) : Res :=
  .next (perLane wV h (Instr.iadd64 h o).opns (opIadd64 o) s)

/-- R268. -/
def execAddx64 (h : Hdr) (o : OpRR) (s : State) : Res :=
  .next (perLane wV h (Instr.addx64 h o).opns (opAddx64 o) s)

/-- R271: signed. -/
def execIsetpI (h : Hdr) (o : OpCP) (s : State) : Res :=
  .next (perLane wP h (Instr.isetpI h o).opns (opCmp 2 o (fun a b => condI o.cond a.toInt b.toInt)) s)

/-- R271: unsigned. -/
def execIsetpN (h : Hdr) (o : OpCP) (s : State) : Res :=
  .next (perLane wP h (Instr.isetpN h o).opns (opCmp 2 o (fun a b => condI o.cond a.toNat b.toNat)) s)

/-- R272: never guarded (R229). -/
def execSel (h : Hdr) (o : OpRR) (s : State) : Res :=
  .next (perLane wSel h (Instr.sel h o).opns (opSel h o) s)

/-- R273: pushes no latch. -/
def execPlop (h : Hdr) (o : OpPL) (s : State) : Res :=
  .next (perLane wP h (Instr.plop h o).opns (opPlop o) s)

/-- R274. -/
def execP2v (h : Hdr) (o : OpND) (s : State) : Res :=
  .next (perLane wV h (Instr.p2v h o).opns (fun s c m => s.result c m o.n o.d (m.ps ||| 1#32) 3 0 (s.predsDep m)) s)

/-- R274: pushes no latch. -/
def execV2p (h : Hdr) (o : OpA) (s : State) : Res :=
  .next (perLane wP h (Instr.v2p h o).opns (opV2p o) s)

/-- R269. -/
def execPopc (h : Hdr) (o : OpRF) (s : State) : Res :=
  .next (perLane wV h (Instr.popc h o).opns (op1 4 o.n o.d o.a popcW) s)

/-- R269. -/
def execClz (h : Hdr) (o : OpRF) (s : State) : Res :=
  .next (perLane wV h (Instr.clz h o).opns (op1 4 o.n o.d o.a clzW) s)

/-- R269. -/
def execBrev (h : Hdr) (o : OpRF) (s : State) : Res :=
  .next (perLane wV h (Instr.brev h o).opns (op1 4 o.n o.d o.a brevW) s)

/-- R269. -/
def execCtz (h : Hdr) (o : OpRF) (s : State) : Res :=
  .next (perLane wV h (Instr.ctz h o).opns (op1 4 o.n o.d o.a ctzW) s)

/-- R269. -/
def execLnot (h : Hdr) (o : OpRF) (s : State) : Res :=
  .next (perLane wV h (Instr.lnot h o).opns (op1 4 o.n o.d o.a (fun a => ~~~a)) s)

/-- R269. -/
def execNeg (h : Hdr) (o : OpRF) (s : State) : Res :=
  .next (perLane wV h (Instr.neg h o).opns (op1 4 o.n o.d o.a negW) s)

/-- R269. -/
def execAbs (h : Hdr) (o : OpRF) (s : State) : Res :=
  .next (perLane wV h (Instr.abs h o).opns (op1 4 o.n o.d o.a absW) s)

/-- R270. -/
def execBswz (h : Hdr) (o : OpRRD) (s : State) : Res :=
  .next (perLane wV h (Instr.bswz h o).opns (op3 4 o.n o.d o.a o.b bswzW) s)

end Sys2Proof.Machine
end

