-- ==== Sys2Proof/Machine/Float.lean ====
section
/-! DEFINITION. Floating-point words, conversions and special functions (spec 11, R276 to R288; R103 to R106). -/

namespace Sys2Proof.Machine
open Sys2Proof.Machine.Num

/-! ## The operations -/

/-- R279: a compare code on two F32 values. -/
def condF (cond : BitVec 2) (a b : Word) : Bool :=
  let x := d32 a
  let y := d32 b
  if cond = 0#2 then !x.isNan && !y.isNan && cmp x y == .eq
  else if cond = 1#2 then x.isNan || y.isNan || cmp x y != .eq
  else if cond = 2#2 then lt x y else le x y

/-- R280: the integral value of a magnitude by a mode (0 down, 1 up, 2 toward zero, 3 to nearest even). -/
def intMag (mode : Nat) (s : Bool) (m k : Nat) : Nat :=
  let q := m / 2 ^ k
  let rem := m % 2 ^ k
  let half := 2 ^ (k - 1)
  let up := if mode = 0 then s && rem != 0 else if mode = 1 then !s && rem != 0
    else if mode = 2 then false else decide (half < rem) || (rem == half && q % 2 == 1)
  if up then q + 1 else q

/-- R280: an F32 value to an integral value. -/
def roundF (mode : Nat) (a : Word) : Word × Flags :=
  match d32 a with
  | .nan => (0x7FC00000#32, 0#5)
  | .inf _ => (a, 0#5)
  | .fin s m e =>
    if 0 ≤ e then (a, 0#5)
    else
      let r := BitVec.ofNat 32 (rne f32 (.fin s (intMag mode s m (-e).toNat) 0))
      (r, if mode = 3 ∧ r ≠ a then fInexact else 0#5)

/-- R280: FABS and FNEG. -/
def fabsW (a : Word) : Word × Flags := (if (d32 a).isNan then 0x7FC00000#32 else a &&& 0x7FFFFFFF#32, 0#5)
def fnegW (a : Word) : Word × Flags := (if (d32 a).isNan then 0x7FC00000#32 else a ^^^ 0x80000000#32, 0#5)

/-- R282: the minimum word and the maximum word. -/
def hminmax (f : Fmt) (a b : Word) : Dword := dwordOf (halves2 (fMin f) a b).1 (halves2 (fMax f) a b).1

/-! ### Conversions (R239, R283, R284, R286) -/

/-- R283, R284: the exact value of a source. -/
def cvtIn (src : BitVec 3) (a : Word) : Val :=
  if src = 0#3 then Num.decode f32 a.toNat
  else if src = 1#3 then Num.decode bf16 (a.toNat % 65536)
  else if src = 2#3 then Num.decode f16 (a.toNat % 65536)
  else if src = 3#3 then Num.decode e4m3 (a.toNat % 256)
  else if src = 4#3 then Num.decode e5m2 (a.toNat % 256)
  else if src = 5#3 then ofI a.toInt
  else if src = 6#3 then ofI a.toNat
  else ofI (sextNat a.toNat 8)

/-- R283, R284: an exact value to a destination, with its flags. -/
def cvtOut (dst : BitVec 3) (rz : Bool) (x : Val) : Word × Flags :=
  let fl := fun (f : Fmt) => let r := roundTo f rz x; (BitVec.ofNat 32 r.1, r.2)
  let it := fun (lo hi : Int) => let r := toIntFmt lo hi rz x; (BitVec.ofInt 32 r.1, r.2)
  if dst = 0#3 then fl f32 else if dst = 1#3 then fl bf16 else if dst = 2#3 then fl f16 else if dst = 3#3 then fl e4m3
  else if dst = 4#3 then fl e5m2 else if dst = 5#3 then it (-2147483648) 2147483647
  else if dst = 6#3 then it 0 4294967295 else it (-127) 127

/-- R286: the shift of GQCVT. -/
def gqShift (b : Word) : Int := sextNat b.toNat 9

/-- R286: GQCVT.Q. -/
def gqcvtQ (a b : Word) : Dword × Flags :=
  match d32 a with
  | .fin s m e =>
    let r := toIntFmt (-9223372036854775808) 9223372036854775807 false (.fin s m (e + gqShift b))
    (BitVec.ofInt 64 r.1, r.2)
  | _ => (0#64, fInvalid)

/-- R286: GQCVT.F. -/
def gqcvtF (a : Dword) (b : Word) : Word × Flags :=
  let r := roundTo f32 false (ofInt a.toInt (-gqShift b))
  (BitVec.ofNat 32 r.1, r.2)

/-! ### Special functions (R287, R288): values good to far below one ulp, in units of 2^-192 -/

def fxMul (a b : Int) : Int := a * b / 2 ^ 192

/-- The sum of x^k / k! by steps of `by_` with alternating sign where `alt`. -/
def powSeries (x : Int) (alt : Bool) (by_ : Nat) : Nat → Nat → Int → Int
  | 0, _, _ => 0
  | n + 1, k, t =>
    let t1 := if by_ = 1 then fxMul t x / (k + 1) else fxMul (fxMul t x) x / ((k + 1) * (k + 2))
    t + powSeries x alt by_ n (k + by_) (if alt then -t1 else t1)

def fxExp (x : Int) : Int := powSeries x false 1 140 0 (2 ^ 192)
def fxSin (x : Int) : Int := powSeries x true 2 90 1 x
def fxCos (x : Int) : Int := powSeries x true 2 90 0 (2 ^ 192)

/-- The sum of z^k / k over odd k. -/
def oddSeries (z2 : Int) : Nat → Nat → Int → Int
  | 0, _, _ => 0
  | n + 1, k, t => t / k + oddSeries z2 n (k + 2) (fxMul t z2)

/-- The logarithm of m / 2^192, between 1 and 2. -/
def fxLn (m : Int) : Int :=
  let z := (m - 2 ^ 192) * 2 ^ 192 / (m + 2 ^ 192)
  2 * oddSeries (fxMul z z) 70 1 z

def fxLn2 : Int := fxLn (2 ^ 193)

/-- The arc tangent of 1 / n in units of 2^-448. -/
def atanInv (n : Nat) : Nat → Nat → Nat → Int
  | 0, _, _ => 0
  | i + 1, k, p => ((2 ^ 448 / (k * p) : Nat) : Int) - atanInv n i (k + 2) (p * n * n)

/-- 2 pi in units of 2^-448. -/
def twoPi : Int := 2 * (16 * atanInv 5 110 1 5 - 4 * atanInv 239 60 1 239)

/-- A finite value modulo 2 pi. -/
def reduce2pi (s : Bool) (m : Nat) (e : Int) : Int :=
  let a : Int := (m * 2 ^ (e + 448).toNat : Nat)
  (if s then -a else a) % twoPi / 2 ^ 256

/-- A finite value in units of 2^-192 (F32 values have none smaller). -/
def toFx (s : Bool) (m : Nat) (e : Int) : Int :=
  let a : Int := (m * 2 ^ (e + 192).toNat : Nat)
  if s then -a else a

/-- R287: the distance between the two F32 values that bracket a value. -/
def ulpAt (y : Val) : Val :=
  let x := (roundTo f32 true y.abs).1
  dist (Num.decode f32 x) (Num.decode f32 (x + 1))

/-- R287: the free bits of a function where they lie within the accuracy; otherwise the nearest F32 value. -/
def sfuPick (fn : Nat) (a : Word) (y bound : Val) : Word :=
  let c := Config.sfuBits fn a
  match d32 c with
  | .fin s m e => if le (dist y (.fin s m e)) bound then c else r32 y
  | _ => r32 y

def twoUlp (y : Val) : Val := mul (ofI 2) (ulpAt y)

/-- R288: inexact, and underflow where the result is tiny. -/
def inexactAt (r : Word) : Flags := fInexact ||| (if r.toNat % 2 ^ 31 < 0x00800000 then fUnderflow else 0#5)

def picked (fn : Nat) (a : Word) (y bound : Val) : Word × Flags :=
  let r := sfuPick fn a y bound
  (r, inexactAt r)

/-- R287, R288: 2 to the power a. -/
def sfuEx2 (a : Word) : Word × Flags :=
  match d32 a with
  | .nan => (0x7FC00000#32, 0#5)
  | .inf s => (if s then 0#32 else 0x7F800000#32, 0#5)
  | .fin s m e =>
    let x := toFx s m e
    let n := x / 2 ^ 192
    let f := x % 2 ^ 192
    if 128 ≤ n then (0x7F800000#32, fOverflow ||| fInexact)
    else if x < -150 * 2 ^ 192 then (0#32, fUnderflow ||| fInexact)
    else if f = 0 ∧ -149 ≤ n then (r32 (.fin false 1 n), 0#5)
    else
      let y : Val := .fin false (fxExp (fxMul f fxLn2)).toNat (n - 192)
      picked 3 a y (twoUlp y)

/-- R287, R288: the logarithm to base 2. -/
def sfuLg2 (a : Word) : Word × Flags :=
  match d32 a with
  | .nan => (0x7FC00000#32, 0#5)
  | .inf s => if s then (0x7FC00000#32, fInvalid) else (0x7F800000#32, 0#5)
  | .fin s m e =>
    if m = 0 then (0xFF800000#32, fDivZero)
    else if s then (0x7FC00000#32, fInvalid)
    else
      let l := Nat.log2 m
      let n : Int := l + e
      if m = 2 ^ l then (r32 (ofI n), 0#5)
      else
        let mant : Int := (m * 2 ^ (192 - l) : Nat)
        let y := ofInt (n * 2 ^ 192 + fxLn mant * 2 ^ 192 / fxLn2) (-192)
        picked 4 a y (if n = -1 ∨ n = 0 then .fin false 1 (-22) else twoUlp y)

/-- R287, R288: the sine and the cosine. -/
def sfuTrig (fn : Nat) (isCos : Bool) (a : Word) : Word × Flags :=
  match d32 a with
  | .nan => (0x7FC00000#32, 0#5)
  | .inf _ => (0x7FC00000#32, fInvalid)
  | .fin s m e =>
    if m = 0 then (if isCos then 0x3F800000#32 else a, 0#5)
    else
      let r := reduce2pi s m e
      let y := ofInt (if isCos then fxCos r else fxSin r) (-192)
      picked fn a y (.fin false 1 (-22))

/-- R287, R288: the hyperbolic tangent. -/
def sfuTanh (a : Word) : Word × Flags :=
  match d32 a with
  | .nan => (0x7FC00000#32, 0#5)
  | .inf s => (if s then 0xBF800000#32 else 0x3F800000#32, 0#5)
  | .fin s m e =>
    let x := toFx false m e
    if m = 0 then (a, 0#5)
    else if x < 2 ^ 180 then (a, inexactAt a)
    else if 19 * 2 ^ 191 ≤ x then (if s then 0xBF800000#32 else 0x3F800000#32, fInexact)
    else
      let p := fxExp (2 * x)
      let t := (p - 2 ^ 192) * 2 ^ 192 / (p + 2 ^ 192)
      let y := ofInt (if s then -t else t) (-192)
      picked 7 a y (twoUlp y)

/-- R104, R287: RCP, RSQRT and SQRT, correctly rounded. -/
def rounded32 (v : Val) (fl : Flags) : Word × Flags :=
  if v.isNan then (0x7FC00000#32, fl)
  else
    let r := roundTo f32 false v
    (BitVec.ofNat 32 r.1, fl ||| r.2)

def sfuRcp (a : Word) : Word × Flags := let r := div (ofI 1) (d32 a); rounded32 r.1 r.2
def sfuRsqrt (a : Word) : Word × Flags := let r := rsqrtVal (d32 a); rounded32 r.1 r.2
def sfuSqrt (a : Word) : Word × Flags := let r := sqrtVal (d32 a); rounded32 r.1 r.2

/-! ## Shapes of this family -/

/-- R282: two packed sources to a pair. -/
def opMinmax (f : Fmt) (o : OpRR) (s : State) (c : Cur) (m : Member) : Lane State :=
  match s.src c m o.a with
  | .error e => .error e
  | .ok (s1, x) =>
    match s1.src c m o.b with
    | .error e => .error e
    | .ok (s2, y) => s2.result64 c m o.n o.d (hminmax f x.v y.v) 4 (max x.ready y.ready) (max x.dep y.dep)

/-- R286: GQCVT.Q. -/
def opGqcvtQ (o : OpRR) (s : State) (c : Cur) (m : Member) : Lane State :=
  match s.src c m o.a with
  | .error e => .error e
  | .ok (s1, x) =>
    match s1.src c m o.b with
    | .error e => .error e
    | .ok (s2, y) =>
      let r := gqcvtQ x.v y.v
      (s2.raiseFlags c m 6 (max x.ready y.ready) r.2).result64 c m o.n o.d r.1 6 (max x.ready y.ready) (max x.dep y.dep)

/-- R286: GQCVT.F. -/
def opGqcvtF (o : OpRR) (s : State) (c : Cur) (m : Member) : Lane State :=
  match s.firstBad m o.a.toNat 2 with
  | some r => .error (0x62, r)
  | none =>
    match s.src c m o.b with
    | .error e => .error e
    | .ok (s1, y) =>
      let r := gqcvtF (dwordOf (m.reg o.a.toNat) (m.reg (o.a.toNat + 1))) y.v
      (s1.raiseFlags c m 6 y.ready r.2).result c m o.n o.d r.1 6 y.ready (max (s.regsDep m o.a.toNat 2) y.dep)

/-! ## The words -/

/-- R277. -/
def execFadd (h : Hdr) (o : OpRR) (s : State) : Res :=
  .next (perLane wV h (Instr.fadd h o).opns (fop2 4 o.n o.d o.a o.b (w2 (fAdd f32))) s)

/-- R277. -/
def execFsub (h : Hdr) (o : OpRR) (s : State) : Res :=
  .next (perLane wV h (Instr.fsub h o).opns (fop2 4 o.n o.d o.a o.b (w2 (fSub f32))) s)

/-- R277. -/
def execFmul (h : Hdr) (o : OpRR) (s : State) : Res :=
  .next (perLane wV h (Instr.fmul h o).opns (fop2 4 o.n o.d o.a o.b (w2 (fMul f32))) s)

/-- R277. -/
def execFmin (h : Hdr) (o : OpRR) (s : State) : Res :=
  .next (perLane wV h (Instr.fmin h o).opns (fop2 4 o.n o.d o.a o.b (w2 (fMin f32))) s)

/-- R277. -/
def execFmax (h : Hdr) (o : OpRR) (s : State) : Res :=
  .next (perLane wV h (Instr.fmax h o).opns (fop2 4 o.n o.d o.a o.b (w2 (fMax f32))) s)

/-- R277. -/
def execFdiv (h : Hdr) (o : OpRR) (s : State) : Res :=
  .next (perLane wV h (Instr.fdiv h o).opns (fop2 24 o.n o.d o.a o.b (w2 (fDivide f32))) s)

/-- R278. -/
def execFfma (h : Hdr) (o : OpRRD) (s : State) : Res :=
  .next (perLane wV h (Instr.ffma h o).opns (fop3 4 o.n o.d o.a o.b (fun a b d => let r := fFma f32 a.toNat b.toNat d.toNat; (BitVec.ofNat 32 r.1, r.2))) s)

/-- R279: raises no flag. -/
def execFsetp (h : Hdr) (o : OpCP) (s : State) : Res :=
  .next (perLane wP h (Instr.fsetp h o).opns (opCmp 2 o (condF o.cond)) s)

/-- R280. -/
def execFabs (h : Hdr) (o : OpRF) (s : State) : Res :=
  .next (perLane wV h (Instr.fabs h o).opns (fop1 4 o.n o.d o.a fabsW) s)

/-- R280. -/
def execFneg (h : Hdr) (o : OpRF) (s : State) : Res :=
  .next (perLane wV h (Instr.fneg h o).opns (fop1 4 o.n o.d o.a fnegW) s)

/-- R280. -/
def execFfloor (h : Hdr) (o : OpRF) (s : State) : Res :=
  .next (perLane wV h (Instr.ffloor h o).opns (fop1 4 o.n o.d o.a (roundF 0)) s)

/-- R280. -/
def execFceil (h : Hdr) (o : OpRF) (s : State) : Res :=
  .next (perLane wV h (Instr.fceil h o).opns (fop1 4 o.n o.d o.a (roundF 1)) s)

/-- R280. -/
def execFtrunc (h : Hdr) (o : OpRF) (s : State) : Res :=
  .next (perLane wV h (Instr.ftrunc h o).opns (fop1 4 o.n o.d o.a (roundF 2)) s)

/-- R280. -/
def execFrint (h : Hdr) (o : OpRF) (s : State) : Res :=
  .next (perLane wV h (Instr.frint h o).opns (fop1 4 o.n o.d o.a (roundF 3)) s)

/-- R281. -/
def execHadd2Bf16 (h : Hdr) (o : OpRR) (s : State) : Res :=
  .next (perLane wV h (Instr.hadd2Bf16 h o).opns (fop2 4 o.n o.d o.a o.b (halves2 (fAdd bf16))) s)

/-- R281. -/
def execHadd2F16 (h : Hdr) (o : OpRR) (s : State) : Res :=
  .next (perLane wV h (Instr.hadd2F16 h o).opns (fop2 4 o.n o.d o.a o.b (halves2 (fAdd f16))) s)

/-- R281. -/
def execHmul2Bf16 (h : Hdr) (o : OpRR) (s : State) : Res :=
  .next (perLane wV h (Instr.hmul2Bf16 h o).opns (fop2 4 o.n o.d o.a o.b (halves2 (fMul bf16))) s)

/-- R281. -/
def execHmul2F16 (h : Hdr) (o : OpRR) (s : State) : Res :=
  .next (perLane wV h (Instr.hmul2F16 h o).opns (fop2 4 o.n o.d o.a o.b (halves2 (fMul f16))) s)

/-- R281. -/
def execHfma2Bf16 (h : Hdr) (o : OpRRD) (s : State) : Res :=
  .next (perLane wV h (Instr.hfma2Bf16 h o).opns (fop3 4 o.n o.d o.a o.b (halves3 (fFma bf16))) s)

/-- R281. -/
def execHfma2F16 (h : Hdr) (o : OpRRD) (s : State) : Res :=
  .next (perLane wV h (Instr.hfma2F16 h o).opns (fop3 4 o.n o.d o.a o.b (halves3 (fFma f16))) s)

/-- R282. -/
def execHminmax2Bf16 (h : Hdr) (o : OpRR) (s : State) : Res :=
  .next (perLane wV h (Instr.hminmax2Bf16 h o).opns (opMinmax bf16 o) s)

/-- R282. -/
def execHminmax2F16 (h : Hdr) (o : OpRR) (s : State) : Res :=
  .next (perLane wV h (Instr.hminmax2F16 h o).opns (opMinmax f16 o) s)

/-- R283, R284. -/
def execCvt (h : Hdr) (o : OpCvt) (s : State) : Res :=
  .next (perLane wV h (Instr.cvt h o).opns (fop1 4 o.n o.d o.a (fun a => cvtOut o.dst o.rz (cvtIn o.src a))) s)

/-- R286. -/
def execGqcvtQ (h : Hdr) (o : OpRR) (s : State) : Res :=
  .next (perLane wV h (Instr.gqcvtQ h o).opns (opGqcvtQ o) s)

/-- R286. -/
def execGqcvtF (h : Hdr) (o : OpRR) (s : State) : Res :=
  .next (perLane wV h (Instr.gqcvtF h o).opns (opGqcvtF o) s)

/-- R287, R288. -/
def execRcp (h : Hdr) (o : OpRF) (s : State) : Res :=
  .next (perLane wV h (Instr.rcp h o).opns (fop1 16 o.n o.d o.a sfuRcp) s)

/-- R287, R288. -/
def execRsqrt (h : Hdr) (o : OpRF) (s : State) : Res :=
  .next (perLane wV h (Instr.rsqrt h o).opns (fop1 16 o.n o.d o.a sfuRsqrt) s)

/-- R287, R288. -/
def execSqrt (h : Hdr) (o : OpRF) (s : State) : Res :=
  .next (perLane wV h (Instr.sqrt h o).opns (fop1 16 o.n o.d o.a sfuSqrt) s)

/-- R287, R288. -/
def execEx2 (h : Hdr) (o : OpRF) (s : State) : Res :=
  .next (perLane wV h (Instr.ex2 h o).opns (fop1 20 o.n o.d o.a sfuEx2) s)

/-- R287, R288. -/
def execLg2 (h : Hdr) (o : OpRF) (s : State) : Res :=
  .next (perLane wV h (Instr.lg2 h o).opns (fop1 20 o.n o.d o.a sfuLg2) s)

/-- R287, R288. -/
def execSin (h : Hdr) (o : OpRF) (s : State) : Res :=
  .next (perLane wV h (Instr.sin h o).opns (fop1 20 o.n o.d o.a (sfuTrig 5 false)) s)

/-- R287, R288. -/
def execCos (h : Hdr) (o : OpRF) (s : State) : Res :=
  .next (perLane wV h (Instr.cos h o).opns (fop1 20 o.n o.d o.a (sfuTrig 6 true)) s)

/-- R287, R288. -/
def execTanh (h : Hdr) (o : OpRF) (s : State) : Res :=
  .next (perLane wV h (Instr.tanh h o).opns (fop1 20 o.n o.d o.a sfuTanh) s)

end Sys2Proof.Machine
end

