-- ==== Sys2Proof/Machine/Cross.lean ====
section
/-! DEFINITION. Cross-lane words, narrow decode, the codebook, port bindings and the clock (spec 11, R289 to R298; R46,
R47, R418). -/

namespace Sys2Proof.Machine
open Sys2Proof.Machine.Num

/-! ## Co-issue sets (R46, R289) -/

/-- A member that executes a word, with its place in the packet and what it has read. -/
abbrev Seat (α : Type) := Nat × Member × α

/-- Every member reads its operands; one whose read faults takes no part (DESIGN CHOICE, log entry 18). -/
def readAll {α : Type} (c : Cur) (f : State → Member → Lane (State × α)) : List (Nat × Member) → State → State × List (Seat α)
  | [], s => (s, [])
  | (i, m) :: r, s =>
    match f s m with
    | .ok (s1, x) =>
      let (s2, l) := readAll c f r s1
      (s2, (i, m, x) :: l)
    | .error e => readAll c f r (if e.1 == 0 then s else s.faultMember c i e.1 e.2)

/-- The threads of the co-issue set of member `m`: those of its braid. -/
def coIssue {α : Type} (s : State) (m : Member) (l : List (Seat α)) : List (Seat α) :=
  l.filter (fun x => x.2.1.wg == m.wg && x.2.1.braid s == m.braid s)

/-- The lane of a member in its braid. -/
def Member.braidLane (s : State) (m : Member) : Nat := m.lane % (s.wgrp m.wg).w

/-- The member of a set at a lane of the braid. -/
def atLane {α : Type} (s : State) (l : List (Seat α)) (k : Nat) : Option (Seat α) := l.find? (fun x => x.2.1.braidLane s == k)

/-- Every member takes its result. -/
def putAll {α : Type} (c : Cur) (f : State → Seat α → Lane State) : List (Seat α) → State → State
  | [], s => s
  | x :: r, s =>
    match f s x with
    | .ok s1 => putAll c f r s1
    | .error e => putAll c f r (if e.1 == 0 then s else s.faultMember c x.1 e.1 e.2)

/-- The CLK from which every source of a set is there. -/
def readyAll (l : List (Seat Src)) : Nat := l.foldl (fun k x => max k x.2.2.ready) 0

/-! ## The operations -/

/-- R290: the source lane of a shuffle. -/
inductive Shfl where
  | idx | xor | up | dn
  deriving DecidableEq, Repr

def Shfl.lane (f : Shfl) (l k : Nat) : Option Nat :=
  match f with
  | .idx => some k
  | .xor => some (Nat.xor l k)
  | .up => if k ≤ l then some (l - k) else none
  | .dn => some (l + k)

/-- R290: one shuffle over the live members. -/
def doShfl (f : Shfl) (o : OpRR) (s : State) (c : Cur) (live : List (Nat × Member)) : State :=
  let (s1, xs) := readAll c (fun s m =>
    match s.src c m o.a with
    | .error e => .error e
    | .ok (s1, x) => match s1.src c m o.b with
      | .error e => .error e
      | .ok (s2, y) => .ok (s2, (x, y))) live s
  putAll c (fun s x =>
    let m := x.2.1
    let set := coIssue s m xs
    let rdy := set.foldl (fun k x => max k x.2.2.1.ready) x.2.2.2.ready
    let w := (s.wgrp m.wg).w
    let src := match f.lane (m.braidLane s) (x.2.2.2.v.toNat % 64) with
      | some k => if k < w then atLane s set k else none
      | none => none
    match src with
    | some y => s.result c m o.n o.d y.2.2.1.v 6 rdy (if y.1 = x.1 then x.2.2.1.dep else 0)
    | none => s.result c m o.n o.d x.2.2.1.v 6 rdy x.2.2.1.dep) xs s1

/-- Read the A operand of every live member. -/
def readA (a : BitVec 7) (s : State) (c : Cur) (live : List (Nat × Member)) : State × List (Seat Src) :=
  readAll c (fun s m => s.src c m a) live s

/-- R291: a predicate of a set to every thread of it. -/
def doVoteP (all : Bool) (o : OpVoteP) (s : State) (c : Cur) (live : List (Nat × Member)) : State :=
  let xs : List (Seat Unit) := live.map (fun x => (x.1, x.2, ()))
  putAll c (fun s x =>
    let ps := (coIssue s x.2.1 xs).map (fun y => y.2.1.ps.getLsbD o.ps.toNat)
    .ok (s.putPred c x.2.1 o.pd.toNat (if all then ps.all id else ps.any id) 4 0 0)) xs s

/-- R291: the mask of home lanes whose predicate is true. -/
def ballotMask (ps : Nat) (l : List (Seat Unit)) : BitVec 64 :=
  l.foldl (fun m y => if y.2.1.ps.getLsbD ps then m ||| (1#64 <<< y.2.1.lane) else m) 0#64

def doBallot (o : OpVoteB) (s : State) (c : Cur) (live : List (Nat × Member)) : State :=
  let xs : List (Seat Unit) := live.map (fun x => (x.1, x.2, ()))
  putAll c (fun s x => s.result64 c x.2.1 false o.d (ballotMask o.ps.toNat (coIssue s x.2.1 xs)) 4 0 0) xs s

def doVoteEq (o : OpVoteE) (s : State) (c : Cur) (live : List (Nat × Member)) : State :=
  let (s1, xs) := readA o.a s c live
  putAll c (fun s x =>
    let set := coIssue s x.2.1 xs
    .ok (s.putPred c x.2.1 o.pd.toNat (set.all (fun y => y.2.2.v == x.2.2.v)) 4 (readyAll set) 0)) xs s1

/-- R292: reduce the values of a set. -/
def doRedux (o : OpRF) (f : Word → Word → Word) (fin : Word → Word) (s : State) (c : Cur) (live : List (Nat × Member)) : State :=
  let (s1, xs) := readA o.a s c live
  putAll c (fun s x =>
    let set := coIssue s x.2.1 xs
    let vs := set.map (fun y => y.2.2.v)
    s.result c x.2.1 o.n o.d (fin (vs.tail.foldl f (vs.headD 0#32))) 8 (readyAll set) 0) xs s1

/-- R104, R292: minimum and maximum of F32 values; a NaN result is canonical (R89). -/
def redFmin (a b : Word) : Word := r32 (minVal (d32 a) (d32 b))
def redFmax (a b : Word) : Word := r32 (maxVal (d32 a) (d32 b))
def canonF (a : Word) : Word := r32 (d32 a)

/-- R293: one butterfly stage. -/
def doHbfly (o : OpHb) (s : State) (c : Cur) (live : List (Nat × Member)) : State :=
  let (s1, xs) := readA o.a s c live
  putAll c (fun s x =>
    let m := x.2.1
    let set := coIssue s m xs
    let l := m.braidLane s
    let p := Nat.xor l (2 ^ o.stage.toNat)
    let a := x.2.2.v
    match (if p < (s.wgrp m.wg).w then atLane s set p else none) with
    | none => s.result c m o.n o.d a 6 (readyAll set) x.2.2.dep
    | some y =>
      let r := if nbit l o.stage.toNat then w2 (fSub f32) y.2.2.v a else w2 (fAdd f32) a y.2.2.v
      (s.raiseFlags c m 6 (readyAll set) r.2).result c m o.n o.d r.1 6 (readyAll set) x.2.2.dep) xs s1

/-- R294: the BF16 code of element `i` of a word. -/
def unpkElem (book : List Half) (fmt i : Nat) (a : Word) : Nat :=
  let bits := elemBits fmt
  let x := a.toNat / 2 ^ (bits * i) % 2 ^ bits
  if fmt = 8 then (book.getD x 0#16).toNat else rne bf16 (elem [] fmt x)

def unpkW (book : List Half) (fmt pair : Nat) (a : Word) : Word :=
  BitVec.ofNat 32 (unpkElem book fmt (2 * pair) a + 65536 * unpkElem book fmt (2 * pair + 1) a)

/-- R295: lanes 0 to 7 of a set write the codebook at the end of the cycle. -/
def doCbld (o : OpA) (s : State) (c : Cur) (live : List (Nat × Member)) : State :=
  let (s1, xs) := readA o.a s c live
  putAll c (fun s x =>
    let m := x.2.1
    let l := m.braidLane s
    let v := x.2.2.v
    let s2 := s.pushWord m v (readyAt c.core (max s.clk x.2.2.ready) 4) x.2.2.dep
    .ok (if l < 8 then
      (s2.atCycleEnd c.core (.code m.wg (m.braid s) (2 * l) (v.setWidth 16))).atCycleEnd c.core
        (.code m.wg (m.braid s) (2 * l + 1) ((v >>> 16).setWidth 16))
    else s2)) xs s1

/-- R296, R418: the binding that a word names; none where it is malformed. -/
def bindingOf (w : Nat) : Option Binding :=
  let kind := nbits w 31 30
  let num := nbits w 3 0
  if nbits w 29 7 != 0 then none
  else if kind = 0 then some .unbound
  else if kind = 1 then (if num < 8 then some (.stream num) else none)
  else if kind = 2 then (if num < 12 then some (.completion num) else none)
  else some (.channel (nbit w 6) (nbits w 5 4) num)

/-- R296: bind a port, unless a thread's binding word is malformed. -/
def doQmap (o : OpDA) (s : State) (c : Cur) (live : List (Nat × Member)) : State :=
  let (s1, xs) := readA o.a s c live
  let bad := xs.any (fun x => (bindingOf x.2.2.v.toNat).isNone)
  putAll c (fun s x =>
    let m := x.2.1
    match bindingOf x.2.2.v.toNat with
    | none => .error (0x19, 0)
    | some b =>
      let s2 := s.pushWord m x.2.2.v (readyAt c.core (max s.clk x.2.2.ready) 2) x.2.2.dep
      .ok (if bad then s2 else s2.atCycleEnd c.core (.bind m.wg (m.braid s) (o.d.toNat - 112) m.lane b))) xs s1

/-! ## The words -/

/-- R290. -/
def execShflIdx (h : Hdr) (o : OpRR) (s : State) : Res :=
  .next (perGroup wV h (Instr.shflIdx h o).opns (doShfl .idx o) s)

/-- R290. -/
def execShflXor (h : Hdr) (o : OpRR) (s : State) : Res :=
  .next (perGroup wV h (Instr.shflXor h o).opns (doShfl .xor o) s)

/-- R290. -/
def execShflUp (h : Hdr) (o : OpRR) (s : State) : Res :=
  .next (perGroup wV h (Instr.shflUp h o).opns (doShfl .up o) s)

/-- R290. -/
def execShflDn (h : Hdr) (o : OpRR) (s : State) : Res :=
  .next (perGroup wV h (Instr.shflDn h o).opns (doShfl .dn o) s)

/-- R291: pushes no latch. -/
def execVoteAll (h : Hdr) (o : OpVoteP) (s : State) : Res :=
  .next (perGroup wP h (Instr.voteAll h o).opns (doVoteP true o) s)

/-- R291: pushes no latch. -/
def execVoteAny (h : Hdr) (o : OpVoteP) (s : State) : Res :=
  .next (perGroup wP h (Instr.voteAny h o).opns (doVoteP false o) s)

/-- R291. -/
def execVoteBallot (h : Hdr) (o : OpVoteB) (s : State) : Res :=
  .next (perGroup wV h (Instr.voteBallot h o).opns (doBallot o) s)

/-- R291: pushes no latch. -/
def execVoteEq (h : Hdr) (o : OpVoteE) (s : State) : Res :=
  .next (perGroup wP h (Instr.voteEq h o).opns (doVoteEq o) s)

/-- R292. -/
def execReduxAdd (h : Hdr) (o : OpRF) (s : State) : Res :=
  .next (perGroup wV h (Instr.reduxAdd h o).opns (doRedux o (fun a b => a + b) id) s)

/-- R292. -/
def execReduxMinI (h : Hdr) (o : OpRF) (s : State) : Res :=
  .next (perGroup wV h (Instr.reduxMinI h o).opns (doRedux o minS id) s)

/-- R292. -/
def execReduxMaxI (h : Hdr) (o : OpRF) (s : State) : Res :=
  .next (perGroup wV h (Instr.reduxMaxI h o).opns (doRedux o maxS id) s)

/-- R292. -/
def execReduxMinN (h : Hdr) (o : OpRF) (s : State) : Res :=
  .next (perGroup wV h (Instr.reduxMinN h o).opns (doRedux o minU id) s)

/-- R292. -/
def execReduxMaxN (h : Hdr) (o : OpRF) (s : State) : Res :=
  .next (perGroup wV h (Instr.reduxMaxN h o).opns (doRedux o maxU id) s)

/-- R292. -/
def execReduxAnd (h : Hdr) (o : OpRF) (s : State) : Res :=
  .next (perGroup wV h (Instr.reduxAnd h o).opns (doRedux o (fun a b => a &&& b) id) s)

/-- R292. -/
def execReduxOr (h : Hdr) (o : OpRF) (s : State) : Res :=
  .next (perGroup wV h (Instr.reduxOr h o).opns (doRedux o (fun a b => a ||| b) id) s)

/-- R292. -/
def execReduxXor (h : Hdr) (o : OpRF) (s : State) : Res :=
  .next (perGroup wV h (Instr.reduxXor h o).opns (doRedux o (fun a b => a ^^^ b) id) s)

/-- R292. -/
def execReduxFmin (h : Hdr) (o : OpRF) (s : State) : Res :=
  .next (perGroup wV h (Instr.reduxFmin h o).opns (doRedux o redFmin canonF) s)

/-- R292. -/
def execReduxFmax (h : Hdr) (o : OpRF) (s : State) : Res :=
  .next (perGroup wV h (Instr.reduxFmax h o).opns (doRedux o redFmax canonF) s)

/-- R293. -/
def execHbfly (h : Hdr) (o : OpHb) (s : State) : Res :=
  .next (perGroup wV h (Instr.hbfly h o).opns (doHbfly o) s)

/-- R294: raises no flag. -/
def execUnpk (h : Hdr) (o : OpUnpk) (s : State) : Res :=
  .next (perLane wV h (Instr.unpk h o).opns (fun s c m => op1 4 o.n o.d o.a (unpkW (s.brd m.wg (m.braid s)).codebook o.fmt.toNat o.pair.toNat) s c m) s)

/-- R295. -/
def execCbld (h : Hdr) (o : OpA) (s : State) : Res :=
  .next (perGroup wV h (Instr.cbld h o).opns (doCbld o) s)

/-- R296. -/
def execQmap (h : Hdr) (o : OpDA) (s : State) : Res :=
  .next (perGroup wVMain h (Instr.qmap h o).opns (doQmap o) s)

/-- R298: CLK of the issue cycle. -/
def execClkrd (h : Hdr) (o : OpD) (s : State) : Res :=
  .next (perLane wV h (Instr.clkrd h o).opns (fun s c m => s.result64 c m false o.d (BitVec.ofNat 64 s.clk) 4 0 0) s)

end Sys2Proof.Machine
end

