-- ==== Sys2Proof/Machine/MemWords.lean ====
section
/-! DEFINITION. Loads, stores, scratchpad words and PREFETCH (spec 11, R299 to R303; R432 to R434, R442). -/

namespace Sys2Proof.Machine

/-- R431: the causes of R432 whose INFO is the VA. -/
def vaInfo (cause va : Nat) : Nat := if cause = 0x59 ∨ cause = 0x5A then 0 else va % 2 ^ 57

/-- R376, R432 to R434, R442, R459: the checks of a memory word: the VA, IA and policy, or the cause. `small` says that the word
is none that region 0x2 takes; `watched` that a sector unflushed elsewhere refuses it. -/
def State.memCheck (s : State) (c : Cur) (m : Member) (w : Bool) (a : BitVec 7) (off size : Nat) (k : Access)
    (small watched : Bool) : Lane (Nat × Nat × Nat) :=
  match s.firstBad m a.toNat (if w then 2 else 1) with
  | some r => .error (0x62, r)
  | none =>
    match s.wordVa m w a.toNat off with
    | none => .error (0x44, s.rawVa m w a.toNat off)
    | some va =>
      match s.vaIa m.wg m.t va size k with
      | .error e => .error (e, vaInfo e va)
      | .ok (ia, pol) =>
        if small && isAlias ia then .error (0x49, va)
        else if watched && pol == 2 && !isRhizoid c.core && s.unflushed c.core ia size then .error (0x46, va)
        else if s.peerRefused ia size (3 * s.seq + c.pos) k then .error (0x69, va)
        else .ok (va, ia, pol)

/-- R299, R300: a load issues: it joins the thread's pending memory words, and its destination is held. -/
def loadWord (o : OpMA) (size : Nat) (signed : Bool) (s : State) (c : Cur) (m : Member) : Lane State :=
  match s.memCheck c m o.w o.a (o.off.toNat * size) size .read false true with
  | .error e => .error e
  | .ok (va, ia, pol) =>
    let op : MOp := { MOp.mk0 (.load o.d.toNat size signed) va ia pol (s.asidOf m.wg m.t) (s.pktPc c.core c.pkt) c.word c.pos with
      hint := o.hint.toNat, dep := s.addrDep m o.w o.a.toNat, word := s.seq, core := c.core }
    .ok ((s.addMop m.wg m.t op).modThr m.wg m.t (fun x =>
      (rangeFrom o.d.toNat (max 1 (size / 4))).foldl Thread.holdReg x))

/-- R146, R301: a store enters its braid's queue. -/
def State.enqueue (s : State) (m : Member) (e : SEntry) : State :=
  let (s1, q) := s.freshSeq
  s1.modBrd m.wg (m.braid s) (fun b => { b with storeQ := b.storeQ ++ [{ e with seq := q }] })

/-- R299, R301: a store issues. -/
def storeWord (o : OpMA) (size : Nat) (s : State) (c : Cur) (m : Member) : Lane State :=
  match s.memCheck c m o.w o.a (o.off.toNat * size) size .write (decide (size < 8)) false with
  | .error e => .error e
  | .ok (va, ia, pol) =>
    match s.regs m o.d.toNat (max 1 (size / 4)) with
    | .error e => .error e
    | .ok ws =>
      .ok (s.enqueue m
        { seq := 0, asid := s.asidOf m.wg m.t, t := m.t, scratch := false, core := c.core, addr := 0, va := va, ia := ia,
          pol := pol, hint := o.hint.toNat, data := leBytes size (wordsVal ws), pc := s.pktPc c.core c.pkt, raw := c.word,
          logged := none, replay := false, born := s.clk, wpos := c.pos, grp := s.issueGrp c.core, lseq := 0, trap := none })

/-- R233, R302, R433: where a scratchpad word acts: the address and the core and byte, or cause 0x21. -/
def State.scrAt (s : State) (m : Member) (a : BitVec 7) (off size : Nat) : Lane (Nat × Nat × Nat) :=
  match s.firstBad m a.toNat 1 with
  | some r => .error (0x62, r)
  | none =>
    let addr := (m.reg a.toNat).toNat + off
    if 2 ^ 32 ≤ addr then .error (0x21, 0)
    else match s.resolveScratch (s.wgrp m.wg) addr size with
      | none => .error (0x21, 0)
      | some (core, p) => .ok (addr, core, p)

/-- R302: LDS issues. -/
def ldsWord (o : OpS) (size : Nat) (s : State) (c : Cur) (m : Member) : Lane State :=
  match s.scrAt m o.a (o.off.toNat * size) size with
  | .error e => .error e
  | .ok (addr, core, p) =>
    let op : MOp := { MOp.mk0 (.lds o.d.toNat size) addr 0 0 0 (s.pktPc c.core c.pkt) c.word c.pos with
      word := s.seq, core := core, addr := p }
    .ok ((s.addMop m.wg m.t op).modThr m.wg m.t (fun x => (rangeFrom o.d.toNat (size / 4)).foldl Thread.holdReg x))

/-- R302: STS issues. -/
def stsWord (o : OpS) (size : Nat) (s : State) (c : Cur) (m : Member) : Lane State :=
  match s.scrAt m o.a (o.off.toNat * size) size with
  | .error e => .error e
  | .ok (addr, core, p) =>
    match s.regs m o.d.toNat (size / 4) with
    | .error e => .error e
    | .ok ws =>
      .ok (s.enqueue m
        { seq := 0, asid := 0, t := m.t, scratch := true, core := core, addr := p, va := addr, ia := 0, pol := 0, hint := 0,
          data := leBytes size (wordsVal ws), pc := s.pktPc c.core c.pkt, raw := c.word, logged := none, replay := false,
          born := s.clk, wpos := c.pos, grp := s.issueGrp c.core, lseq := 0, trap := none })

/-- R303: a PREFETCH issues: it is performed in its place in the thread's order; where the access would fault, nothing happens. -/
def prefetchWord (o : OpPf) (s : State) (c : Cur) (m : Member) : Lane State :=
  match s.memCheck c m o.w o.a (o.off.toNat * 128) 128 .read false false with
  | .error (0x62, r) => .error (0x62, r)
  | .error _ => .error (0, 0)
  | .ok (va, ia, pol) =>
    .ok (s.addMop m.wg m.t { MOp.mk0 .prefetch va ia pol (s.asidOf m.wg m.t) (s.pktPc c.core c.pkt) c.word c.pos with
      hint := o.hint.toNat, word := s.seq, core := c.core })

/-! ## The words -/

/-- R300. -/
def execLd8s (h : Hdr) (o : OpMA) (s : State) : Res :=
  .next (perLane wK h (Instr.ld8s h o).opns (loadWord o 1 true) s)

/-- R300. -/
def execLd8z (h : Hdr) (o : OpMA) (s : State) : Res :=
  .next (perLane wK h (Instr.ld8z h o).opns (loadWord o 1 false) s)

/-- R300. -/
def execLd16s (h : Hdr) (o : OpMA) (s : State) : Res :=
  .next (perLane wK h (Instr.ld16s h o).opns (loadWord o 2 true) s)

/-- R300. -/
def execLd16z (h : Hdr) (o : OpMA) (s : State) : Res :=
  .next (perLane wK h (Instr.ld16z h o).opns (loadWord o 2 false) s)

/-- R300. -/
def execLd32 (h : Hdr) (o : OpMA) (s : State) : Res :=
  .next (perLane wK h (Instr.ld32 h o).opns (loadWord o 4 false) s)

/-- R300. -/
def execLd64 (h : Hdr) (o : OpMA) (s : State) : Res :=
  .next (perLane wK h (Instr.ld64 h o).opns (loadWord o 8 false) s)

/-- R300. -/
def execLd128 (h : Hdr) (o : OpMA) (s : State) : Res :=
  .next (perLane wK h (Instr.ld128 h o).opns (loadWord o 16 false) s)

/-- R301. -/
def execSt8 (h : Hdr) (o : OpMA) (s : State) : Res :=
  .next (perLane wK h (Instr.st8 h o).opns (storeWord o 1) s)

/-- R301. -/
def execSt16 (h : Hdr) (o : OpMA) (s : State) : Res :=
  .next (perLane wK h (Instr.st16 h o).opns (storeWord o 2) s)

/-- R301. -/
def execSt32 (h : Hdr) (o : OpMA) (s : State) : Res :=
  .next (perLane wK h (Instr.st32 h o).opns (storeWord o 4) s)

/-- R301. -/
def execSt64 (h : Hdr) (o : OpMA) (s : State) : Res :=
  .next (perLane wK h (Instr.st64 h o).opns (storeWord o 8) s)

/-- R301. -/
def execSt128 (h : Hdr) (o : OpMA) (s : State) : Res :=
  .next (perLane wK h (Instr.st128 h o).opns (storeWord o 16) s)

/-- R302. -/
def execLds32 (h : Hdr) (o : OpS) (s : State) : Res :=
  .next (perLane wKMain h (Instr.lds32 h o).opns (ldsWord o 4) s)

/-- R302. -/
def execLds64 (h : Hdr) (o : OpS) (s : State) : Res :=
  .next (perLane wKMain h (Instr.lds64 h o).opns (ldsWord o 8) s)

/-- R302. -/
def execLds128 (h : Hdr) (o : OpS) (s : State) : Res :=
  .next (perLane wKMain h (Instr.lds128 h o).opns (ldsWord o 16) s)

/-- R302. -/
def execSts32 (h : Hdr) (o : OpS) (s : State) : Res :=
  .next (perLane wKMain h (Instr.sts32 h o).opns (stsWord o 4) s)

/-- R302. -/
def execSts64 (h : Hdr) (o : OpS) (s : State) : Res :=
  .next (perLane wKMain h (Instr.sts64 h o).opns (stsWord o 8) s)

/-- R302. -/
def execSts128 (h : Hdr) (o : OpS) (s : State) : Res :=
  .next (perLane wKMain h (Instr.sts128 h o).opns (stsWord o 16) s)

/-- R303. -/
def execPrefetch (h : Hdr) (o : OpPf) (s : State) : Res :=
  .next (perLane wKMain h (Instr.prefetch h o).opns (prefetchWord o) s)

end Sys2Proof.Machine
end

