-- ==== Sys2Proof/Machine/Atomic.lean ====
section
/-! DEFINITION. Atomics, FENCE, QFENCE, FLUSH and CNTADD (spec 11 and 12, R304 to R308, R361; R151, R156, R160). -/

namespace Sys2Proof.Machine

/-! ## Atomics (R304, R305) -/

/-- R234: the operand and, for CAS, the compare value: v (or new) and cmp. -/
def atomArgs (op n : Nat) (ws : List Word) : Nat × Nat :=
  let x := wordsVal (ws.take (n / 4))
  if op = 9 then (wordsVal (ws.drop (n / 4)), x) else (x, 0)

/-- R234: how many registers an atomic of `n` bytes reads from D. -/
def atomRegs (op n : Nat) : Nat := if op = 9 then n / 2 else n / 4

/-- R305: ATOM issues. -/
def atomWord (o : OpAT) (op n word : Nat) (s : State) (c : Cur) (m : Member) : Lane State :=
  match s.memCheck c m o.w o.a 0 n .atomic true true with
  | .error e => .error e
  | .ok (va, ia, pol) =>
    match s.regs m o.d.toNat (atomRegs op n) with
    | .error e => .error e
    | .ok ws =>
      let (v, cmp) := atomArgs op n ws
      let x : MOp := { MOp.mk0 (.atom op n o.d.toNat v cmp) va ia pol (s.asidOf m.wg m.t) (s.pktPc c.core c.pkt) c.word c.pos with
        scope := o.scope.toNat, word := word, core := c.core }
      .ok ((s.addMop m.wg m.t x).modThr m.wg m.t (fun y => (rangeFrom o.d.toNat (n / 4)).foldl Thread.holdReg y))

/-- R305: ATOMS.32 issues. -/
def atomsWord (o : OpATS) (op word : Nat) (s : State) (c : Cur) (m : Member) : Lane State :=
  match s.scrAt m o.a 0 4 with
  | .error e => .error e
  | .ok (addr, core, p) =>
    match s.regs m o.d.toNat (atomRegs op 4) with
    | .error e => .error e
    | .ok ws =>
      let (v, cmp) := atomArgs op 4 ws
      let x : MOp := { MOp.mk0 (.atoms op o.d.toNat v cmp) addr 0 0 0 (s.pktPc c.core c.pkt) c.word c.pos with
        scope := o.scope.toNat, word := word, core := core, addr := p }
      .ok ((s.addMop m.wg m.t x).modThr m.wg m.t (fun y => y.holdReg o.d.toNat))

/-- A memory word whose lanes issue under one number (R141, R305); LOAD_RETURN performs it. -/
def issueWord (k : WKind) (h : Hdr) (ops : List Opn) (f : Nat → State → Cur → Member → Lane State) (s : State) : State :=
  perLane k h ops (f s.seq) { s with seq := s.seq + 1 }

/-! ## FENCE, QFENCE and FLUSH (R306 to R308) -/

/-- R306: FENCE of kind 0 acquire, 1 release, 2 full. -/
def fenceWord (kind scope word : Nat) (s : State) (c : Cur) (m : Member) : Lane State :=
  .ok (s.addMop m.wg m.t { MOp.mk0 (.fence kind) 0 0 0 0 (s.pktPc c.core c.pkt) c.word c.pos with
    scope := scope, word := word, core := c.core })

/-- R307: the lowest offending bit of a queue-set word, where it is malformed. -/
def qsetBad (w : Word) : Option Nat :=
  let x := w.toNat
  let eng := nbits x 31 30
  let at_ := (List.range 32).find? (fun i => nbit x i &&
    ((decide (16 ≤ i) && decide (i < 30)) || (decide (8 ≤ i) && decide (i < 16) && eng != 2) || (decide (4 ≤ i) && decide (i < 8) && eng == 1)))
  match at_ with
  | some i => some (if 8 ≤ i ∧ i < 16 then 8 else i)
  | none => if eng = 3 then some 30 else none

/-- R307: one entry for each braid, with the word of its lowest home lane, placed at the end of the cycle; none for a braid
of which a thread's word is malformed. -/
def doQfence (o : OpA) (s : State) (c : Cur) (live : List (Nat × Member)) : State :=
  let (s1, xs) := readAll c (fun s m => match s.regs m o.a.toNat 1 with
    | .error e => .error e
    | .ok ws => .ok (s, ws.headD 0#32)) live s
  putAll c (fun s x =>
    let m := x.2.1
    match qsetBad x.2.2 with
    | some b => .error (0x51, b * 2 ^ 8)
    | none =>
      if (coIssue s m xs).any (fun y => (qsetBad y.2.2).isSome) then .ok s
      else .ok (s.atCycleEnd c.core (.qfence m.wg (m.braid s) c.pkt m.lane x.2.2))) xs s1

/-- R308, R432: the first page of a range that a read does not reach, with its cause. -/
def State.flushStop (s : State) (asid : Nat) : Nat → Nat → Option (Nat × Nat)
  | _, 0 => none
  | p, k + 1 =>
    match s.checkVa asid (p * 65536) 1 .read with
    | .error c => some (p, c)
    | .ok _ => State.flushStop s asid (p + 1) k

/-- R308: FLUSH issues: lines before a faulting line are flushed. -/
def flushWord (o : OpFlush) (word : Nat) (s : State) (c : Cur) (m : Member) : Lane State :=
  match (s.firstBad m o.a.toNat (if o.w then 2 else 1)).or (s.firstBad m o.d.toNat 1) with
  | some r => .error (0x62, r)
  | none =>
    match s.wordVa m o.w o.a.toNat 0 with
    | none => .error (0x44, s.rawVa m o.w o.a.toNat 0)
    | some va =>
      let n := (m.reg o.d.toNat).toNat
      let asid := s.asidOf m.wg m.t
      let add := fun (n : Nat) => if n = 0 then s else s.addMop m.wg m.t { MOp.mk0 (.flush n) va 0 0 asid
        (s.pktPc c.core c.pkt) c.word c.pos with word := word, core := c.core }
      if n = 0 then .ok s
      else match s.flushStop asid (va / 65536) ((va + n - 1) / 65536 - va / 65536 + 1) with
        | none => .ok (add n)
        | some (p, cause) =>
          let stop := max va (p * 65536)
          let i := (s.members c.core c.pkt).findIdx (fun x => x.wg == m.wg && x.t == m.t)
          .ok ((add (stop - va)).faultMember c i cause (stop % 2 ^ 57))

/-- R361: CNTADD issues: it adds v[D] to a 64-bit counter, a release at its scope. -/
def cntaddWord (o : OpCnt) (word : Nat) (s : State) (c : Cur) (m : Member) : Lane State :=
  match s.memCheck c m o.w o.a 0 8 .atomic true true with
  | .error e => .error e
  | .ok (va, ia, pol) =>
    match s.regs m o.d.toNat 2 with
    | .error e => .error e
    | .ok ws => .ok (s.addMop m.wg m.t { MOp.mk0 (.cntadd (wordsVal ws)) va ia pol (s.asidOf m.wg m.t) (s.pktPc c.core c.pkt)
        c.word c.pos with scope := o.scope.toNat, word := word, core := c.core })

/-! ## The words -/

/-- R304, R305. -/
def execAtom32Add (h : Hdr) (o : OpAT) (s : State) : Res :=
  .next (issueWord wK h (Instr.atom32Add h o).opns (atomWord o 0 4) s)

/-- R304, R305. -/
def execAtom32And (h : Hdr) (o : OpAT) (s : State) : Res :=
  .next (issueWord wK h (Instr.atom32And h o).opns (atomWord o 1 4) s)

/-- R304, R305. -/
def execAtom32Or (h : Hdr) (o : OpAT) (s : State) : Res :=
  .next (issueWord wK h (Instr.atom32Or h o).opns (atomWord o 2 4) s)

/-- R304, R305. -/
def execAtom32Xor (h : Hdr) (o : OpAT) (s : State) : Res :=
  .next (issueWord wK h (Instr.atom32Xor h o).opns (atomWord o 3 4) s)

/-- R304, R305. -/
def execAtom32MinI (h : Hdr) (o : OpAT) (s : State) : Res :=
  .next (issueWord wK h (Instr.atom32MinI h o).opns (atomWord o 4 4) s)

/-- R304, R305. -/
def execAtom32MaxI (h : Hdr) (o : OpAT) (s : State) : Res :=
  .next (issueWord wK h (Instr.atom32MaxI h o).opns (atomWord o 5 4) s)

/-- R304, R305. -/
def execAtom32MinN (h : Hdr) (o : OpAT) (s : State) : Res :=
  .next (issueWord wK h (Instr.atom32MinN h o).opns (atomWord o 6 4) s)

/-- R304, R305. -/
def execAtom32MaxN (h : Hdr) (o : OpAT) (s : State) : Res :=
  .next (issueWord wK h (Instr.atom32MaxN h o).opns (atomWord o 7 4) s)

/-- R304, R305. -/
def execAtom32Exch (h : Hdr) (o : OpAT) (s : State) : Res :=
  .next (issueWord wK h (Instr.atom32Exch h o).opns (atomWord o 8 4) s)

/-- R304, R305. -/
def execAtom32Cas (h : Hdr) (o : OpAT) (s : State) : Res :=
  .next (issueWord wK h (Instr.atom32Cas h o).opns (atomWord o 9 4) s)

/-- R304, R305. -/
def execAtom32Fadd (h : Hdr) (o : OpAT) (s : State) : Res :=
  .next (issueWord wK h (Instr.atom32Fadd h o).opns (atomWord o 10 4) s)

/-- R304, R305. -/
def execAtom32Fmin (h : Hdr) (o : OpAT) (s : State) : Res :=
  .next (issueWord wK h (Instr.atom32Fmin h o).opns (atomWord o 11 4) s)

/-- R304, R305. -/
def execAtom32Fmax (h : Hdr) (o : OpAT) (s : State) : Res :=
  .next (issueWord wK h (Instr.atom32Fmax h o).opns (atomWord o 12 4) s)

/-- R304, R305. -/
def execAtom64Add (h : Hdr) (o : OpAT) (s : State) : Res :=
  .next (issueWord wK h (Instr.atom64Add h o).opns (atomWord o 0 8) s)

/-- R304, R305. -/
def execAtom64And (h : Hdr) (o : OpAT) (s : State) : Res :=
  .next (issueWord wK h (Instr.atom64And h o).opns (atomWord o 1 8) s)

/-- R304, R305. -/
def execAtom64Or (h : Hdr) (o : OpAT) (s : State) : Res :=
  .next (issueWord wK h (Instr.atom64Or h o).opns (atomWord o 2 8) s)

/-- R304, R305. -/
def execAtom64Xor (h : Hdr) (o : OpAT) (s : State) : Res :=
  .next (issueWord wK h (Instr.atom64Xor h o).opns (atomWord o 3 8) s)

/-- R304, R305. -/
def execAtom64MinI (h : Hdr) (o : OpAT) (s : State) : Res :=
  .next (issueWord wK h (Instr.atom64MinI h o).opns (atomWord o 4 8) s)

/-- R304, R305. -/
def execAtom64MaxI (h : Hdr) (o : OpAT) (s : State) : Res :=
  .next (issueWord wK h (Instr.atom64MaxI h o).opns (atomWord o 5 8) s)

/-- R304, R305. -/
def execAtom64MinN (h : Hdr) (o : OpAT) (s : State) : Res :=
  .next (issueWord wK h (Instr.atom64MinN h o).opns (atomWord o 6 8) s)

/-- R304, R305. -/
def execAtom64MaxN (h : Hdr) (o : OpAT) (s : State) : Res :=
  .next (issueWord wK h (Instr.atom64MaxN h o).opns (atomWord o 7 8) s)

/-- R304, R305. -/
def execAtom64Exch (h : Hdr) (o : OpAT) (s : State) : Res :=
  .next (issueWord wK h (Instr.atom64Exch h o).opns (atomWord o 8 8) s)

/-- R304, R305. -/
def execAtom64Cas (h : Hdr) (o : OpAT) (s : State) : Res :=
  .next (issueWord wK h (Instr.atom64Cas h o).opns (atomWord o 9 8) s)

/-- R304, R305. -/
def execAtoms32Add (h : Hdr) (o : OpATS) (s : State) : Res :=
  .next (issueWord wKMain h (Instr.atoms32Add h o).opns (atomsWord o 0) s)

/-- R304, R305. -/
def execAtoms32And (h : Hdr) (o : OpATS) (s : State) : Res :=
  .next (issueWord wKMain h (Instr.atoms32And h o).opns (atomsWord o 1) s)

/-- R304, R305. -/
def execAtoms32Or (h : Hdr) (o : OpATS) (s : State) : Res :=
  .next (issueWord wKMain h (Instr.atoms32Or h o).opns (atomsWord o 2) s)

/-- R304, R305. -/
def execAtoms32Xor (h : Hdr) (o : OpATS) (s : State) : Res :=
  .next (issueWord wKMain h (Instr.atoms32Xor h o).opns (atomsWord o 3) s)

/-- R304, R305. -/
def execAtoms32MinI (h : Hdr) (o : OpATS) (s : State) : Res :=
  .next (issueWord wKMain h (Instr.atoms32MinI h o).opns (atomsWord o 4) s)

/-- R304, R305. -/
def execAtoms32MaxI (h : Hdr) (o : OpATS) (s : State) : Res :=
  .next (issueWord wKMain h (Instr.atoms32MaxI h o).opns (atomsWord o 5) s)

/-- R304, R305. -/
def execAtoms32MinN (h : Hdr) (o : OpATS) (s : State) : Res :=
  .next (issueWord wKMain h (Instr.atoms32MinN h o).opns (atomsWord o 6) s)

/-- R304, R305. -/
def execAtoms32MaxN (h : Hdr) (o : OpATS) (s : State) : Res :=
  .next (issueWord wKMain h (Instr.atoms32MaxN h o).opns (atomsWord o 7) s)

/-- R304, R305. -/
def execAtoms32Exch (h : Hdr) (o : OpATS) (s : State) : Res :=
  .next (issueWord wKMain h (Instr.atoms32Exch h o).opns (atomsWord o 8) s)

/-- R304, R305. -/
def execAtoms32Cas (h : Hdr) (o : OpATS) (s : State) : Res :=
  .next (issueWord wKMain h (Instr.atoms32Cas h o).opns (atomsWord o 9) s)

/-- R304, R305. -/
def execAtoms32Fadd (h : Hdr) (o : OpATS) (s : State) : Res :=
  .next (issueWord wKMain h (Instr.atoms32Fadd h o).opns (atomsWord o 10) s)

/-- R304, R305. -/
def execAtoms32Fmin (h : Hdr) (o : OpATS) (s : State) : Res :=
  .next (issueWord wKMain h (Instr.atoms32Fmin h o).opns (atomsWord o 11) s)

/-- R304, R305. -/
def execAtoms32Fmax (h : Hdr) (o : OpATS) (s : State) : Res :=
  .next (issueWord wKMain h (Instr.atoms32Fmax h o).opns (atomsWord o 12) s)

/-- R306. -/
def execFenceAcq (h : Hdr) (o : OpScope) (s : State) : Res :=
  .next (issueWord wK h (Instr.fenceAcq h o).opns (fenceWord 0 o.scope.toNat) s)

/-- R306. -/
def execFenceRel (h : Hdr) (o : OpScope) (s : State) : Res :=
  .next (issueWord wK h (Instr.fenceRel h o).opns (fenceWord 1 o.scope.toNat) s)

/-- R306. -/
def execFenceFull (h : Hdr) (o : OpScope) (s : State) : Res :=
  .next (issueWord wK h (Instr.fenceFull h o).opns (fenceWord 2 o.scope.toNat) s)

/-- R307. -/
def execQfence (h : Hdr) (o : OpA) (s : State) : Res :=
  .next (perGroup wKMain h (Instr.qfence h o).opns (doQfence o) s)

/-- R308. -/
def execFlush (h : Hdr) (o : OpFlush) (s : State) : Res :=
  .next (issueWord wKMain h (Instr.flush h o).opns (flushWord o) s)

/-- R361. -/
def execCntadd (h : Hdr) (o : OpCnt) (s : State) : Res :=
  .next (issueWord wK h (Instr.cntadd h o).opns (cntaddWord o) s)

end Sys2Proof.Machine
end

