-- ==== Sys2Proof/Machine/Graph.lean ====
section
/-! DEFINITION. Task graphs: nodes, run state, firing and completion (spec 03, R79 to R82; R86, R371, R450). -/

namespace Sys2Proof.Machine

/-- Doubles of a device structure, with the state after the read; none where it cannot be read now. -/
def State.rd (s : State) (ia n : Nat) : State × Option (List Nat) :=
  match s.doubles ia n with
  | .ok (s1, ds) => (s1, some ds)
  | .error _ => (s, none)

/-- Doubles of a device structure, read without effect; zeros where it cannot be read. -/
def State.peek (s : State) (ia n : Nat) : List Nat := ((s.rd ia n).2).getD (List.replicate n 0)

/-- A device-owned double is rewritten. -/
def State.putDouble (s : State) (ia v : Nat) : State := s.putBytes 0 ia (leBytes 8 v)

/-- R60: the IA of a partition's save area. -/
def State.saveArea (s : State) (part : Nat) : Nat := nbits (s.part part).saveArea.toNat 51 0

/-- R60, R63: the fault domain of the partition's root RCB. -/
def State.rootDom (s : State) (part : Nat) : Nat :=
  match (s.part part).tree with
  | r :: _ => r.fdom
  | [] =>
    let root := nbits (s.part part).rootRcb.toNat 51 0
    if root = 0 then 0 else nbits ((s.peek root 8).getD 5 0) 47 40

/-- R79: the die whose walker runs a partition's graphs: the one whose memory holds the root RCB. -/
def State.walkerDie (s : State) (part : Nat) : Nat := dieOfStack (iaStack (nbits (s.part part).rootRcb.toNat 51 0))

/-- R410: a domain of a partition is halted: its bit in the save area. -/
def State.domHalted (s : State) (part dom : Nat) : Bool :=
  if s.saveArea part = 0 then false
  else nbit ((s.peek (s.saveArea part + 512 + 8 * (dom / 64)) 1).getD 0 0) (dom % 64)

/-- R80: a node. -/
structure Node where
  kind : Nat
  nsucc : Nat
  scope : Nat
  count : Nat
  succ : List Nat
  addr : Nat
  value : Nat
  deriving DecidableEq, Repr

def nodeOf (ds : List Nat) : Node :=
  let d := fun i => ds.getD i 0
  { kind := nbits (d 0) 3 0, nsucc := nbits (d 0) 6 4, scope := nbits (d 0) 18 16, count := nbits (d 0) 63 32,
    succ := (List.range 4).map (fun i => nbits (d 1) (12 * i + 11) (12 * i)), addr := nbits (d 2) 56 0, value := d 3 }

/-- R450: an invalid node of a graph of `n` nodes. -/
def Node.bad (x : Node) (n : Nat) : Bool :=
  x.kind == 0 || decide (7 < x.kind) || decide (4 < x.nsucc) || (x.succ.take x.nsucc).any (fun j => decide (n ≤ j))

def Partition.graph? (p : Partition) (g : Nat) : Option Graph := p.graphs.find? (fun x => x.entry == g)

def State.modGraph (s : State) (part g : Nat) (f : Graph → Graph) : State :=
  s.modPart part (fun p => { p with graphs := p.graphs.map (fun x => if x.entry = g then f x else x) })

/-- R86: the run state of a node: its address, arrivals or iterations, and pending firings. -/
def State.runAt (s : State) (part g j : Nat) : Nat := s.saveArea part + 0x10000 + 32768 * g + 8 * j
def State.runCount (s : State) (part g j : Nat) : Nat := nbits ((s.peek (s.runAt part g j) 1).getD 0 0) 31 0
def State.runPending (s : State) (part g j : Nat) : Nat := nbits ((s.peek (s.runAt part g j) 1).getD 0 0) 47 32
def State.putRun (s : State) (part g j count pending : Nat) : State :=
  s.putDouble (s.runAt part g j) (count % 2 ^ 32 + pending % 65536 * 2 ^ 32)

/-- R82: fire node `j`: it enters the walker's FIFO, or waits behind its earlier firing. -/
def State.fireNode (s : State) (part g j : Nat) : State :=
  match (s.part part).graph? g with
  | none => s
  | some x =>
    if x.running.contains j then s.putRun part g j (s.runCount part g j) (s.runPending part g j + 1)
    else s.modDie (s.walkerDie part) (fun d => { d with walkFifo := d.walkFifo ++ [(part, g, j)] })

/-- R81: no node of the graph is fired, running or waiting. -/
def State.graphIdle (s : State) (part g : Nat) : Bool :=
  match (s.part part).graph? g with
  | none => false
  | some x => x.running.isEmpty && s.dies.all (fun d => d.2.walkFifo.all (fun e => e.1 != part || e.2.1 != g))

/-- R81, R82: node `j` has fired the successors `succ`; a firing that waited behind it goes on. -/
def State.nodeDone (s : State) (part g j : Nat) (succ : List Nat) : State :=
  let s1 := s.modGraph part g (fun x => { x with running := x.running.filter (· != j) })
  let s2 := succ.foldl (fun s k => s.fireNode part g k) s1
  let n := s2.runPending part g j
  let s3 := if n = 0 then s2 else (s2.putRun part g j (s2.runCount part g j) (n - 1)).fireNode part g j
  if s3.graphIdle part g then s3.due (.event (.graphDone part)) else s3

/-- R81: the LAUNCH nodes that wait for a launch fire their successors when it completes. -/
def State.launchFires (s : State) (queue pos : Nat) : State :=
  let all := s.parts.flatMap (fun p => p.2.graphs.flatMap (fun x =>
    (x.queued.filter (fun q => q.2.1 == queue && q.2.2 == pos)).map (fun q => (p.1, x, q.1))))
  all.foldl (fun s e =>
    let (part, x, j) := e
    let s1 := s.modGraph part x.entry (fun y => { y with queued := y.queued.filter (fun q => q != (j, queue, pos)) })
    let nd := nodeOf (s1.peek (x.header + 64 + 32 * j) 4)
    (s1.touch (x.header + 64 + 32 * j)).nodeDone part x.entry j (nd.succ.take nd.nsucc)) s

/-- R450: the graph stops: it goes to done, and a class-2 record is written to the root's domain. -/
def State.stopGraph (s : State) (part g cause info : Nat) : State :=
  let s1 := s.modGraph part g (fun x => { x with running := [], queued := [] })
  let s2 := { s1 with dies := s1.dies.map (fun (d : Nat × Die) => (d.1, { d.2 with
    walkFifo := d.2.walkFifo.filter (fun e => e.1 != part || e.2.1 != g),
    walkCopy := d.2.walkCopy.filter (fun e => e.1 != part || e.2.1 != g),
    waitNodes := d.2.waitNodes.filter (fun e => e.1 != part || e.2.1 != g) })) }
  (s2.report part (s2.rootDom part) (Report.plain 2 cause info)).due (.event (.graphDone part))

/-- GRAPH_DONE (R371): every idle graph of the partition goes to done: state 3 and ARM cleared in one release at .sys, then
the partition's graph vector. -/
def execGraphDone (part : Nat) (s : State) : Res :=
  .next (((s.part part).graphs.filter (fun x => s.graphIdle part x.entry)).foldl (fun s x =>
    let at_ := s.saveArea part + 8 * x.entry
    let h := (s.peek x.header 1).getD 0 0
    let e := (s.peek at_ 1).getD 0 0
    let s1 := (s.putDouble x.header (h / 4 * 4 + 3)).putDouble at_ (e % 2 ^ 63)
    (s1.modPart part (fun p => { p with
      graphs := p.graphs.filter (fun y => y.entry != x.entry), armed := p.armed.filter (fun a => a.1 != x.entry) })).msix (8 + part)) s)

/-- R371: an entry of a partition's graph table is read: a graph newly armed becomes armed, then running, and its entry node
is fired. `armed` holds the entries last seen with ARM set. DESIGN CHOICE (log entry 90): the header's third double (its partition number) and
its reserved bits are read and ignored (R79): the graph runs for the partition whose table names it. -/
def State.armEntry (s : State) (part g : Nat) : State :=
  let at_ := s.saveArea part + 8 * g
  let (s0, ds) := s.rd at_ 1
  match ds with
  | none => s
  | some ds =>
    let e := ds.getD 0 0
    let seen := (s.part part).armed.any (fun a => a.1 == g)
    if !nbit e 63 then s0.modPart part (fun p => { p with armed := p.armed.filter (fun a => a.1 != g) })
    else if seen || ((s.part part).graph? g).isSome then s0
    else
      let hdr := nbits e 51 0
      let (s1, hs) := s0.rd hdr 3
      match hs with
      | none => s
      | some hs =>
        let h0 := hs.getD 0 0
        let h1 := hs.getD 1 0
        let s2 := s1.modPart part (fun p => { p with armed := p.armed ++ [(g, BitVec.ofNat 64 e)] })
        if h0 % 4 != 0 && h0 % 4 != 3 then s2
        else
          let x : Graph := ⟨g, hdr, nbits h1 11 0 + 1, nbits h1 23 12, [], []⟩
          let s3 := (s2.putDouble hdr (h0 / 4 * 4 + 1)).putDouble hdr (h0 / 4 * 4 + 2)
          -- R86: the run state of a graph that starts holds no arrivals, iterations or pending firings
          let s4 := (s3.putBytes 0 (s3.runAt part g 0) (List.replicate (8 * x.nodes) 0#8)).modPart part
            (fun p => { p with graphs := p.graphs ++ [x] })
          if x.nodes ≤ x.first then s4.stopGraph part g 0x65 hdr else s4.fireNode part g x.first

/-- GRAPH_ARM (R371): the walkers read the graph tables of the partitions that have one. -/
def execGraphArm (s : State) : Res :=
  .next ((List.range 8).foldl (fun s p =>
    if s.saveArea p = 0 then s else (List.range 64).foldl (fun s g => s.armEntry p g) s) s)

end Sys2Proof.Machine
end

