-- ==== Sys2Proof/Machine/Sched.lean ====
section
/-! DEFINITION. Region control blocks, leaf queues, dispatch, retirement and completion (spec 03, R60 to R70, R77, R78; R33 to
R38, R48; R406, R408, R424, R450). -/

namespace Sys2Proof.Machine

/-! ## The RCB tree (R62, R63) -/

/-- R62, R63: the effective values of a node with the doubles `ds`. -/
def rcbOf (ia : Nat) (ds : List Nat) (par : Option Rcb) : Rcb :=
  let d := fun i => ds.getD i 0
  let ovr := nbits (d 5) 55 48
  let own : Rcb :=
    { ia := ia, path := ia :: (match par with
        | some r => r.path
        | none => []),
      leaf := nbit (d 5) 59, queue := nbits (d 3) 51 0, budget := nbits (d 4) 47 0, prio := nbits (d 5) 34 32,
      eceil := nbits (d 5) 37 36, fdom := nbits (d 5) 47 40, asidBase := nbits (d 6) 11 0, asidCnt := nbits (d 6) 24 12,
      quantum := nbits (d 5) 31 0 }
  match par with
  | none => own
  | some r => { own with
      budget := if nbit ovr 0 then own.budget else r.budget,
      prio := if nbit ovr 1 then own.prio else r.prio,
      eceil := if nbit ovr 2 then own.eceil else r.eceil,
      fdom := if nbit ovr 3 then own.fdom else r.fdom,
      asidBase := if nbit ovr 4 then own.asidBase else r.asidBase,
      asidCnt := if nbit ovr 4 then own.asidCnt else r.asidCnt,
      quantum := if nbit ovr 5 then own.quantum else r.quantum }

/-- R450: a node that breaks R62 or R63; a leaf whose queue address breaks R65. -/
def rcbBad (ds : List Nat) (par : Option Rcb) (depth : Nat) : Bool :=
  let d := fun i => ds.getD i 0
  let ovr := nbits (d 5) 55 48
  nbits (d 0) 63 52 != 0 || nbits (d 1) 63 52 != 0 || nbits (d 2) 63 52 != 0 || nbits (d 3) 63 52 != 0 ||
  nbits (d 4) 63 48 != 0 || nbit (d 5) 35 || nbits (d 5) 39 38 != 0 || nbits (d 5) 63 60 != 0 ||
  nbits (d 6) 63 25 != 0 || nbits (d 7) 63 48 != 0 || nbits ovr 7 6 != 0 || nbits (d 5) 58 56 != depth ||
  (match par with
    | none => ovr % 64 != 63 || nbits (d 0) 51 0 != 0
    | some r => nbits (d 0) 51 0 != r.ia) ||
  (nbit ovr 4 && (nbits (d 6) 24 12 == 0 || decide (4096 < nbits (d 6) 24 12))) ||
  (nbit ovr 5 && nbits (d 5) 31 0 == 0) ||
  (if nbit (d 5) 59 then nbits (d 3) 51 0 == 0 || nbits (d 3) 51 0 % 32 != 0 else nbits (d 3) 51 0 != 0)

/-- What a walk of a tree gives: the nodes in depth-first order, the addresses of all nodes read, and the errors: domain, cause, INFO. -/
structure TreeRead where
  st : State
  tree : List Rcb
  nodes : List Nat
  errs : List (Nat × Nat × Nat)

def domOf (par : Option Rcb) : Nat :=
  match par with
  | some r => r.fdom
  | none => 0

/-- R62, R450: walk the tree depth first; `work` holds the nodes to read, with their parents and levels. A node that its link must not name,
being misaligned, on a ninth level or read before, is malformed in its own effective domain, and the walk goes no further there. Fuel bounds
the nodes. -/
def treeGo : Nat → List (Nat × Option Rcb × Nat) → TreeRead → TreeRead
  | _, [], a => a
  | 0, _ :: _, a => a
  | k + 1, (ia, par, dep) :: r, a =>
    match a.st.doubles ia 8 with
    | .error (.region c i) => treeGo k r { a with errs := a.errs ++ [(domOf par, c, i)] }
    | .error _ => treeGo k r a
    | .ok (s1, ds) =>
      let x := rcbOf ia ds par
      if ia % 64 != 0 || decide (8 ≤ dep) || a.nodes.contains ia then
        treeGo k r { a with st := s1, errs := a.errs ++ [(x.fdom, 0x65, ia)] }
      else
        let a := { a with nodes := a.nodes ++ [ia] }
        let sib := nbits (ds.getD 2 0) 51 0
        let child := nbits (ds.getD 1 0) 51 0
        let next := if dep = 0 || sib = 0 then r else (sib, par, dep) :: r
        if rcbBad ds par dep then treeGo k next { a with st := s1, errs := a.errs ++ [(x.fdom, 0x65, ia)] }
        else
          let down := if x.leaf || child = 0 then next else (child, some x, dep + 1) :: next
          treeGo k down { a with st := s1, tree := a.tree ++ [x] }

/-- R62: more steps than a walk can take: 2^46 RCBs of 64 bytes fit in the address space, and each names at most two others. -/
def treeFuel : Nat := 2 ^ 48

def State.readTree (s : State) (part : Nat) : TreeRead :=
  let root := nbits (s.part part).rootRcb.toNat 51 0
  if root = 0 then ⟨s, [], [], []⟩ else treeGo treeFuel [(root, none, 0)] ⟨s, [], [], []⟩

/-- R63, R450: the effective values are read; what is malformed makes its domain region-fatal. -/
def State.loadTree (s : State) (part : Nat) : State :=
  let t := s.readTree part
  let s1 := t.st.modPart part (fun p => { p with tree := t.tree })
  t.errs.foldl (fun s e => s.raiseRegion part e.1 0 ⟨e.2.1, e.2.2, 0, 0, 0#32, s.clk⟩) s1

/-- R63: the effective values of a partition: as they were last read, at its residence or a RELOAD; of one that has had neither since its
ROOTRCB was written, as they stand (DESIGN CHOICE, log entry 79). -/
def State.treeOf (s : State) (part : Nat) : List Rcb :=
  if (s.part part).tree.isEmpty then (s.readTree part).tree else (s.part part).tree

/-- R60: the priority of a partition. -/
def State.partPrio (s : State) (part : Nat) : Nat :=
  match s.treeOf part with
  | r :: _ => r.prio
  | [] => 0

def Partition.leaves (p : Partition) : List Rcb := p.tree.filter (fun r => r.leaf)

/-- R60: the cores of a partition's mask. -/
def Partition.cores (p : Partition) : List Nat :=
  (List.range 192).filter (fun c => (p.cmask.getD (c / 64) 0#64).getLsbD (c % 64))

/-! ## Leaf queues and launch records (R65 to R67) -/

/-- R65: the header of a leaf queue. -/
structure LeafHdr where
  ring : Nat
  slots : Nat
  tail : Nat
  head : Nat
  deficit : Int
  nextwg : Nat
  bad : Bool
  deriving DecidableEq, Repr

def leafHdrOf (ds : List Nat) : LeafHdr :=
  let d := fun i => ds.getD i 0
  { ring := nbits (d 0) 51 0, slots := 2 ^ nbits (d 0) 55 52, tail := nbits (d 1) 31 0, head := nbits (d 1) 63 32,
    deficit := (BitVec.ofNat 64 (d 2)).toInt, nextwg := nbits (d 3) 47 0,
    bad := nbits (d 0) 63 56 != 0 || nbits (d 3) 63 48 != 0 || nbits (d 0) 5 0 != 0 }

/-- R65: launches in the ring. -/
def LeafHdr.count (h : LeafHdr) : Nat := (h.tail + 2 ^ 32 - h.head) % 2 ^ 32

def LeafHdr.slot (h : LeafHdr) (pos : Nat) : Nat := h.ring + 64 * (pos % h.slots)

def State.leafHdr (s : State) (q : Nat) : LeafHdr := leafHdrOf (s.peek q 4)

/-- R65: the device writes HEAD, NEXTWG and DEFICIT. -/
def State.putHead (s : State) (q head : Nat) : State := s.putBytes 0 (q + 12) (leBytes 4 head)
def State.putNextwg (s : State) (q n : Nat) : State := s.putBytes 0 (q + 24) (leBytes 6 n)
def State.putDeficit (s : State) (q : Nat) (v : Int) : State := s.putBytes 0 (q + 16) (leBytes 8 (BitVec.ofInt 64 v).toNat)

/-- R70: a leaf with no undispatched workgroup has a positive DEFICIT set to zero. -/
def State.settle (s : State) (q : Nat) : State :=
  let h := s.leafHdr q
  if h.count = 0 && decide (0 < h.deficit) then s.putDeficit q 0 else s

/-- The launch that a record (R66) at an IA describes. -/
def launchOf (id part leaf ia queue pos dom : Nat) (ds : List Nat) : Launch :=
  { id := id, part := part, leaf := leaf, ia := ia, record := ds, dom := dom, total := 0, retired := 0,
    nfatal := 0, allOut := false, killed := false, queue := queue, pos := pos, firstFatal := none, lanef := none, rels := [], told := false }

/-- R67: every workgroup of the launch has retired. -/
def Launch.done (l : Launch) : Bool := l.allOut && decide (l.total ≤ l.retired)

/-- R66: the fields of a record. -/
def Launch.entry (l : Launch) : Nat := l.field 0 52 0
def Launch.threads (l : Launch) : Nat := l.field 1 10 0 + 1
def Launch.width (l : Launch) : Nat := 8 * 2 ^ l.field 1 13 12
def Launch.nregs (l : Launch) : Nat := 8 * (l.field 1 17 14 + 1)
def Launch.csize (l : Launch) : Nat := l.field 1 19 18 + 1
def Launch.eclass (l : Launch) : Nat := l.field 1 21 20
def Launch.ordered (l : Launch) : Bool := nbit (l.record.getD 1 0) 22
def Launch.scrUnits (l : Launch) : Nat := 8 * l.field 1 43 32
def Launch.grid (l : Launch) : Nat := l.field 2 47 0
def Launch.wgs (l : Launch) : Nat := l.field 2 15 0 * l.field 2 31 16 * l.field 2 47 32

/-- R66, R424, R450: the cause for which a launch is refused. -/
def Launch.refusal (l : Launch) (eceil : Nat) : Option Nat :=
  let d := fun i => l.record.getD i 0
  if nbits (d 0) 63 53 != 0 || nbit (d 1) 11 || nbits (d 1) 31 23 != 0 || nbits (d 1) 63 44 != 0 || nbits (d 2) 63 60 != 0 ||
    nbits (d 3) 63 57 != 0 || nbits (d 4) 63 57 != 0 || nbits (d 6) 63 62 != 0 || nbits (d 7) 63 57 != 0 ||
    l.threads % l.width != 0 || decide (112 < l.nregs) || decide (1536 * 8 < l.scrUnits) || l.wgs == 0 ||
    l.wgs % l.csize != 0 || decide (16 < l.field 6 61 57) then some 0x65
  else if eceil < l.eclass then some 0x1E
  else none

/-- R424, R427: a launch leaves the head of its queue with no workgroup dispatched. -/
def State.passHead (s : State) (q head : Nat) : State := ((s.putHead q (head + 1)).putNextwg q 0).settle q

/-- R67: the completion counter of a launch. -/
def State.countLaunch (s : State) (l : Launch) : State := s.addCounter 0 l.asid l.cntVa l.cinc l.part l.dom

/-- LAUNCH_REFUSE (R424, R450). -/
def State.refuseLaunch (s : State) (l : Launch) (head cause : Nat) : State :=
  let s1 := (s.passHead l.queue head).putStatus l true true (some cause)
  let r := { Report.plain 2 cause (if cause = 0x65 then l.ia else 0) with launch := l.ia, asid := l.asid }
  ((s1.report l.part l.dom r).countLaunch l).launchFires l.queue l.pos

/-- R65, R410, R424, R427, R450: one look at the head of a leaf: the launch there, if any, or `none` where a launch that is refused
or killed has been passed and the leaf has a new head. -/
def State.headTry (s : State) (part : Nat) (r : Rcb) : State × Option (Option Launch) :=
  match s.doubles r.queue 4 with
  | .error (.region c i) => (s.raiseRegion part r.fdom 0 ⟨c, i, 0, 0, 0#32, s.clk⟩, some none)
  | .error _ => (s, some none)
  | .ok (s1, hd) =>
    let h := leafHdrOf hd
    if h.bad then (s1.raiseRegion part r.fdom 0 ⟨0x65, r.queue, 0, 0, 0#32, s.clk⟩, some none)
    else if h.count = 0 then (s1.settle r.queue, some none)
    else match s1.doubles (h.slot h.head) 8 with
      | .error (.region c i) => (s1.raiseRegion part r.fdom 0 ⟨c, i, 0, 0, 0#32, s.clk⟩, some none)
      | .error _ => (s1, some none)
      | .ok (s2, ds) =>
        let l := launchOf 0 part r.ia (h.slot h.head) r.queue h.head r.fdom ds
        if (s2.part part).skips.contains (r.queue, h.head) then
          ((s2.passHead r.queue h.head).modPart part
            (fun p => { p with skips := p.skips.filter (· != (r.queue, h.head)) }), none)
        -- R424: judged once, when it reaches the head, and not again after a workgroup of it was dispatched
        else if s2.launches.any (fun p => p.2.queue == r.queue && p.2.pos == h.head) then (s2, some (some l))
        else match l.refusal r.eceil with
          | some c => (s2.refuseLaunch l h.head c, none)
          | none => (s2, some (some l))

/-- The head launch of a leaf, once the launches before it that are refused or killed have been passed. Fuel bounds them by
the ring. -/
def State.headLaunch (s : State) (part : Nat) (r : Rcb) : Nat → State × Option Launch
  | 0 => (s, none)
  | k + 1 =>
    match s.headTry part r with
    | (s1, some l) => (s1, l)
    | (s1, none) => State.headLaunch s1 part r k

/-- R66: the launch before it in the queue, while it has not completed, holds an ordered one. -/
def State.heldByOrder (s : State) (l : Launch) : Bool :=
  l.ordered && s.launches.any (fun p => !p.2.done && p.2.queue == l.queue && p.2.pos == (l.pos + (2 ^ 32 - 1)) % 2 ^ 32)

/-- R64: a leaf that is exhausted or has an exhausted ancestor. -/
def State.exhausted (s : State) (part : Nat) (r : Rcb) : Bool :=
  r.path.any (fun ia => match (s.part part).tree.find? (fun x => x.ia == ia) with
    | some x => x.budget != 0 && decide (x.budget ≤ nbits ((s.peek (ia + 56) 1).getD 0 0) 47 0)
    | none => false)

/-! ## Ranges (R85) -/

/-- R85, R128: the stack translator has no page for a device IA. -/
def State.pageAbsent (s : State) (ia : Nat) : Bool :=
  let st := s.stack (iaStack ia)
  let root := nbits st.stroot.toNat 35 0
  root == 0 || (match walk true (fun a => s.dram64 (dkey (iaStack ia) a)) root (iaSvo ia) with
    | .absent _ _ => true
    | _ => false)

/-- R66, R85: the ranges of a launch: base VA and length. -/
def State.launchRanges (s : State) (l : Launch) : List (Nat × Nat) :=
  (List.range (l.field 6 61 57)).filterMap (fun i =>
    match s.translate l.asid (l.field 6 56 0 + 16 * i) .read with
    | .error _ => none
    | .ok (ia, _) => let e := s.peek ia 2; some (nbits (e.getD 0 0) 56 0, nbits (e.getD 1 0) 47 0))

/-- R85, R128: the IAs of the device structures that a look at a leaf of a partition reads beside its queue, and then at the launch there. -/
def State.leafReads (s : State) (part : Nat) (r : Rcb) : List Nat :=
  (r.path.filter (fun ia => (s.part part).tree.any (fun x => x.ia == ia && x.budget != 0))).map (· + 56) ++
  (if s.saveArea part = 0 then [] else [s.saveArea part + 512 + 8 * (r.fdom / 64)])

def State.launchReads (s : State) (l : Launch) : List Nat :=
  (List.range (l.field 6 61 57)).filterMap (fun i => match s.translate l.asid (l.field 6 56 0 + 16 * i) .read with
    | .error _ => none
    | .ok (ia, _) => some ia)

/-- The IAs, one for each 4 KiB, of a range of an ASID. -/
def State.rangeIas (s : State) (asid base len : Nat) : List Nat :=
  (List.range ((base % 4096 + len + 4095) / 4096)).filterMap (fun i =>
    match s.translate asid (base / 4096 * 4096 + 4096 * i) .read with
    | .error _ => none
    | .ok (ia, _) => if iaIsDev ia then some ia else none)

/-- R85: every page of the launch's ranges is resident. -/
def State.rangesResident (s : State) (l : Launch) : Bool :=
  (s.launchRanges l).all (fun r => (s.rangeIas l.asid r.1 r.2).all (fun ia => !s.pageAbsent ia))

/-! ## Room on a core (R18, R35, R70) -/

/-- Workgroups that hold rows of a core, and those that hold its scratchpad. -/
def State.rowWgs (s : State) (c : Nat) : List Workgroup :=
  (Tbl.vals s.wgs).filter (fun g => g.stack.isNone && g.core == c && !g.retired && !g.swapped)
def State.scrWgs (s : State) (c : Nat) : List Workgroup :=
  (Tbl.vals s.wgs).filter (fun g => g.stack.isNone && g.core == c && !g.swapped && g.scrUnits != 0)

/-- R70: the lowest free range of `n` scratchpad units (of 32 bytes) of a core. -/
def State.scrRoom (s : State) (c n : Nat) : Option Nat :=
  let used := (s.scrWgs c).map (fun g => (g.scrBase, g.scrUnits))
  if n = 0 then some 0
  else (sortBy id (0 :: used.map (fun u => u.1 + u.2))).find? (fun b =>
    decide (b + n ≤ Config.scrUnits) && used.all (fun u => !overlaps u.1 u.2 b n))

/-- R18, R35: rows and registers for a workgroup of `t` threads with `n` registers. -/
def State.rowRoom (s : State) (c t n : Nat) : Option (List Nat) :=
  let gs := s.rowWgs c
  let used := gs.flatMap Workgroup.rows
  let k := (t + 63) / 64
  let free := ((List.range Config.rowSlots).filter (fun r => !used.contains r)).take k
  let regs := (gs.map (fun g => g.rows.length * g.n)).foldl (· + ·) 0
  if free.length = k ∧ regs + k * n ≤ Config.laneRegs then some free else none

/-- R70: the launch's workgroup fits on a core. -/
def State.fitsOn (s : State) (c : Nat) (l : Launch) : Option (Nat × List Nat × Nat) :=
  if (s.core c).halted then none
  else match s.rowRoom c l.threads l.nregs, s.scrRoom c l.scrUnits with
    | some rows, some b => some (c, rows, b)
    | _, _ => none

/-- R70, R37: the cores that a launch's next workgroups go to when core c is examined. -/
def State.places (s : State) (p : Partition) (c : Nat) (l : Launch) : Option (List (Nat × List Nat × Nat)) :=
  if l.csize = 1 then (s.fitsOn c l).map (fun x => [x])
  else
    let room := ((rangeFrom (c / 4 * 4) 4).filter (fun k => p.cores.contains k)).filterMap (fun k => s.fitsOn k l)
    let sel := room.take l.csize
    if sel.length = l.csize ∧ sel.any (fun x => x.1 == c) = true then some sel else none

/-! ## Placing a workgroup (R33 to R37, R48) -/

def launchThread (wg t pc row : Nat) : Thread := { Thread.blank with wg := wg, t := t, pc := pc, row := row, lane := t % 64 }

def launchBraid (g : Workgroup) (b : Nat) : Braid :=
  { Braid.blank with wg := g.id, idx := b, hitch := List.replicate 12 (Hitch.launch (g.braidLanes b) 0) }

/-- R36: a workgroup becomes resident whole. -/
def State.place (s : State) (l : Launch) (g : Workgroup) : State :=
  let s1 := { s with wgs := Tbl.put s.wgs g.id g }
  let s2 := (List.range g.t).foldl (fun s t =>
    { s with threads := Tbl.put s.threads (tkey g.id t) (launchThread g.id t l.entry (g.rows.getD (t / 64) 0)) }) s1
  (List.range (g.t / g.w)).foldl (fun s b => { s with braids := Tbl.put s.braids (bkey g.id b) (launchBraid g b) }) s2

/-- R37, R67: the workgroup of a launch with number `w`, as member `m` of the gang `ids`. -/
def launchWg (l : Launch) (ids : List Nat) (m w : Nat) (x : Nat × List Nat × Nat) : Workgroup :=
  { Workgroup.blank with
    id := ids.getD m 0, core := x.1, part := l.part, leaf := l.leaf, launch := l.id, launchIa := l.ia, asid := l.asid,
    dom := l.dom, t := l.threads, w := l.width, n := l.nregs, rows := x.2.1, wgnum := w, grid := l.grid,
    args := l.field 3 56 0, csize := l.csize, member := m, gang := ids, scrBase := x.2.2, scrUnits := l.scrUnits,
    hitch := List.replicate 4 (Hitch.launch 0#64 l.threads), streams := List.replicate 8 Stream.blank }

/-- R67, R69: dispatch the next workgroups of a launch. -/
def State.dispatch (s : State) (l : Launch) (xs : List (Nat × List Nat × Nat)) : State :=
  let h := s.leafHdr l.queue
  let old := (Tbl.vals s.launches).find? (fun x => x.queue == l.queue && x.pos == l.pos)
  let (s1, id) := match old with
    | some o => (s, o.id)
    | none => s.freshId
  let l1 := { old.getD { l with total := l.wgs } with id := id }
  let ids := rangeFrom s1.nextId xs.length
  let s2 := { s1 with nextId := s1.nextId + xs.length }
  let s3 := (List.range xs.length).foldl (fun s i =>
    s.place l1 (launchWg l1 ids i (h.nextwg + i) (xs.getD i (0, [], 0)))) s2
  let next := h.nextwg + xs.length
  let out := decide (l1.total ≤ next)
  let s4 := State.modPart { s3 with launches := Tbl.put s3.launches id { l1 with allOut := out } } l.part (fun p =>
    if old.isSome then p else { p with seen := (p.seen ++ (s.launchRanges l).map (fun r => (l.asid, r.1, r.2))).eraseDups })
  if out then s4.passHead l.queue h.head else s4.putNextwg l.queue next

/-! ## Selection (R69, R70, R78) -/

/-- A leaf that may dispatch to a core: its place in the ring from the pointer, its deficit and its launch. -/
structure Choice where
  r : Rcb
  l : Launch
  xs : List (Nat × List Nat × Nat)
  deriving DecidableEq, Repr

/-- R70: the deficit round-robin over a ring of leaves: when a candidate at distance `o` from the pointer dispatches,
counted in visits of the loop. -/
def drrVisit (len o : Nat) (deficit : Int) (quantum : Nat) : Nat :=
  if 0 < deficit then o else ((-deficit).toNat / quantum + 1) * len + o

/-- R70: how many quanta a candidate has taken when the loop stops at visit `stop`. -/
def drrAdds (len o stop : Nat) : Nat := if o < stop then (stop - 1 - o) / len + 1 else 0

/-- DRR_SELECT (R70): the loop's result for the candidates `cs` at a level. A pointer kept while the ring of its level has changed is taken
modulo the new length (DESIGN CHOICE, log entry 80). -/
def State.drr (s : State) (part level : Nat) (cs : List Choice) : State :=
  let ring := (s.part part).leaves.filter (fun r => r.prio == level)
  let len := ring.length
  let ptr := Tbl.getD (s.part part).ptr level 0 % len
  let off := fun (r : Rcb) => (ring.findIdx (fun x => x.ia == r.ia) + len - ptr) % len
  let visit := fun (c : Choice) => drrVisit len (off c.r) (s.leafHdr c.r.queue).deficit c.r.quantum
  match minBy visit cs with
  | none => s
  | some w =>
    let stop := visit w
    let s1 := cs.foldl (fun s c =>
      let n := drrAdds len (off c.r) stop
      if n = 0 then s else s.putDeficit c.r.queue ((s.leafHdr c.r.queue).deficit + n * c.r.quantum)) s
    (s1.modPart part (fun p => { p with ptr := Tbl.put p.ptr level ((ptr + off w.r) % len) })).dispatch w.l w.xs

/-- R70: the selection for a core of a partition, among the leaves' head launches. -/
def State.select (s : State) (part c : Nat) (heads : List (Rcb × Launch)) : Option State :=
  let p := s.part part
  let cs := heads.filterMap (fun h => (s.places p c h.2).map (fun xs => (⟨h.1, h.2, xs⟩ : Choice)))
  match maxBy (fun (x : Choice) => x.r.prio) cs with
  | none => none
  | some top =>
    let lv := cs.filter (fun x => x.r.prio == top.r.prio)
    let lv := if (s.die (dieOf c)).power.lowHeadroom then
        match minBy (fun (x : Choice) => x.l.eclass) lv with
        | some m => lv.filter (fun x => x.l.eclass == m.l.eclass)
        | none => lv
      else lv
    some (s.drr part top.r.prio lv)

/-- R64, R65, R66, R70, R85, R410: the head launch of a leaf, if it may be dispatched. -/
def State.headOf (s : State) (part : Nat) (r : Rcb) : State × Option Launch :=
  let s0 := s.touchAll (s.leafReads part r)
  if s0.exhausted part r || s0.domHalted part r.fdom then (s0, none)
  else
    match s0.headLaunch part r ((s0.leafHdr r.queue).count + 1) with
    | (s1, some l) =>
      let s2 := s1.touchAll (s1.launchReads l)
      (s2, if s2.heldByOrder l || !s2.rangesResident l || (s2.part part).killing.contains l.asid then none else some l)
    | (s1, none) => (s1, none)

/-- The head launches of a partition that may be dispatched, with their leaves. -/
def State.heads (s : State) (part : Nat) : State × List (Rcb × Launch) :=
  (s.part part).leaves.foldl (fun (a : State × List (Rcb × Launch)) r =>
    let x := a.1.headOf part r
    (x.1, a.2 ++ (x.2.map (fun l => (r, l))).toList)) (s, [])

/-- R69: examine the cores in order until one receives a workgroup. Of a cluster gang the core that was examined counts as the one that
received it (DESIGN CHOICE, log entry 80). -/
def State.dispatchOver (s : State) (die : Nat) (heads : Tbl (List (Rcb × Launch))) : List (Nat × Nat) → State
  | [] => s
  | (c, part) :: r =>
    match s.select part c (Tbl.getD heads part []) with
    | some s1 => s1.modDie die (fun d => { d with lastCore := some c })
    | none => State.dispatchOver s die heads r

/-- R61: the partitions that are resident and not being replaced. -/
def State.residents (s : State) : List Nat := (List.range 8).filter (fun p => (s.part p).resident && !(s.part p).halting && (s.part p).swapAt.isNone)

/-- DISPATCH_STEP (R69): the dispatcher whose step this CLK is: die 0 where CLK / 4 is even. -/
def execDispatchStep (s : State) : Res :=
  let die := s.clk / 4 % 2
  let ps := s.residents
  let (s1, heads) := ps.foldl (fun (a : State × Tbl (List (Rcb × Launch))) p =>
    let (s', h) := a.1.heads p
    (s', Tbl.put a.2 p h)) (s, [])
  let cores := (rangeFrom (96 * die) 96).filterMap (fun c =>
    (ps.find? (fun p => (s.part p).cores.contains c)).map (fun p => (c, p)))
  let last := (s.die die).lastCore
  let (after, before) := match last with
    | none => (cores, [])
    | some l => (cores.filter (fun x => decide (l < x.1)), cores.filter (fun x => decide (x.1 ≤ l)))
  .next (if s.tripped then s else s1.dispatchOver die heads (after ++ before))

/-! ## Retirement and completion (R38, R64, R67, R68, R406, R408) -/

/-- A turn of a core holds a packet of the workgroup. -/
def State.inTurn (s : State) (wg : Nat) : Bool :=
  s.cores.any (fun c => match c.2.turn with
    | some t => t.pkts.any (fun p => p.members.any (fun m => m.wg == wg))
    | none => false)

/-- R255: a memory word that brings a result. -/
def MOp.hasResult (m : MOp) : Bool :=
  match m.kind with
  | .load .. => true
  | .lds .. => true
  | .atom .. => true
  | .atoms .. => true
  | _ => false

/-- R38, R255, R407, R408: every thread has exited with no result pending, or the workgroup has been ended. -/
def State.retirable (s : State) (wg : Nat) : Bool :=
  let g := s.wgrp wg
  !g.retired && (!g.swapped || g.stopping) && !s.inTurn wg &&
    (g.stopping || (g.ended.isNone && (s.threadsOf wg).all (fun x => (x.exited || x.off) && x.mops.all (fun m => !m.hasResult) &&
      x.busy.all (fun p => x.clear s.clk p.1))))

/-- R62, R64: a leaf and its ancestors by the parent links as they stand in memory, for a leaf that is no longer in the loaded tree. -/
def State.linkPath (s : State) : Nat → Nat → List Nat
  | 0, _ => []
  | k + 1, ia => if ia = 0 then [] else ia :: State.linkPath s k (nbits ((s.peek ia 1).getD 0 0) 51 0)

/-- R64, R70: the charge of a workgroup goes to its leaf and every ancestor, and off its leaf's deficit. -/
def State.chargeLeaf (s : State) (g : Workgroup) : State :=
  let (path, queue) := match (s.part g.part).tree.find? (fun x => x.ia == g.leaf) with
    | some r => (r.path, r.queue)
    | none => (s.linkPath 8 g.leaf, nbits ((s.peek (g.leaf + 24) 1).getD 0 0) 51 0)
  let s1 := path.foldl (fun s ia =>
    let u := (s.peek (ia + 56) 1).getD 0 0
    s.putBytes 0 (ia + 56) (leBytes 6 (u + g.charge))) s
  if queue = 0 then s1 else (s1.putDeficit queue ((s1.leafHdr queue).deficit - g.charge)).settle queue

/-- R408: one class-1 record for each braid with a nonzero FMASK, and the status record's first lane fault. -/
def State.laneReports (s : State) (g : Workgroup) : State :=
  let bs := (Tbl.vals s.braids).filter (fun b => b.wg == g.id && b.fmask != 0#64)
  bs.foldl (fun s b =>
    let a := b.firstLane.getD ⟨0, 0, 0, 0#32, 0, s.clk⟩
    let s1 := s.report g.part g.dom { s.threadReport 1 a.cause a.info g.id b.firstT a.pc a.raw.toNat with clk := some a.clk }
    match Tbl.get? s1.launches g.launch with
    | some l =>
      if l.lanef.isSome then s1
      else
        let l1 := { l with lanef := some (g.wgnum, b.idx % 256, b.fmask, a.cause) }
        State.putStatus { s1 with launches := Tbl.put s1.launches l.id l1 } l1 false false none
    | none => s1) s

/-- Memory words and stores of a workgroup that are not complete. -/
def State.wgPending (s : State) (wg : Nat) : Bool :=
  (s.threadsOf wg).any (fun x => !x.mops.isEmpty) || (Tbl.vals s.braids).any (fun b => b.wg == wg && !b.storeQ.isEmpty)

/-- R83: an engine queue takes saved entries back, behind those present. -/
def State.unqueue (s : State) (e : Nat × Nat × Nat × List QEntry) : State :=
  let (kind, unit, q, l) := e
  if l.isEmpty then s
  else if kind = 0 then s.modCluster unit (fun x => { x with copyQ := modAt x.copyQ q (· ++ l) })
  else if kind = 1 then s.modDie unit (fun x => { x with spliceQ := modAt x.spliceQ q (· ++ l) })
  else s.modTile unit q (fun x => { x with queue := x.queue ++ l })

/-- R38, R427: a gang gives up the tiles that a swap has saved for it, but for those that a request of `rs` uses; entries of others in their
queues stay. -/
def State.forgetTiles (s : State) (part : Nat) (gang : List Nat) (rs : List EReq) : State :=
  let gone := fun (t : Nat × Nat × Tile) => t.2.2.claim == some gang && !rs.any (fun r => r.usesTile t.1 t.2.1)
  let ts := (s.part part).shadow.tiles.filter gone
  if ts.isEmpty then s
  else
    let qs := ts.map (fun t => (2, t.1, t.2.1, t.2.2.queue))
    let s1 := s.modPart part (fun p => { p with shadow := { p.shadow with
      tiles := p.shadow.tiles.filter (fun t => !gone t),
      queues := if p.saved then p.shadow.queues ++ qs else p.shadow.queues } })
    if (s.part part).saved then s1 else qs.foldl State.unqueue s1

/-- Stores to scratchpad that a gang has left in its queues are performed, in order. -/
def State.scrDrain (s : State) (gang : List Nat) : State :=
  let bs := (Tbl.vals s.braids).filter (fun b => gang.contains b.wg && b.storeQ.any SEntry.scratch)
  let es := sortBy SEntry.seq (bs.flatMap (fun b => b.storeQ.filter SEntry.scratch))
  let s1 := es.foldl (fun s e => s.scrWrite e.core e.addr e.data) s
  bs.foldl (fun s b => s.modBrd b.wg b.idx (fun x => { x with storeQ := x.storeQ.filter (fun e => !e.scratch) })) s1

/-- R38, R167: the scratchpad of each member of a gang and the tile claims of the gang are freed, but for what an open request of `rs` reads or
writes. -/
def State.freeStore (s : State) (gang : List Nat) (rs : List EReq) : State :=
  let s1 := (s.scrDrain gang).forgetTiles (s.wgrp (gang.headD 0)).part gang rs
  let s2 := { s1 with wgs := Tbl.each s1.wgs (fun k g =>
    if gang.contains k && !rs.any (fun r => r.usesScratch k) then { g with scrUnits := 0 } else g) }
  s2.clusters.foldl (fun s c => (List.range 8).foldl (fun s t =>
    if (s.tile c.1 t).claim == some gang && !rs.any (fun r => r.usesTile c.1 t) then
      (s.modTile c.1 t (fun x => { x with claim := none })).due (.event (.tileClaimPass c.1 t))
    else s) s) s2

/-- R38: what a gang whose members have all retired still holds: its scratchpad and tile claims are freed once the requests that read
or write them are complete; the records of its threads stay while a request or a store of theirs is on its way. -/
def State.freeGang (s : State) (gang : List Nat) : State :=
  let reqs := (Tbl.vals s.reqs).filter (fun r => gang.contains r.wg)
  if !(gang.all (fun w => (s.wgrp w).retired)) then s
  else
    let s1 := s.freeStore gang reqs
    if !reqs.isEmpty || gang.any s1.wgPending then s1
    else { s1 with
      wgs := s1.wgs.filter (fun p => !gang.contains p.1),
      threads := s1.threads.filter (fun p => !gang.contains p.2.wg),
      braids := s1.braids.filter (fun p => !gang.contains p.2.wg) }

/-- The gang of a workgroup: itself where it is alone. -/
def Workgroup.gangIds (g : Workgroup) : List Nat := if g.csize ≤ 1 then [g.id] else g.gang

/-- R67: the release that a launch's completion makes for one of its workgroups begins when the workgroup retires. -/
def State.retireRel (s : State) (g : Workgroup) : State × List (Nat × Nat) :=
  let (s1, q) := s.startRel g.core g.id (List.range g.t) 4 false
  (s1, if q = 0 then [] else [(g.core, q)])

/-- WORKGROUP_RETIRE (R38, R64, R67, R68, R70, R408). -/
def execWorkgroupRetire (wg : Nat) (s : State) : Res :=
  .next (if !s.retirable wg || (s.wgrp wg).stack.isSome || (Tbl.get? s.wgs wg).isNone then s
    else
      let g := s.wgrp wg
      let s1 := (s.chargeLeaf g).laneReports g
      let s2 := s1.modWg wg (fun x => { x with retired := true })
      let s3 := match Tbl.get? s2.launches g.launch with
        | some l =>
          let (s3, rs) := s2.retireRel g
          let l1 := { l with retired := l.retired + 1, rels := l.rels ++ rs }
          let s' := { s3 with launches := Tbl.put s3.launches l.id l1 }
          if l1.done then s'.due (.event .launchComplete) else s'
        | none => s2
      s3.freeGang g.gangIds)

/-- R67, R142: the add of CINC waits: a release of a retired workgroup of the launch, or a memory word of one, is not complete. -/
def State.launchHeld (s : State) (l : Launch) : Bool :=
  l.rels.any (fun r => (s.core r.1).rels.any (fun x => x.id == r.2)) ||
  s.threads.any (fun p => !p.2.mops.isEmpty && (s.wgrp p.2.wg).launch == l.id && (s.wgrp p.2.wg).stack.isNone)

/-- R406: the status record of a launch that has completed, once. -/
def State.tellDone (s : State) (l : Launch) : State := if l.told then s else s.putStatus l true false none

/-- LAUNCH_COMPLETE (R67, R406): every launch whose workgroups have all retired writes its status record; once its accesses are performed, as a
release at .dev, it adds CINC, and the graph nodes that wait for it fire. -/
def execLaunchComplete (s : State) : Res :=
  .next ((Tbl.vals s.launches).foldl (fun s l =>
    if !l.done || l.killed then s
    else if s.launchHeld l then State.tellDone { s with launches := Tbl.put s.launches l.id { l with told := true } } l
    else ((State.tellDone { s with launches := Tbl.del s.launches l.id } l).countLaunch l).launchFires l.queue l.pos) s)

/-- BUDGET_PERIOD (R64): at a multiple of a partition's period, USED of every RCB of the partition is zeroed: of the tree as it stands, and of
the one that was loaded last (R63). -/
def execBudgetPeriod (s : State) : Res :=
  .next ((List.range 8).foldl (fun s p =>
    let per := (s.part p).bperiod.toNat * Config.ccPerUs
    if per = 0 || s.clk % per != 0 then s
    else ((s.readTree p).nodes ++ (s.part p).tree.map Rcb.ia).eraseDups.foldl (fun s ia => s.putBytes 0 (ia + 56) (List.replicate 6 0#8)) s) s)

end Sys2Proof.Machine
end

