-- ==== Sys2Proof/Machine/Swap.lean ====
section
/-! DEFINITION. Residence, time slices and context swaps (spec 03, R59 to R61, R83, R84; R29, R426). -/

namespace Sys2Proof.Machine

/-- R61: a workgroup of the partition that is resident or saved. -/
def State.hasWg (s : State) (part : Nat) : Bool :=
  s.wgs.any (fun p => p.2.part == part && p.2.stack.isNone && !p.2.retired)

/-- R29, R38: the workgroups of a partition that are on its cores, and those that have retired and whose scratchpad is still held. -/
def State.ctxWgs (s : State) (part : Nat) : List Workgroup :=
  (Tbl.vals s.wgs).filter (fun g => g.part == part && g.stack.isNone && (!g.retired || g.scrUnits != 0))

/-- R61: the partition has work. -/
def State.hasWork (s : State) (part : Nat) : Bool :=
  s.hasWg part || ((s.treeOf part).filter Rcb.leaf).any
    (fun r => let h := s.leafHdr r.queue; !h.bad && h.count != 0)

/-- R61: partitions that share a core. -/
def State.shareCore (s : State) (p q : Nat) : Bool := (s.part p).cores.any (fun c => (s.part q).cores.contains c)

/-- R61: resident partitions that hold a core of a partition's mask. -/
def State.holders (s : State) (part : Nat) : List Nat :=
  (List.range 8).filter (fun q => q != part && (s.part q).resident && s.shareCore part q)

/-- R61: the place of a partition in the turns of those of equal priority: after the one resident last, which itself comes last. -/
def State.turnKey (s : State) (q : Nat) : Nat :=
  let eq := (List.range 8).filter (fun p => s.shareCore p q && (s.part p).tookAt != 0 && s.partPrio p == s.partPrio q)
  match maxBy (fun p => (s.part p).tookAt) eq with
  | none => q
  | some last => (q + 7 - last) % 8

/-- R61: partitions that are not resident and have work, highest priority first. -/
def State.waiting (s : State) : List Nat :=
  sortBy (fun q => (7 - s.partPrio q) * 8 + s.turnKey q) ((List.range 8).filter (fun q =>
    !(s.part q).resident && (s.part q).rootRcb != 0#64 && !(s.part q).cores.isEmpty && s.hasWork q))

/-- R61: a resident partition of higher priority holds a core of the partition's mask. -/
def State.outranked (s : State) (q : Nat) : Bool := (s.holders q).any (fun h => decide (s.partPrio q < s.partPrio h))

/-- R61: the cores of `q` are kept for a partition that waits before it in `ahead`: one of higher priority, or one of equal
priority whose turn can come (DESIGN CHOICE, log entry 79). -/
def State.reserved (s : State) (ahead : List Nat) (q : Nat) : Bool :=
  ahead.any (fun a => !(s.part a).resident && s.shareCore a q && (decide (s.partPrio q < s.partPrio a) || !s.outranked a))

/-- R60, R61: the end of a slice. -/
def State.nextSlice (s : State) (part : Nat) : Nat := s.clk + (s.part part).tslice.toNat * Config.ccPerUs

/-- R83, R84: cc of a swap step on a die for a context of which `used` bytes lie in the shadow store and `more` in the save area: 10 us, and as
much again for each further 64 MiB and for each 64 MiB that the save area takes (DESIGN CHOICE, log entry 44). -/
def swapCc (used more : Nat) : Nat :=
  10 * Config.ccPerUs * (max 1 ((used + more + 2 ^ 26 - 1) / 2 ^ 26) + (more + 2 ^ 26 - 1) / 2 ^ 26)

/-- R83, R84: the dies move their parts in parallel. -/
def Context.swapCc (x : Context) : Nat :=
  max (Machine.swapCc (x.used.getD 0 0) (x.spilt.getD 0 0)) (Machine.swapCc (x.used.getD 1 0) (x.spilt.getD 1 0))

/-- R63, R83, R135: a partition takes its cores: effective values are read and instruction caches invalidated; a saved
context is on its way back. -/
def State.takeCores (s : State) (part : Nat) : State :=
  let s1 := (s.part part).cores.foldl (fun s c => s.modCore c (fun x => { x with l1i := [] })) s
  let (s1, now) := s1.freshSeq
  let s2 := s1.modPart part (fun p => { p with
    resident := true, halting := false, sliceEnd := s.nextSlice part, tookAt := now,
    swapAt := if p.saved then some (s.clk + p.shadow.swapCc) else none })
  s2.loadTree part

/-- R83 step 1, 2: the partition is to leave its cores. -/
def State.startHalt (s : State) (part : Nat) : State :=
  let s1 := s.modPart part (fun p => { p with halting := true })
  (s.part part).cores.foldl (fun s c => s.modCore c (fun x => { x with halted := true })) s1

/-- R59: a pending memory result: an access of a thread that is neither logged nor free of a result. -/
def MOp.resultDue (m : MOp) : Bool := m.logged.isNone && m.hasResult

/-- Requests of a partition that an engine holds. -/
def State.partReqs (s : State) (part : Nat) : List Nat :=
  ((Tbl.vals s.reqs).filter (fun r => r.part == part && r.op != .nmcall)).map EReq.id

/-- R59, R83, R426: every core of the partition is halted: turns ended, no result pending, faults taken and their frames written,
passes ended. -/
def State.quiet (s : State) (part : Nat) : Bool :=
  (s.part part).cores.all (fun c => (s.core c).turn.isNone) &&
  (Tbl.vals s.wgs).all (fun g => g.part != part || g.stack.isSome || g.retired ||
    (g.ended.isNone && (s.threadsOf g.id).all (fun x => x.mops.all (fun m => !m.resultDue)) &&
      (Tbl.vals s.braids).all (fun b => b.wg != g.id || b.storeQ.all (fun e => !e.scratch && e.trap.isNone)))) &&
  s.clusters.all (fun c => match c.2.granted with
    | some r => !(s.partReqs part).contains r
    | none => true)

/-- The tile is claimed for a gang of the partition. -/
def State.tileOf (s : State) (part : Nat) (t : Tile) : Bool :=
  match t.claim with
  | some gang => gang.any (fun w => (s.wgrp w).part == part)
  | none => false

/-- R29: the rows of a workgroup that are on its core. -/
def Workgroup.liveRows (g : Workgroup) : List Nat := if g.retired then [] else g.rows

/-- R29: bytes of a partition's context on a die. -/
def State.contextBytes (s : State) (part die : Nat) : Nat :=
  (((s.ctxWgs part).filter (fun g => dieOf g.core == die)).map (fun g => g.liveRows.length * 64 * g.n * 4 + g.scrUnits * 32)).foldl (· + ·) 0 +
  (s.clusters.map (fun c => if dieOfCluster c.1 == die then
    (c.2.tiles.filter (s.tileOf part)).length * 16384 else 0)).foldl (· + ·) 0

def QEntry.ofPart (s : State) (part : Nat) : QEntry → Bool
  | .req id => (s.partReqs part).contains id
  | .fence _ p => p == part

/-- R83: a partition that is to leave has something on its cores or in its engines: a workgroup, a request, or a QFENCE entry. -/
def State.hasContext (s : State) (part : Nat) : Bool :=
  !(s.ctxWgs part).isEmpty || !(s.partReqs part).isEmpty ||
  s.clusters.any (fun c => (c.2.copyQ.flatten ++ c.2.tiles.flatMap Tile.queue).any (QEntry.ofPart s part)) ||
  s.dies.any (fun d => d.2.spliceQ.flatten.any (QEntry.ofPart s part))

/-- R29: the registers of a workgroup's rows, by row, lane and register. -/
def State.rowImage (s : State) (g : Workgroup) : List Byte :=
  (List.range (g.liveRows.length * 64)).flatMap (fun t =>
    (List.range g.n).flatMap (fun r => leBytes 4 (Tbl.getD (s.thr g.id t).v r 0#32).toNat))

/-- R29, R86: a partition's context on a die as bytes (DESIGN CHOICE, log entry 44: the arrangement is the device's own): the registers and
scratchpad bytes of its workgroups, then its tiles. -/
def State.contextImage (s : State) (part die : Nat) : List Byte :=
  ((s.ctxWgs part).filter (fun g => dieOf g.core == die)).flatMap (fun g =>
    s.rowImage g ++ s.scrRead g.core (g.scrBase * 32) (g.scrUnits * 32)) ++
  (s.clusters.filter (fun c => dieOfCluster c.1 == die)).flatMap (fun c =>
    (c.2.tiles.filter (s.tileOf part)).flatMap (fun t => (List.range 4096).flatMap (fun i => leBytes 4 (Tbl.getD t.acc i 0#32).toNat)))

/-- R84, R86: what the shadow store of a die does not take goes to the save area. -/
def State.spill (s : State) (part die used : Nat) : State :=
  if s.saveArea part = 0 then s
  else s.putBytes die (s.saveArea part + 0x400000 + die * 0x6000000) ((s.contextImage part die).drop used)

/-- R83 steps 3 to 5: the context of a halted partition leaves its cores and engines. A request for leave that waits is taken out of the
FIFO and asked again after the restore; the cc that it had waited count for no core (DESIGN CHOICE, log entry 81). -/
def State.saveContext (s : State) (part : Nat) : State :=
  let rs := s.partReqs part
  let mine := s.tileOf part
  let gs := s.ctxWgs part
  let free := fun die => min (s.contextBytes part die) (64 * 2 ^ 20 - (s.die die).shadowUsed)
  let ctx : Context :=
    { reserve := s.clusters.flatMap (fun c => (c.2.table.filter (fun e => rs.contains e.req)).map (fun e => (c.1, e))),
      tiles := s.clusters.flatMap (fun c => ((List.range 8).filter (fun t => mine (s.tile c.1 t))).map
        (fun t => (c.1, t, { s.tile c.1 t with queue := (s.tile c.1 t).queue.filter (QEntry.ofPart s part) }))),
      queues :=
        s.clusters.flatMap (fun c => (List.range 8).map (fun q => (0, c.1, q, (c.2.copyQ.getD q []).filter (QEntry.ofPart s part)))) ++
        s.dies.flatMap (fun d => (List.range 4).map (fun q => (1, d.1, q, (d.2.spliceQ.getD q []).filter (QEntry.ofPart s part)))) ++
        s.clusters.flatMap (fun c => (List.range 8).map (fun q => (2, c.1, q, if mine (s.tile c.1 q) then [] else (s.tile c.1 q).queue.filter (QEntry.ofPart s part)))),
      scratch := gs.map (fun g => (g.id, s.scrRead g.core (g.scrBase * 32) (g.scrUnits * 32),
        (s.core g.core).scrPoison.filter (fun w => decide (g.scrBase * 8 ≤ w) && decide (w < (g.scrBase + g.scrUnits) * 8)))),
      smx := s.clusters.filterMap (fun c => match c.2.smx with
        | some r => if rs.contains r then some ⟨c.1, r, c.2.norm, c.2.prob, c.2.aliasTo⟩ else none
        | none => none),
      rooms := s.clusters.flatMap (fun c => (c.2.waitRoom.filter (fun r => rs.contains r)).map (fun r => (c.1, r))),
      used := [free 0, free 1], spilt := [s.contextBytes part 0 - free 0, s.contextBytes part 1 - free 1], bad := false }
  let drop := fun (l : List QEntry) => l.filter (fun e => !e.ofPart s part)
  let s0 := (s.spill part 0 (free 0)).spill part 1 (free 1)
  let s1 := { s0 with
    clusters := Tbl.each s0.clusters (fun _ c => { c with
      table := c.table.filter (fun e => !rs.contains e.req), waitRoom := c.waitRoom.filter (fun r => !rs.contains r),
      copyQ := c.copyQ.map drop,
      winner := match c.winner with
        | some r => if rs.contains r then none else some r
        | none => none,
      smx := match c.smx with
        | some r => if rs.contains r then none else some r
        | none => none,
      tiles := c.tiles.map (fun t => if mine t then { Tile.reset with queue := drop t.queue } else { t with queue := drop t.queue }) }),
    dies := Tbl.each s0.dies (fun i d => { d with
      spliceQ := d.spliceQ.map drop, shadowUsed := d.shadowUsed + free i,
      power := { d.power with fifo := d.power.fifo.filter (fun e => e.kind == 3 || !rs.contains e.id) } }),
    wgs := Tbl.each s0.wgs (fun _ g => if g.part = part ∧ g.stack = none ∧ (g.retired = false ∨ g.scrUnits ≠ 0) then { g with swapped := true } else g),
    threads := Tbl.each s0.threads (fun _ x => if gs.any (fun g => g.id == x.wg) then
      { x with latch := [none, none, none, none] } else x) }
  let s2 := (s.part part).cores.foldl (fun s c => s.l1Drop c (fun _ => true)) s1
  let s3 := ctx.tiles.foldl (fun s t => s.due (.event (.tileClaimPass t.1 t.2.1))) s2
  s3.modPart part (fun p => { p with shadow := ctx, saved := true, swapAt := some (s.clk + ctx.swapCc) })

/-- R86: the image of the fired nodes of a partition that leaves its cores. -/
def State.fifoImage (s : State) (part : Nat) : State :=
  let es := (s.die (s.walkerDie part)).walkFifo.filter (fun e => e.1 == part)
  if s.saveArea part = 0 then s
  else s.putBytes 0 (s.saveArea part + 0x210000)
    (leBytes 4 es.length ++ es.flatMap (fun e => leBytes 4 (e.2.1 * 65536 + e.2.2)))

/-- R83 step 6: the partition has left; its cores are free. -/
def State.leaveCores (s : State) (part : Nat) : State :=
  let s1 := s.modPart part (fun p => { p with resident := false, halting := false, swapAt := none })
  ((s.part part).cores.foldl (fun s c => s.modCore c (fun x => { x with halted := false, lastWin := none })) s1).fifoImage part

/-- PARTITION_SWAP (R61, R63, R83): the next step of the scheduler's residence: a partition without work leaves, a halted one
is saved, a saved one leaves its cores, and the waiting partitions take free cores or have lower ones halted. -/
def execPartitionSwap (s : State) : Res :=
  let s1 := (List.range 8).foldl (fun s p =>
    let x := s.part p
    if !x.resident then s
    else if x.halting then
      match x.swapAt with
      | some t => if t ≤ s.clk then s.leaveCores p else s
      | none =>
        if !s.quiet p then s
        else if s.hasContext p then s.saveContext p
        else s.leaveCores p
    else if x.swapAt.isNone && !s.hasWork p then s.leaveCores p
    else s) s
  .next (s1.waiting.foldl (fun (a : State × List Nat) q =>
    let (s, ahead) := a
    let hs := s.holders q
    if (s.part q).resident then a
    else if hs.isEmpty && !s.reserved ahead q then (s.takeCores q, ahead)
    else if !hs.isEmpty && hs.all (fun h => decide (s.partPrio h < s.partPrio q)) then
      (hs.foldl (fun s h => if (s.part h).halting || (s.part h).swapAt.isSome then s else s.startHalt h) s, ahead ++ [q])
    else (s, ahead ++ [q])) (s1, [])).1

def State.req (s : State) (id : Nat) : Option EReq := Tbl.get? s.reqs id
def State.modReq (s : State) (id : Nat) (f : EReq → EReq) : State := { s with reqs := Tbl.mod s.reqs id f }

/-- R75: the next waiting request of the core takes a freed reservation entry. -/
def State.fillTable (s : State) (cl core : Nat) : State :=
  let c := s.cluster cl
  if 8 ≤ (c.table.filter (fun e => e.core == core)).length then s
  else match c.waitRoom.find? (fun id => (s.req id).any (fun r => r.core == core)) with
    | none => s
    | some id =>
      match s.req id with
      | none => s
      | some r =>
        let (s1, q) := s.freshSeq
        let e : Reserve := ⟨id, core, r.work.getD 0 0, r.work.getD 1 0, r.work.getD 2 0, 0, q⟩
        s1.modCluster cl (fun c => { c with table := c.table ++ [e], waitRoom := c.waitRoom.filter (· != id) })

/-- R29, R83, R176: a saved tile returns, with the entries of its queue before those present, where no other claimant holds the tile; the
rest wait for the claim (TILE_CLAIM_PASS), and so do the tile's readers (DESIGN CHOICE, log entry 82). -/
def State.untile (s : State) (part : Nat) (t : Nat × Nat × Tile) : State :=
  if (s.tile t.1 t.2.1).claim.isSome then s
  else
    let s1 := s.modTile t.1 t.2.1 (fun x => { t.2.2 with queue := t.2.2.queue ++ x.queue })
    s1.modPart part (fun p => { p with shadow := { p.shadow with tiles := p.shadow.tiles.filter (fun y => y.1 != t.1 || y.2.1 != t.2.1) } })

/-- R167: the saved tables of an SMX request return where no other request of the engine holds them. -/
def State.unsmx (s : State) (part : Nat) (x : SmxSave) : State :=
  if (s.cluster x.cluster).smx.isSome then s
  else
    let s1 := s.modCluster x.cluster (fun c => { c with smx := some x.req, norm := x.norm, prob := x.prob, aliasTo := x.aliasTo })
    s1.modPart part (fun p => { p with shadow := { p.shadow with smx := p.shadow.smx.filter (fun y => y.cluster != x.cluster) } })

/-- R73: the copies and scatters of a restored partition that had asked leave and not got it ask again. -/
def State.askAgain (s : State) (part : Nat) : State :=
  ((Tbl.vals s.reqs).filter (fun r => r.part == part && r.leave == 1)).foldl (fun s r =>
    s.due (.event (.leaveRequest (dieOf r.core) (if r.op = .rtscat then 2 else 1) r.id))) s

/-- R83 step 6, R84, R426, R459: a saved context is back: rows return to the slots they left, entries arrive after those present,
and the deadlock rule is evaluated again. -/
def State.restoreContext (s : State) (part : Nat) : State :=
  let ctx := (s.part part).shadow
  let s1 := ctx.queues.foldl State.unqueue s
  let s2 := ctx.tiles.foldl (fun s t => s.untile part t) s1
  let s3 := ctx.rooms.foldl (fun s x => s.modCluster x.1 (fun c => { c with waitRoom := c.waitRoom ++ [x.2] }))
    (ctx.smx.foldl (fun s x => s.unsmx part x) s2)
  let s4 := ctx.reserve.foldl (fun s e =>
    let (s', q) := s.freshSeq
    s'.modCluster e.1 (fun c => { c with table := c.table ++ [{ e.2 with arrival := q }] })) s3
  -- R75: entries that have become free while the context was away are filled
  let s4 := ctx.rooms.foldl (fun s x => match s.req x.2 with
    | some r => s.fillTable x.1 r.core
    | none => s) s4
  let s5 := (ctx.scratch.filter (fun e => (Tbl.get? s.wgs e.1).any (fun g => g.scrUnits != 0))).foldl (fun s e =>
    let g := s.wgrp e.1
    (s.scrWrite g.core (g.scrBase * 32) e.2.1).modCore g.core (fun c => { c with scrPoison := c.scrPoison ++ e.2.2 })) s4
  let gs := (Tbl.vals s5.wgs).filter (fun g => g.part == part && g.swapped)
  let s6 := { s5 with
    wgs := Tbl.each s5.wgs (fun _ g => if g.part = part then { g with swapped := false } else g),
    dies := Tbl.each s5.dies (fun i d => { d with shadowUsed := d.shadowUsed - ctx.used.getD i 0 }) }
  -- R459: an uncorrectable word of the context, for the domain of each workgroup that it is restored for
  let s6 := if ctx.bad then gs.foldl (fun s g => s.raiseRegion part g.dom g.id ⟨0x64, 0, 0, 0, 0#32, s.clk⟩) s6 else s6
  let s7 := (gs.foldl (fun s g => s.evalDeadlock g.id) s6).askAgain part
  s7.modPart part (fun p => { p with
    saved := false, swapAt := none, sliceEnd := s.nextSlice part,
    shadow := { p.shadow with reserve := [], queues := [], scratch := [], rooms := [], used := [], spilt := [], bad := false } })

/-- CONTEXT_RESTORE (R83 step 6, R84): every partition whose context has come back resumes. -/
def execContextRestore (s : State) : Res :=
  .next ((List.range 8).foldl (fun s p =>
    let x := s.part p
    match x.swapAt with
    | some t => if x.resident && x.saved && !x.halting && decide (t ≤ s.clk) then s.restoreContext p else s
    | none => s) s)

/-- TIME_SLICE_END (R61): at the end of a slice a partition of equal priority that shares a core takes its turn, unless one of higher
priority keeps it from its cores (DESIGN CHOICE, log entry 79). -/
def execTimeSliceEnd (s : State) : Res :=
  .next ((List.range 8).foldl (fun s p =>
    let x := s.part p
    if !x.resident || x.halting || x.swapAt.isSome || x.tslice == 0#32 || decide (s.clk < x.sliceEnd) then s
    else if s.waiting.any (fun q => s.shareCore p q && s.partPrio q == s.partPrio p && !s.outranked q) then s.startHalt p
    else s.modPart p (fun y => { y with sliceEnd := s.nextSlice p })) s)

end Sys2Proof.Machine
end

