-- ==== Sys2Proof/Machine/Engines.lean ====
section
/-! DEFINITION. What the engines share: requests and their queues, QFENCE entries, engine faults, engine accesses, completion
(spec 07; R52, R53, R158 to R162, R167, R297, R341, R444 to R446). -/

namespace Sys2Proof.Machine

/-! ## Queues (R159, R160) -/

/-- A queue: its kind (0 copy, 1 splice, 2 tile), its unit and its number. -/
structure QRef where
  kind : Nat
  unit : Nat
  q : Nat
  deriving DecidableEq, Repr

def State.queue (s : State) (r : QRef) : List QEntry :=
  if r.kind = 0 then (s.cluster r.unit).copyQ.getD r.q []
  else if r.kind = 1 then (s.die r.unit).spliceQ.getD r.q []
  else (s.tile r.unit r.q).queue

def State.modQueue (s : State) (r : QRef) (f : List QEntry → List QEntry) : State :=
  if r.kind = 0 then s.modCluster r.unit (fun x => { x with copyQ := modAt x.copyQ r.q f })
  else if r.kind = 1 then s.modDie r.unit (fun x => { x with spliceQ := modAt x.spliceQ r.q f })
  else s.modTile r.unit r.q (fun x => { x with queue := f x.queue })

/-- The queues that a QFENCE of an engine or cluster may name. -/
def nearQueues (r : QRef) : List QRef :=
  if r.kind = 1 then (List.range 4).map (fun q => ⟨1, r.unit, q⟩)
  else (List.range 8).map (fun q => ⟨0, r.unit, q⟩) ++ (List.range 8).map (fun q => ⟨2, r.unit, q⟩)

/-- A QFENCE stands in the queue of a tile that a swap has saved and that is not yet back. -/
def State.fenceAway (s : State) (e : QEntry) : Bool := s.parts.any (fun p => p.2.shadow.tiles.any (fun t => t.2.2.queue.contains e))

/-- R160: a QFENCE at the head of every queue that holds it leaves them all; otherwise it stays. -/
def State.tryFence1 (s : State) (r : QRef) : State :=
  match (s.queue r).head? with
  | some (.fence id p) =>
    let qs := (nearQueues r).filter (fun x => (s.queue x).contains (.fence id p))
    if qs.all (fun x => (s.queue x).head? == some (.fence id p)) && !s.fenceAway (.fence id p) then
      qs.foldl (fun s x => s.modQueue x (fun l => l.drop 1)) s
    else s
  | _ => s

/-- R160, R167: QFENCE entries that may leave the heads of the queues near `r` do. Fuel: one round for each queue. -/
def State.settleFences (s : State) (r : QRef) : Nat → State
  | 0 => s
  | k + 1 => State.settleFences ((nearQueues r).foldl State.tryFence1 s) r k

/-- The request at the head of a queue. -/
def State.headReq (s : State) (r : QRef) : Option EReq :=
  match (s.queue r).head? with
  | some (.req id) => s.req id
  | _ => none

/-- The queue of a request. -/
def EReq.qref (r : EReq) : QRef :=
  match r.op with
  | .mxs => ⟨2, clusterOf r.core, r.q⟩
  | .smx => ⟨2, clusterOf r.core, r.q⟩
  | .cpbox => ⟨0, clusterOf r.core, r.q⟩
  | .cplin => ⟨0, clusterOf r.core, r.q⟩
  | _ => ⟨1, dieOf r.core, r.q % 4⟩

/-- R167: the SMX tables are free again; a saved request of a resident partition takes them back. -/
def State.freeSmx (s : State) (cl : Nat) : State :=
  let s1 := s.modCluster cl (fun c => { c with smx := none })
  match s1.parts.findSome? (fun p => if p.2.resident && p.2.swapAt.isNone then
      (p.2.shadow.smx.find? (fun x => x.cluster == cl)).map (fun x => (p.1, x)) else none) with
  | some (p, x) => s1.unsmx p x
  | none => s1

/-- Where the numbers of the engine requests that wait for a port begin, in the list of requests to peers. -/
def portWait : Nat := 2 ^ 70

/-- A request leaves every queue and table, and is gone. -/
def State.dropReq (s : State) (id : Nat) : State :=
  match s.req id with
  | none => s
  | some r =>
    let s1 := { s with
      clusters := Tbl.each s.clusters (fun _ c => { c with
        table := c.table.filter (fun e => e.req != id), waitRoom := c.waitRoom.filter (· != id),
        winner := if c.winner = some id then none else c.winner,
        granted := if c.granted = some id then none else c.granted }),
      dies := Tbl.each s.dies (fun _ d => { d with
        power := { d.power with fifo := d.power.fifo.filter (fun e => e.kind == 3 || e.id != id) } }),
      stackTbl := Tbl.each s.stackTbl (fun _ k => { k with calls := k.calls.filter (fun c => c.req != id) }),
      parts := Tbl.each s.parts (fun _ p => { p with
        shadow := { p.shadow with
          reserve := p.shadow.reserve.filter (fun e => e.2.req != id), rooms := p.shadow.rooms.filter (fun e => e.2 != id),
          tiles := p.shadow.tiles.map (fun t => (t.1, t.2.1, { t.2.2 with queue := t.2.2.queue.filter (· != .req id) })),
          queues := p.shadow.queues.map (fun q => (q.1, q.2.1, q.2.2.1, q.2.2.2.filter (· != .req id))) } }),
      peerReqs := s.peerReqs.filter (fun x => x.id != portWait + id), formed := s.formed.filter (· != id), reqs := Tbl.del s.reqs id }
    let s2 := if r.op = .nmcall then s1 else (s1.modQueue r.qref (fun l => l.filter (· != .req id))).settleFences r.qref 16
    if r.op != .mxs && r.op != .smx then s2
    else
      let cl := clusterOf r.core
      let s3 := if (s2.cluster cl).smx = some id then s2.freeSmx cl else s2
      (s3.fillTable cl r.core).due (.event (.tileClaimPass cl r.q))

/-! ## Engine faults (R445, R446) -/

/-- R445: the request stops and its workgroup or gang ends. -/
def State.engineFault (s : State) (r : EReq) (cause info : Nat) : State :=
  (s.dropReq r.id).raiseFatal r.wg ⟨cause, info, r.t, r.pc, r.word, s.clk⟩

/-- R410, R445, R456, R458, R461: the request stops and its domain is region-fatal. -/
def State.engineRegion (s : State) (r : EReq) (cause info : Nat) : State :=
  (s.dropReq r.id).raiseRegion r.part r.dom r.wg ⟨cause, info, r.t, r.pc, r.word, s.clk⟩

/-- R410: its domain has met a region-fatal fault: a request that has not begun is to be discarded. -/
def State.doomed (s : State) (r : EReq) : Bool := !r.begun && s.regionFaults.any (fun f => f.part == r.part && f.dom == r.dom)

/-- Where a request stands, for a class-0 record. -/
def EReq.report (r : EReq) (s : State) (cause info : Nat) : Report :=
  s.threadReport 0 cause info r.wg r.t r.pc r.word.toNat

/-- R375, R448, R455: a request that has sent to peer `d`, or has no port to it, waits for its answer; each 10 us without one is a failed
try. -/
def State.engineHeld (s : State) (r : EReq) (d : Nat) : State :=
  let s1 := s.modReq r.id (fun x => { x with waiting := some (16 + d) })
  if s1.peerReqs.any (fun x => x.id == portWait + r.id) then s1
  else { s1 with peerReqs := s1.peerReqs ++ [⟨portWait + r.id, d, r.dom, r.part, 1, s.clk⟩] }

/-- R435, R446, R456: an access of a request at `va` fails at its home. -/
def State.engineErr (s : State) (r : EReq) (va : Nat) : MErr → State
  | .notRes tr page ev =>
    if r.replay && r.missed == some (tr, page) then s.engineFault r 0x52 (va % 2 ^ 57)
    else (s.reportPage r.part r.dom tr page ev (r.report s 0x40 0)).modReq r.id
      (fun x => { x with waiting := some tr, missed := some (tr, page), replay := false })
  | .region c i => s.engineRegion r c i
  | .refused => s.engineFault r 0x52 (va % 2 ^ 57)
  | .held d => s.engineHeld r d

/-! ## Engine accesses (R123, R158, R432, R442, R444) -/

/-- What an engine access meets: an error at the home, or no translation (0x52). -/
inductive EErr where
  | home (va : Nat) (e : MErr)
  | access (va : Nat)
  deriving DecidableEq, Repr

/-- R446: the request waits and tries the access again; otherwise it ends. -/
def EErr.retried (r : EReq) : EErr → Bool
  | .home _ (.notRes tr page _) => !(r.replay && r.missed == some (tr, page))
  | .home _ (.held _) => true
  | _ => false

def State.engineStop (s : State) (r : EReq) : EErr → State
  | .home va e => s.engineErr r va e
  | .access va => s.engineFault r 0x52 (va % 2 ^ 57)

/-- R124: the IA and policy of a VA for an engine access that needs no alignment. -/
def State.engAt (s : State) (asid va : Nat) (k : Access) : Option (Nat × Nat) :=
  if 2 ^ 57 ≤ va then none
  else match s.translate asid va k with
    | .ok (ia, pol) => if iaOk ia then some (ia, pol) else none
    | .error _ => none

/-- The IA of such an access. -/
def State.engIa (s : State) (asid va : Nat) (k : Access) : Option Nat := (s.engAt asid va k).map Prod.fst

/-- R431, R442: an engine read of sectors that a core has not flushed writes a class-0 record of cause 0x46 with the VA of the lowest byte
in one. -/
def State.engCheck (s : State) (asid part dom va ia n : Nat) (rep : Report) : State :=
  match s.translate asid va .read with
  | .ok (_, 2) =>
    (match (List.range n).find? (fun i => s.unflushed 1024 (ia + i) 1) with
      | some i => s.report part dom { rep with cls := 0, cause := 0x46, info := (va + i) % 2 ^ 57 }
      | none => s)
  | _ => s

/-- Read `n` bytes at a VA for an engine of a die, in pieces that each lie in one 64-byte block: bytes with their poison. -/
def State.engRead (s : State) (die asid part dom : Nat) (rep : Report) (va n : Nat) : Nat → Except EErr (State × List (Byte × Bool))
  | 0 => .ok (s, [])
  | k + 1 =>
    if n = 0 then .ok (s, [])
    else
      let m := min n (64 - va % 64)
      match s.engIa asid va .read with
      | none => .error (.access va)
      | some ia =>
        if s.unanswered ia then .error (.home va (.held (iaPeer ia)))
        else if s.peerRefused ia m s.draws .read then .error (.home va .refused)
        else match (s.engCheck asid part dom va ia m rep).homeRead die ia m 0 with
        | .error e => .error (.home va e)
        | .ok (s1, d, p) =>
          match State.engRead s1 die asid part dom rep (va + m) (n - m) k with
          | .error e => .error e
          | .ok (s2, d2) => .ok (s2, d.map (fun b => (b, p)) ++ d2)

/-- Doubles (64-bit words) of a byte list. -/
def doublesOf (d : List Byte) : List Nat := (List.range (d.length / 8)).map (fun i => leVal ((d.drop (8 * i)).take 8))

/-- R460: mark a 64-byte block at its home; its first byte counts as dirty, so that the mark reaches the memory-side cache with the line. -/
def State.poisonHome (s : State) (block : Nat) : State :=
  match s.l2Fetch (64 * block) 0 0 with
  | .error _ => s
  | .ok (s1, _) => s1.modHome (64 * block) (fun l => { l with
      poison := (l.poison ++ [block % 2]).eraseDups, dirty := (l.dirty ++ [64 * (block % 2)]).eraseDups })

/-- R460: mark the 64-byte blocks that a byte range lies in; another device learns of it by the link's poison indication. -/
def State.poisonAt (s : State) (ia n : Nat) : State :=
  match s.ownIa ia false with
  | .error _ => s
  | .ok (s0, a) =>
    if homedHere a then (rangeFrom (homeIa a / 64) ((a % 64 + n + 63) / 64)).foldl State.poisonHome s0
    else match s0.resolve a false with
      | .ok (s1, .dev k spa) =>
        { s1 with dramPoison := (s1.dramPoison ++ (rangeFrom (dkey k spa / 64) ((spa % 64 + n + 63) / 64))).eraseDups }
      | .ok (s1, .host a) => { s1 with hostPoison := (s1.hostPoison ++ rangeFrom (a / 64) ((a % 64 + n + 63) / 64)).eraseDups }
      | .ok (s1, .peer d off) => s1.emit (.peerPoison s1.ownIndex d off n)
      | .error _ => s

/-- R460: each 64-byte block of a write that takes a poisoned byte is marked. -/
def State.poisonBytes (s : State) (ia : Nat) (d : List (Byte × Bool)) : State :=
  let at_ := (d.zip (rangeFrom ia d.length)).filterMap (fun x => if x.1.2 then some (x.2 / 64) else none)
  at_.eraseDups.foldl (fun s b =>
    let lo := max ia (64 * b)
    s.poisonAt lo (min (ia + d.length) (64 * b + 64) - lo)) s

/-- R214, R373: the bytes of a write at an IA that go together: those of one 64-byte block, or of one 256-byte span of another device. -/
def State.pieceLen (s : State) (va ia n : Nat) : Nat := if s.isFarPeer ia then min n (256 - va % 256) else min n (64 - va % 64)

/-- Write bytes, some of them poisoned, at a VA for an engine on a die, in pieces: those before one that fails are written (R214, R445). -/
def State.engWrite (s : State) (asid die va : Nat) (data : List (Byte × Bool)) : Nat → State × Option EErr
  | 0 => (s, none)
  | k + 1 =>
    if data.isEmpty then (s, none)
    else
      match s.engAt asid va .write with
      | none => (s, some (.access va))
      | some (ia, pol) =>
        let m := s.pieceLen va ia data.length
        let d := data.take m
        if nbits ia 51 48 == 2 && !redOk ia m then (s, some (.access va))
        else if s.unanswered ia then (s, some (.home va (.held (iaPeer ia))))
        else if s.peerRefused ia m s.draws .write then (s, some (.home va .refused))
        else match s.homePut die ia (d.map Prod.fst) 0 pol false with
        | .error e => (s, some (.home va e))
        | .ok s1 =>
          let s2 := s1.poisonBytes ia d
          State.engWrite s2 asid die (va + m) (data.drop m) k

/-- Read through a request's own right (R446), with the answers that it has from its peers (R455). -/
def State.reqRead (s : State) (r : EReq) (va n : Nat) : Except EErr (State × List (Byte × Bool)) :=
  match State.engRead { s with peerOpen := r.opened } (dieOf r.core) r.asid r.part r.dom (r.report s 0x46 0) va n (n / 16 + 2) with
  | .error e => .error e
  | .ok (s1, d) => .ok (s1.gateShut, d)

/-- Write through a request's own right: what is written before an error stands. -/
def State.reqWrite (s : State) (r : EReq) (va : Nat) (d : List (Byte × Bool)) : State × Option EErr :=
  let x := State.engWrite { s with peerOpen := r.opened } r.asid (dieOf r.core) va d (d.length / 16 + 2)
  (x.1.gateShut, x.2)

/-- A write of a request failed: what it has written stands, unless the request is to try it again. -/
def State.writeStop (s : State) (r : EReq) (s1 : State) (e : EErr) : State := if e.retried r then s.engineStop r e else s1.engineStop r e

/-- Bytes at logical offset `off` of the scratchpad allocation that an address names (R117 to R119), with their poison. -/
def State.scrAlloc (s : State) (g : Workgroup) (addr : Nat) : Workgroup :=
  if nbit addr 31 then s.wgrp (g.gang.getD (nbits addr 30 29) 0) else g

def State.scrBytes (s : State) (g : Workgroup) (addr off n : Nat) : List (Byte × Bool) :=
  let h := s.scrAlloc g addr
  let c := s.core h.core
  (List.range n).map (fun i =>
    let a := scrUnit h.scrBase h.scrUnits (nbits addr 28 27) ((off + i) / 32) * 32 + (off + i) % 32
    (Tbl.getD c.scratch a 0#8, c.scrPoison.contains (a / 4)))

/-- Write bytes, some poisoned, at a logical offset of an allocation. -/
def State.scrPut (s : State) (h : Workgroup) (gran off : Nat) (data : List (Byte × Bool)) : State :=
  let place := fun i => scrUnit h.scrBase h.scrUnits gran ((off + i) / 32) * 32 + (off + i) % 32
  let s1 := (List.range (data.length / 32 + 2)).foldl (fun s j =>
    -- the bytes of logical unit off / 32 + j
    let lo := 32 * (off / 32 + j)
    let a := max lo off
    let b := min (lo + 32) (off + data.length)
    if b ≤ a then s else s.scrWrite h.core (place (a - off)) (((data.drop (a - off)).take (b - a)).map Prod.fst)) s
  let bad := (List.range data.length).filterMap (fun i => match data[i]? with
    | some (_, true) => some (place i / 4)
    | _ => none)
  if bad.isEmpty then s1 else s1.modCore h.core (fun c => { c with scrPoison := (c.scrPoison ++ bad).eraseDups })

/-! ## Acceptance and completion (R53, R162, R188, R297) -/

/-- PROMISE_WRITE (R53): every signer's D pair takes the promised time. -/
def State.writePromise (s : State) (r : EReq) : State :=
  let (s1, k) := s.draw
  let v := Config.promise k
  r.signers.foldl (fun s x => s.modThr r.wg x.1 (fun y =>
    (y.deliverReg 0 x.2 (dlo v) s.clk 0).deliverReg 0 (x.2 + 1) (dhi v) s.clk 0)) s1

/-- R158, R163: the releases of the signers' earlier stores are complete. -/
def State.signersDone (s : State) (r : EReq) : Bool := (s.core r.core).rels.all (fun x => !r.rels.contains x.id)

/-- R296: the number by which a completion port names a queue. -/
def QRef.portNo (x : QRef) : Nat := if x.kind = 1 then 8 + x.q else x.q

/-- R297: the braids of the forming workgroup or gang that have a port bound to a queue: braid key and port. -/
def State.completionPorts (s : State) (r : EReq) : List (Nat × Nat) :=
  (s.braids.filter (fun b => r.gang.contains b.2.wg)).flatMap (fun b =>
    ((List.range 12).filter (fun q => b.2.ports.getD q .unbound == .completion r.qref.portNo)).map (fun q => (b.1, q)))

/-- R297: every receiving port has room. -/
def State.portsFree (s : State) (r : EReq) : Bool :=
  (s.completionPorts r).all (fun x => match Tbl.get? s.braids x.1 with
    | some b => decide ((Tbl.getD b.comp x.2 []).length < 16)
    | none => true)

/-- The counter of a request: its VA, increment and scope. -/
structure Counter where
  va : Nat
  inc : Nat
  scope : Nat
  deriving DecidableEq, Repr

/-- R188, R195, R297: a request completes: its counter is incremented, its completion entries are delivered, and it leaves its
queue. -/
def State.finishReq (s : State) (r : EReq) (c : Counter) : State :=
  let s1 := s.addCounter (dieOf r.core) r.asid c.va c.inc r.part r.dom
  let v : Word := if c.va = 0 then 0#32
    else match s1.engIa r.asid c.va .read with
      | none => 0#32
      | some ia => BitVec.ofNat 32 (leVal (match s1.homeRead (dieOf r.core) ia 8 0 with
        | .ok (_, d, _) => d
        | .error _ => []))
  let s2 := (s.completionPorts r).foldl (fun s x =>
    { s with braids := Tbl.mod s.braids x.1 (fun b => { b with
        comp := Tbl.put b.comp x.2 (Tbl.getD b.comp x.2 [] ++ [(v, c.scope)]) }) }) s1
  (s2.dropReq r.id).freeGang r.gang

/-- R444: of the offences of a descriptor (register offset and bit), the one that INFO of cause 0x51 names. -/
def offenceInfo (l : List (Nat × Nat)) : Option Nat :=
  (minBy (fun (x : Nat × Nat) => x.1 * 64 + x.2) l).map (fun x => x.2 % 32 * 256 + x.1)

/-- The lowest set bit of a number among its first k bits. -/
def lowBit (x : Nat) : Nat → Nat → Option Nat
  | 0, _ => none
  | k + 1, i => if nbit x i then some i else lowBit x k (i + 1)

/-- Bits [hi:lo] of a register must be zero. -/
def mustZero (reg x hi lo : Nat) : List (Nat × Nat) :=
  match lowBit x (hi + 1 - lo) lo with
  | some b => [(reg, b)]
  | none => []

/-- The offence `p` of a field of a register. -/
def must (reg bit : Nat) (ok : Bool) : List (Nat × Nat) := if ok then [] else [(reg, bit)]

end Sys2Proof.Machine
end

