-- ==== Sys2Proof/Machine/Matrix.lean ====
section
/-! DEFINITION. The matrix engine: formation checks, reservation table, passes and the sampled mode (spec 07, R167 to R176; R75,
R76, R107 to R113, R315 to R318, R409, R444, R447, R460). -/

namespace Sys2Proof.Machine
open Sys2Proof.Machine.Num

/-! ## Operand formats (R169) -/

/-- R169: the class of a format code: 0 half, 1 byte, 2 nibble, 3 to 5 the SDB classes. -/
def mxClass (f : Nat) : Option Nat :=
  if f = 0x02 ∨ f = 0x03 then some 0
  else if f = 0x04 ∨ f = 0x05 ∨ f = 0x06 then some 1
  else if f = 0x08 then some 2
  else if f = 0x82 then some 3
  else if f = 0x84 ∨ f = 0x85 ∨ f = 0x86 then some 4
  else if f = 0x87 ∨ f = 0x88 then some 5
  else none

def kPerPass (cls : Nat) : Nat := [192, 384, 768, 186, 372, 744].getD cls 0

/-- R168: a format whose operand has a codebook. -/
def hasBook (f : Nat) : Bool := f == 0x08 || f == 0x87 || f == 0x88

/-- R94, R95, R444: the values of one 64-byte block of a tensor of base format `f`; a block outside the class is NaN. -/
def blockVals (book : List Nat) (f : Nat) (b : List Byte) : List Val :=
  let fmt := (b.getD 0 0#8).toNat
  let sc := (b.getD 1 0#8).toNat
  let n := blockCap f
  if sc = 0xFF ∨ mxClass (fmt + 0x80) ≠ mxClass (f + 0x80) then List.replicate n .nan
  else
    let x := leVal (b.drop 2)
    let w := elemBits fmt
    (List.range n).map (fun i => mul (elem book fmt (nbits x (w * i + w - 1) (w * i))) (scaleVal sc))

/-- R107: the values of a 384-byte part of an operand row. -/
def partVals (book : List Nat) (f : Nat) (d : List Byte) : List Val :=
  if 0x80 ≤ f then (List.range 6).flatMap (fun i => blockVals book (f - 0x80) ((d.drop (64 * i)).take 64))
  else
    let w := elemBits f
    let x := leVal d
    (List.range (3072 / w)).map (fun i => elem book f (nbits x (w * i + w - 1) (w * i)))

/-! ## MXS formation (R168, R315, R444) -/

/-- R117, R168: offences of a scratchpad operand address in register `reg` of a signer of `g`, which covers `n` bytes from it. -/
def State.mxAddr (s : State) (g : Workgroup) (reg addr algn n : Nat) (book : Bool) : List (Nat × Nat) :=
  let off := nbits addr 18 0
  let x := nbit addr 31
  let csel := nbits addr 30 29
  let fields := mustZero reg addr 26 19 ++
    must reg 29 (x || csel == 0) ++ must reg 31 (!x || decide (1 < g.csize)) ++ must reg 29 (!x || decide (csel < g.csize)) ++
    (match lowBit off 6 0 with
      | some b => must reg b (decide (algn ≤ 2 ^ b))
      | none => [])
  if fields.isEmpty then
    must reg 0 (decide (off + n ≤ (s.scrAlloc g addr).scrUnits * 32)) ++ must reg 0 (!book || decide (32 ≤ off))
  else fields

/-- R315: the fields of an MXS control word. -/
def ctlNpass (c : Nat) : Nat := nbits c 7 0 + 1
def ctlFmtA (c : Nat) : Nat := nbits c 15 8
def ctlFmtB (c : Nat) : Nat := nbits c 23 16

/-- R168, R169, R315, R444: the offences of an MXS request. -/
def State.mxsOffences (s : State) (r : EReq) : List (Nat × Nat) :=
  let g := s.wgrp r.wg
  let w := fun i => (r.regs.getD i 0#32).toNat
  let c := w 2
  let fa := ctlFmtA c
  let fb := ctlFmtB c
  let l := 384 * ctlNpass c
  let gather := nbit c 27
  let trans := nbit c 29
  let algn := fun f => if 0x80 ≤ f then 64 else 32
  let clsOk := (mxClass fa).isSome && mxClass fa == mxClass fb
  s.mxAddr g 0 (w 0) (algn fa) (if gather then 0 else 64 * l) (hasBook fa) ++
  s.mxAddr g 1 (w 1) (algn fb)
    (if trans then kPerPass ((mxClass fb).getD 0) * ctlNpass c * 64 * (elemBits fb / 8) else 64 * l) (hasBook fb) ++
  mustZero 2 c 26 24 ++ must 2 8 (mxClass fa).isSome ++ must 2 16 ((mxClass fa).isNone || clsOk) ++
  must 2 29 (!trans || (mxClass fb).any (fun k => decide (k ≤ 1))) ++
  (if gather then s.mxAddr g 3 (w 3) 32 128 false else mustZero 3 (w 3) 31 0)

/-- R317, R444: the offences of an SMX request. -/
def EReq.smxOffences (r : EReq) : List (Nat × Nat) :=
  let w := fun i => (r.regs.getD i 0#32).toNat
  let off := fun i => match lowBit (r.segb + w i) 7 0 with
    | some b => [(i, b)]
    | none => []
  off 0 ++ off 1 ++ mustZero 2 (w 2) 26 24 ++ must 2 8 (ctlFmtA (w 2) == 2) ++ must 2 16 (ctlFmtB (w 2) == 2) ++
  must 3 0 (decide (1 ≤ w 3) && decide (w 3 ≤ 16384))

def EReq.smxK (r : EReq) : Nat := (r.regs.getD 3 0#32).toNat
def EReq.smxSeed (r : EReq) : Dword := BitVec.ofNat 64 ((r.regs.getD 4 0#32).toNat + 2 ^ 32 * (r.regs.getD 5 0#32).toNat)
def EReq.smxMax (r : EReq) : Nat := (r.regs.getD 6 0#32).toNat % 65536
def EReq.smxTau (r : EReq) : Val := Num.decode bf16 ((r.regs.getD 6 0#32).toNat / 65536)

/-- R75: the effective priority of the launch of a request. DESIGN CHOICE (log entry 93): 0 where its leaf is no longer in the loaded tree. -/
def State.reqPrio (s : State) (r : EReq) : Nat :=
  match (s.part r.part).tree.find? (fun x => x.ia == (s.wgrp r.wg).leaf) with
  | some x => x.prio
  | none => 0

/-- R75, R167, R174: a matrix request is passed to its tile queue and to the reservation table; `work` holds its passes,
priorities. -/
def State.passMatrix (s : State) (r : EReq) : State :=
  let cl := clusterOf r.core
  let c := (r.regs.getD 2 0#32).toNat
  let passes := if r.op = .mxs then ctlNpass c else (r.smxK + 191) / 192 + max 2 ((r.smxMax + 191) / 192)
  let s1 := s.modReq r.id (fun x => { x with work := [passes, s.reqPrio r, nbits c 31 30] })
  let s2 := s1.modTile cl r.q (fun t => { t with
    claim := if t.claim.isNone then some r.gang else t.claim, queue := t.queue ++ [.req r.id] })
  let s3 := s2.modCluster cl (fun x => { x with waitRoom := x.waitRoom ++ [r.id] })
  (s3.fillTable cl r.core).settleFences ⟨2, cl, r.q⟩ 16

/-! ## Selection (R76, R167) -/

/-- R76, R158, R167, R174, R410, R446: an entry may be selected. -/
def State.eligible (s : State) (cl : Nat) (e : Reserve) : Bool :=
  match s.req e.req with
  | none => false
  | some r =>
    (s.headReq ⟨2, cl, r.q⟩).any (fun x => x.id == r.id) && (s.tile cl r.q).claim == some r.gang && s.signersDone r && !s.doomed r &&
    r.waiting.isNone && (r.op != .smx || ((s.cluster cl).smx == some r.id && r.phase != 1) || ((s.cluster cl).smx.isNone && !r.begun))

/-- MATRIX_SELECT (R76): the winner asks leave. -/
def execMatrixSelect (cl : Nat) (s : State) : Res :=
  let c := s.cluster cl
  .next (if c.winner.isSome || c.granted.isSome then s
    else match minBy (fun (e : Reserve) => (((7 - e.prio) * 4 + (3 - e.cprio)) * 64 + (63 - e.age)) * 2 ^ 64 + e.arrival)
        (c.table.filter (s.eligible cl)) with
      | none => s
      | some e => (s.modCluster cl (fun x => { x with winner := some e.req })).due
          (.event (.leaveRequest (dieOfCluster cl) 0 e.req)))

/-- R76: at the grant, the winner's passes fall by one and the others age. -/
def State.grantPass (s : State) (cl id : Nat) : State :=
  let c := s.cluster cl
  let step := fun (e : Reserve) =>
    if e.req = id then { e with left := e.left - 1, age := 0 }
    else if e.age + 1 = 64 then { e with age := 0, cprio := min 3 (e.cprio + 1) }
    else { e with age := e.age + 1 }
  let core := ((s.req id).map EReq.core).getD 0
  let s1 := s.modCluster cl (fun x => { x with
    table := (c.table.map step).filter (fun e => e.left != 0), winner := none, granted := some id })
  (s1.fillTable cl core).due (.event (match s.req id with
    | some r => if r.op = .mxs then .matrixPass cl else if r.phase = 0 then .smxNormPass cl else .smxSamplePass cl
    | none => .matrixPass cl))

/-! ## Completion (R171) -/

/-- R171: the request on a tile completes with its status; it delivers no completion entry and has no counter. -/
def State.matrixDone (s : State) (cl : Nat) (r : EReq) (n m : Nat) (v : Word) : State :=
  let s1 := s.modTile cl r.q (fun t => { t with npassd := BitVec.ofNat 32 n, nsamp := BitVec.ofNat 32 m, var := v })
  (s1.dropReq r.id).freeGang r.gang

/-! ## MXS passes (R108, R168, R170, R409, R460) -/

/-- The bytes of an operand part: row `m` of A or B in row-major form. -/
def State.rowPart (s : State) (g : Workgroup) (addr row l p : Nat) : List (Byte × Bool) :=
  s.scrBytes g addr (nbits addr 18 0 + row * l + 384 * p) 384

/-- R92, R168: the codebook of an operand. A poisoned byte of it counts as it stands (DESIGN CHOICE, log entry 83). -/
def State.mxBook (s : State) (g : Workgroup) (addr f : Nat) : List Nat :=
  if hasBook f then
    let d := (s.scrBytes g addr (nbits addr 18 0 - 32) 32).map Prod.fst
    (List.range 16).map (fun i => leVal ((d.drop (2 * i)).take 2))
  else []

/-- R168: the values of B row n for a pass, K-major. -/
def kMajor (rows : List (List (Byte × Bool))) (f n : Nat) : List Val × Bool :=
  let e := elemBits f / 8
  (rows.map (fun r => elem [] f (leVal (((r.drop (n * e)).take e).map Prod.fst))),
    rows.any (fun r => ((r.drop (n * e)).take e).any Prod.snd))

/-- R108, R170: one pass over a tile: `a` and `b` are the rows with their poison. -/
def passTile (t : Tile) (fresh : Bool) (a b : List (List Val × Bool)) : Tile :=
  let acc := (List.range 4096).foldl (fun m k =>
    let x := (a.getD (k / 64) ([], false)).1
    let y := (b.getD (k % 64) ([], false)).1
    let c := if fresh then .fin false 0 0 else d32 (Tbl.getD t.acc k 0#32)
    Tbl.set m 0#32 k (passElem c (x.zipWith mul y))) t.acc
  let bad := (List.range 4096).filter (fun k =>
    (a.getD (k / 64) ([], false)).2 || (b.getD (k % 64) ([], false)).2 || (!fresh && t.poison.contains k))
  { t with acc := acc, poison := bad }

/-- R459: a tile whose request works with damaged tables is poisoned whole. -/
def Tile.damage (t : Tile) (bad : Bool) : Tile := if bad then { t with poison := List.range 4096 } else t

/-- R168, R444: the gathered row numbers, read when the first pass begins; none where a row lies outside its allocation. -/
def State.gatherIdx (s : State) (r : EReq) (g : Workgroup) (l : Nat) : Option (List Nat) :=
  let w := fun i => (r.regs.getD i 0#32).toNat
  let d := (s.scrBytes g (w 3) (nbits (w 3) 18 0) 128).map Prod.fst
  let ix := (List.range 64).map (fun i => leVal ((d.drop (2 * i)).take 2))
  if ix.all (fun i => decide (nbits (w 0) 18 0 + i * l + l ≤ (s.scrAlloc g (w 0)).scrUnits * 32)) then some ix else none

/-- R170: pass `p` of an MXS request, with its A row numbers. -/
def State.mxsPass (s : State) (cl : Nat) (r : EReq) (ix : List Nat) : State :=
  let g := s.wgrp r.wg
  let w := fun i => (r.regs.getD i 0#32).toNat
  let c := w 2
  let p := r.pos
  let n := ctlNpass c
  let l := 384 * n
  let fa := ctlFmtA c
  let fb := ctlFmtB c
  let ba := s.mxBook g (w 0) fa
  let bb := s.mxBook g (w 1) fb
  let a := (List.range 64).map (fun m =>
    let d := s.rowPart g (w 0) (ix.getD m m) l p
    (partVals ba fa (d.map Prod.fst), d.any Prod.snd))
  let kp := kPerPass ((mxClass fb).getD 0)
  let e := elemBits fb / 8
  let b := if nbit c 29 then
      let rows := (List.range kp).map (fun k => s.scrBytes g (w 1) (nbits (w 1) 18 0 + (kp * p + k) * 64 * e) (64 * e))
      (List.range 64).map (kMajor rows fb)
    else (List.range 64).map (fun m =>
      let d := s.rowPart g (w 1) m l p
      (partVals bb fb (d.map Prod.fst), d.any Prod.snd))
  let s1 := s.modTile cl r.q (fun t => (passTile t (p == 0 && !nbit c 28) a b).damage r.damaged)
  let s2 := s1.modReq r.id (fun x => { x with pos := p + 1, begun := true, work := x.work.take 3 ++ ix })
  if p + 1 = n then s2.matrixDone cl r n 0 0#32 else s2

/-- MATRIX_PASS (R170): the granted pass of an MXS request runs. -/
def execMatrixPass (cl : Nat) (s : State) : Res :=
  .next (match (s.cluster cl).granted.bind s.req with
    | none => s.modCluster cl (fun x => { x with granted := none })
    | some r =>
      let s1 := s.modCluster cl (fun x => { x with granted := none })
      if r.op != .mxs then s
      else
        let c := (r.regs.getD 2 0#32).toNat
        if !nbit c 27 then s1.mxsPass cl r []
        else if r.pos != 0 then s1.mxsPass cl r (r.work.drop 3)
        else match s1.gatherIdx r (s1.wgrp r.wg) (384 * ctlNpass c) with
          | some ix => s1.mxsPass cl r ix
          | none => s1.engineFault r 0x51 0)

/-- TILE_CLAIM_PASS (R83, R167, R176): a free claim goes back to a claimant that holds it through a swap, or passes to the claimant of the
first request in the tile's queue. -/
def execTileClaimPass (cl t : Nat) (s : State) : Res :=
  .next (if (s.tile cl t).claim.isSome then s
    else match s.parts.findSome? (fun p => if p.2.resident && p.2.swapAt.isNone then
        (p.2.shadow.tiles.find? (fun x => x.1 == cl && x.2.1 == t)).map (fun x => (p.1, x)) else none) with
      | some (p, x) => s.untile p x
      | none =>
        match ((s.tile cl t).queue.filterMap QEntry.reqId).head?.bind s.req with
        | some r => s.modTile cl t (fun x => { x with claim := some r.gang })
        | none => s)

/-! ## The sampled mode (R109 to R113, R173 to R175) -/

/-- R460: the numbers below 64 that a test holds for, as the bits of a mask. -/
def maskOf (p : Nat → Bool) : Nat := (List.range 64).foldl (fun m i => if p i then m + 2 ^ i else m) 0

/-- R173, R460: a k-row of an operand of an SMX request: 64 BF16 values, and the mask of those that are poisoned. -/
def State.kRow (s : State) (r : EReq) (reg k : Nat) : Except EErr (State × List Val × Nat) :=
  match s.reqRead r (r.segb + (r.regs.getD reg 0#32).toNat + 128 * k) 128 with
  | .error e => .error e
  | .ok (s1, d) =>
    let at_ := fun (i : Nat) => (d.drop (2 * i)).take 2
    .ok (s1, (List.range 64).map (fun i => Num.decode bf16 (leVal ((at_ i).map Prod.fst))), maskOf (fun i => (at_ i).any Prod.snd))

/-- The k-rows of both operands, in order, with the masks of the rows and of the columns of the tile that their poison reaches (R460). -/
def State.kRows (s : State) (r : EReq) : List Nat → Except EErr (State × List (Nat × List Val × List Val) × Nat × Nat)
  | [] => .ok (s, [], 0, 0)
  | k :: ks =>
    match s.kRow r 0 k with
    | .error e => .error e
    | .ok (s1, a, p) =>
      match s1.kRow r 1 k with
      | .error e => .error e
      | .ok (s2, b, q) =>
        match State.kRows s2 r ks with
        | .error e => .error e
        | .ok (s3, l, o) => .ok (s3, (k, a, b) :: l, Nat.lor p o.1, Nat.lor q o.2)

/-- R460: the marks of a request's passes so far, and those of one more pass. -/
def EReq.marks (r : EReq) (o : Nat × Nat) : Nat × Nat := (Nat.lor (r.work.getD 3 0) o.1, Nat.lor (r.work.getD 4 0) o.2)

/-- R109: an entry of the norm table. -/
def normOf (a b : List Val) : Word :=
  let sq := fun (l : List Val) => Num.sum (l.map (fun x => mul x x))
  r32 (sqrtVal (mul (sq a) (sq b))).1

/-- R446: a granted pass that cannot run is given back: its entry has its pass again. DESIGN CHOICE (log entry 91): of an entry that the grant has
freed, the request waits for one in front of its core's waiting requests, with one pass left; the entry it takes has its first control priority,
age 0 and the newest arrival, and the ageing of the others by that grant stands. -/
def State.giveBack (s : State) (cl : Nat) (r : EReq) : State :=
  if (s.cluster cl).table.any (fun e => e.req == r.id) then
    s.modCluster cl (fun x => { x with table := x.table.map (fun e => if e.req = r.id then { e with left := e.left + 1 } else e) })
  else
    ((s.modReq r.id (fun x => { x with work := setAt x.work 0 1 })).modCluster cl
      (fun x => { x with waitRoom := r.id :: x.waitRoom })).fillTable cl r.core

/-- SMX_NORM_PASS (R109, R174). -/
def execSmxNormPass (cl : Nat) (s : State) : Res :=
  .next (match (s.cluster cl).granted.bind s.req with
    | none => s.modCluster cl (fun x => { x with granted := none })
    | some r =>
      if r.op != .smx || r.phase != 0 then s else
      let s1 := s.modCluster cl (fun x => { x with granted := none, smx := some r.id })
      let k0 := 192 * r.pos
      match s1.kRows r ((rangeFrom k0 192).filter (fun k => decide (k < r.smxK))) with
      | .error e => ((s1.giveBack cl r).modReq r.id (fun x => { x with begun := true })).engineStop r e
      | .ok (s2, rows, bad) =>
        let s3 := s2.modCluster cl (fun x => { x with
          norm := rows.foldl (fun m e => Tbl.set m 0#32 e.1 (normOf e.2.1 e.2.2)) x.norm })
        let last := decide (r.smxK ≤ k0 + 192)
        let s4 := s3.modReq r.id (fun x => { x with
          begun := true, missed := none, opened := [], replay := false, pos := if last then 0 else x.pos + 1, phase := if last then 1 else 0,
          work := x.work.take 3 ++ [(x.marks bad).1, (x.marks bad).2] })
        if last then s4.due (.event (.aliasBuild cl)) else s4)

/-- R110: the table under construction. -/
structure AliasTab where
  p : Tbl Word
  prob : Tbl Word
  ali : Tbl Nat
  small : List Nat
  large : List Nat
  deriving DecidableEq, Repr

/-- R110: one round of the loop. -/
def aliasStep (t : AliasTab) : AliasTab :=
  match t.small, t.large with
  | s :: ss, l :: ls =>
    let ps := Tbl.getD t.p s 0#32
    let pl := r32 (add (add (d32 (Tbl.getD t.p l 0#32)) (d32 ps)) (ofI (-1)))
    let p := Tbl.set t.p 0#32 l pl
    let prob := Tbl.set t.prob 0#32 s ps
    let ali := Tbl.put t.ali s l
    if lt (d32 pl) (ofI 1) then { p := p, prob := prob, ali := ali, small := ss ++ [l], large := ls }
    else { p := p, prob := prob, ali := ali, small := ss, large := l :: ls }
  | _, _ => t

def aliasLoop : Nat → AliasTab → AliasTab
  | 0, t => t
  | k + 1, t => if t.small.isEmpty || t.large.isEmpty then t else aliasLoop k (aliasStep t)

/-- R110: the alias table of norms q over K with sum S; each round removes an index from the small queue for good or moves one from
large to small, so 2K rounds are enough. -/
def aliasTable (q : Tbl Word) (k : Nat) (sum : Val) : Tbl Word × Tbl Nat :=
  let qv := fun i => d32 (Tbl.getD q i 0#32)
  let p : Tbl Word := (List.range k).foldl (fun m i => Tbl.set m 0#32 i (r32 (div (mul (qv i) (ofI k)) sum).1)) []
  let pv := fun i => d32 (Tbl.getD p i 0#32)
  let one := ofI 1
  let t := aliasLoop (2 * k + 1) ⟨p, [], [], (List.range k).filter (fun i => lt (pv i) one),
    (List.range k).filter (fun i => !lt (pv i) one)⟩
  let first := (List.range k).find? (fun l => lt (.fin false 0 0) (qv l))
  (t.small ++ t.large).foldl (fun (a : Tbl Word × Tbl Nat) i =>
    if (qv i).isZero then (Tbl.set a.1 0#32 i 0#32, Tbl.put a.2 i (first.getD 0))
    else (Tbl.set a.1 0#32 i 0x3F800000#32, Tbl.put a.2 i i)) (t.prob, t.ali)

/-- R175, R460: S is not positive and finite: no sample pass runs. -/
def State.smxEmpty (s : State) (cl : Nat) (r : EReq) (sum : Val) : State :=
  let v : Word := if sum.isZero then 0#32 else 0x7FC00000#32
  let acc : Tbl Word := (List.range 4096).foldl (fun m k => Tbl.set m 0#32 k v) []
  let bad := (List.range 4096).filter (fun k => nbit (r.work.getD 3 0) (k / 64) || nbit (r.work.getD 4 0) (k % 64))
  (s.modTile cl r.q (fun t => { t with acc := acc, shadow := [], m2 := [], poison := bad })).matrixDone cl r 0 0 v

/-- ALIAS_BUILD (R110, R175). -/
def execAliasBuild (cl : Nat) (s : State) : Res :=
  .next (match (s.cluster cl).smx.bind s.req with
    | none => s
    | some r =>
      if r.phase != 1 then s
      else
        let q := (s.cluster cl).norm
        let sum := d32 (r32 (Num.sum ((List.range r.smxK).map (fun i => d32 (Tbl.getD q i 0#32)))))
        if sum.isZero || sum.isNan || sum.isInf then s.smxEmpty cl r sum
        else
          let t := aliasTable q r.smxK sum
          (s.modCluster cl (fun x => { x with prob := t.1, aliasTo := t.2 })).modReq r.id
            (fun x => { x with phase := 2, pos := 0, vals := [sum] }))

/-- R111: the index that sample g draws. -/
def drawIndex (c : Cluster) (seed : Dword) (t k g : Nat) : Nat :=
  let x1 := kg64 seed (BitVec.ofNat 64 (t * 2 ^ 56 + 2 * g))
  let x2 := kg64 seed (BitVec.ofNat 64 (t * 2 ^ 56 + 2 * g + 1))
  let j := u32 x1 * k / 2 ^ 32
  if le (d32 (Tbl.getD c.prob j 0#32)) (u24 x2) then Tbl.getD c.aliasTo j j else j

/-- R112: mean and m2 of an element after pass m. -/
def merge (m : Nat) (est mean m2 : Val) : Word × Word :=
  if m = 1 then (r32 est, 0#32)
  else
    let d1 := d32 (r32 (add est mean.negate))
    let mean' := d32 (r32 (add mean (d32 (r32 (div d1 (ofI m)).1))))
    let d2 := d32 (r32 (add est mean'.negate))
    (r32 mean', r32 (add m2 (d32 (r32 (mul d1 d2)))))

/-- R111, R112, R460: a sample pass over a tile with the 192 samples: weight and rows of each, and the masks of poisoned rows and columns. -/
def sampleTile (t : Tile) (m : Nat) (rows : List (Val × List Val × List Val)) (bad : Nat × Nat) : Tile :=
  (List.range 4096).foldl (fun (t : Tile) k =>
    let est := r32 (Num.sum (rows.map (fun e => mul (mul e.1 (e.2.1.getD (k / 64) .nan)) (e.2.2.getD (k % 64) .nan))))
    let r := merge m (d32 est) (d32 (Tbl.getD t.acc k 0#32)) (d32 (Tbl.getD t.m2 k 0#32))
    { t with acc := Tbl.set t.acc 0#32 k r.1, m2 := Tbl.set t.m2 0#32 k r.2, shadow := Tbl.set t.shadow 0#32 k est })
    { t with poison := (List.range 4096).filter (fun k => nbit bad.1 (k / 64) || nbit bad.2 (k % 64)) }

/-- R112: the variance after pass m. -/
def tileVar (t : Tile) (m : Nat) : Word :=
  if m ≤ 1 then 0#32
  else
    let mm := d32 (r32 (Num.sum ((List.range 4096).map (fun k => d32 (Tbl.getD t.m2 k 0#32)))))
    r32 (div mm (ofI (m * (m - 1) : Nat))).1

/-- R113, R318, R346, R447: the stop test after pass m; a negative τ never meets it. -/
def stops (t : Tile) (m smax : Nat) (tau : Val) (v : Word) : Bool :=
  let f := d32 (r32 (Num.sum ((List.range 4096).map (fun k => let x := d32 (Tbl.getD t.acc k 0#32); mul x x))))
  -- R447: with F infinite and V finite the test is true, whatever the tau
  let bound := if f.isInf && tau.isZero && !(d32 v).isInf then f else d32 (r32 (mul tau f))
  decide (2 ≤ m) && ((!lt tau (.fin false 0 0) && le (d32 v) bound) || decide (smax ≤ 192 * m))

/-- SMX_SAMPLE_PASS (R111 to R113). -/
def execSmxSamplePass (cl : Nat) (s : State) : Res :=
  .next (match (s.cluster cl).granted.bind s.req with
    | none => s.modCluster cl (fun x => { x with granted := none })
    | some r =>
      if r.op != .smx || r.phase != 2 then s else
      let s1 := s.modCluster cl (fun x => { x with granted := none })
      let c := s1.cluster cl
      let m := r.pos + 1
      let js := (rangeFrom (192 * r.pos) 192).map (drawIndex c r.smxSeed r.q r.smxK)
      match s1.kRows r js.eraseDups with
      | .error e => (s1.giveBack cl r).engineStop r e
      | .ok (s2, rows, p) =>
        let sum := r.vals.getD 0 .nan
        let wt := fun j => d32 (r32 (div sum (mul (ofI 192) (d32 (Tbl.getD c.norm j 0#32)))).1)
        let got := js.filterMap (fun j => (rows.find? (fun e => e.1 == j)).map (fun e => (wt j, e.2.1, e.2.2)))
        let bad := r.marks p
        let t := (sampleTile (s2.tile cl r.q) m got bad).damage r.damaged
        let v := tileVar t m
        let s3 := (s2.modTile cl r.q (fun x => { t with var := v, queue := x.queue, claim := x.claim })).modReq r.id
          (fun x => { x with pos := m, missed := none, opened := [], replay := false, work := x.work.take 3 ++ [bad.1, bad.2] })
        if stops t m r.smxMax r.smxTau v then s3.matrixDone cl r m (192 * m) v else s3)

end Sys2Proof.Machine
end

