-- ==== Sys2Proof/Machine/PowerCtl.lean ====
section
/-! DEFINITION. The power controllers: leave, windows and the thermal trip (spec 03, R71 to R76; R24 to R27, R477, R478). -/

namespace Sys2Proof.Machine

/-! ## Costs (R72), in units of 2^-10 nJ -/

def Power.cost (p : Power) (k : Nat) : Nat := (p.costs.getD k 0#32).toNat

/-- R72: a matrix pass, by the class of its formats. -/
def passCost (p : Power) (r : EReq) : Nat :=
  let c := (r.regs.getD 2 0#32).toNat
  let k := if r.op = .smx then 0
    else match mxClass (ctlFmtA c) with
      | some 0 => 0
      | some 3 => 0
      | some 1 => 1
      | some 4 => 1
      | _ => 2
  p.cost k * 1024

/-- R72: a box copy that moves `bytes`: a whole number of nJ. -/
def copyCost (p : Power) (bytes : Nat) : Nat := (p.cost 3 * bytes + 1023) / 1024 * 1024

/-- R72: a splice scatter: local and remote bytes. -/
def scatterCost (p : Power) (near far : Nat) : Nat := near * (p.cost 4 % 65536) + far * (p.cost 4 / 65536)

/-- R24: the banks of the next wave of an all-bank command; `allWave` is its first bank. -/
def Stack.waveBanks (x : Stack) : Nat := min x.banksNow (3072 - x.allWave)

/-- R72: an all-bank wave. -/
def waveCost (p : Power) (banks : Nat) : Nat := p.cost 5 * banks * 1024

/-- R73: a request enters the FIFO, to be granted from the next cc on (DESIGN CHOICE, log entry 81); those that arrive in one cycle are ordered by source. -/
def enterFifo (e : Leave) (l : List Leave) : List Leave :=
  l.filter (fun x => x.entered != e.entered) ++
    insertBy (fun (x : Leave) => x.kind * 1024 + x.unit) e (l.filter (fun x => x.entered == e.entered))

/-- R73, R74: the request that asks, its unit, its cost and the core it counts for (576 for a walker's copy); `id` names a
request, or a stack. -/
def State.leaveOf (s : State) (die asker id : Nat) : Option Leave :=
  let p := (s.die die).power
  if asker = 3 then
    let k := s.stack id
    match k.allQ.head? with
    | some b => some ⟨3, id, id, waveCost p k.waveBanks, (s.wgrp b.wg).callCore, s.clk⟩
    | none => none
  else match s.req id with
    | none => none
    | some r =>
      let cost := if asker = 0 then passCost p r else if asker = 1 then copyCost p (r.work.getD 0 0)
        else scatterCost p (r.work.getD 0 0) (r.work.getD 1 0)
      some ⟨asker, if asker = 2 then die else clusterOf r.core, id, cost, if r.wg = 0 then 576 else r.core, s.clk⟩

/-- LEAVE_REQUEST (R26, R72, R73). -/
def execLeaveRequest (die asker id : Nat) (s : State) : Res :=
  .next (match s.leaveOf die asker id with
    | none => s
    | some e => s.modPower die (fun p => { p with fifo := enterFifo e p.fifo }))

/-- R73, R76: what the asker does when its leave is granted. -/
def State.granted (s : State) (e : Leave) : State :=
  let s1 := if e.core = 576 then s else s.modCore e.core (fun c => { c with leaveWait := c.leaveWait + (s.clk - e.entered) })
  if e.kind = 0 then s1.grantPass e.unit e.id
  else if e.kind = 3 then s1.modStack e.id (fun k => { k with leaveGiven := true, waveSize := k.waveBanks })
  else s1.modReq e.id (fun r => { r with leave := 2 })

/-- R73: the grant rule: requests from the head, while they fit or the window is fresh. Fuel: one for each request. -/
def State.grantLoop (s : State) (die : Nat) : Nat → State
  | 0 => s
  | k + 1 =>
    let p := (s.die die).power
    match p.fifo with
    | [] => s
    | e :: r =>
      if (e.cost : Int) ≤ p.remaining ∨ p.fresh = true then
        let s1 := s.modPower die (fun p => { p with
          fifo := r, remaining := p.remaining - e.cost, fresh := false, energy := p.energy + e.cost })
        State.grantLoop (s1.granted e) die k
      else s

/-- LEAVE_GRANT (R73, R74, R76): both controllers, in every cycle. -/
def execLeaveGrant (s : State) : Res :=
  .next ((List.range 2).foldl (fun s d => s.grantLoop d (s.die d).power.fifo.length) s)

/-! ## Windows (R71, R478) -/

/-- R478: TF for a temperature under thresholds. -/
def thermalFactor (temp tfth : Nat) : Nat :=
  let hi := tfth / 65536
  let lo := tfth % 65536
  if temp ≤ lo then 16 else if hi ≤ temp then 0 else 16 * (hi - temp) / (hi - lo)

/-- R71: the allowance of a window, in units of 2^-10 nJ. -/
def allowance (share base tf debt : Nat) : Int := ((share : Int) - base) * (64000 * tf) - debt

/-- R478: the writes of the last window other than PSHARE. -/
def Power.apply (p : Power) (w : Nat × Nat) : Power :=
  if w.1 = 1 then { p with pbase := BitVec.ofNat 32 w.2 }
  else if w.1 = 3 then { p with tfth := BitVec.ofNat 32 w.2 }
  else if 8 ≤ w.1 then { p with costs := setAt p.costs (w.1 - 8) (BitVec.ofNat 32 w.2) }
  else p

/-- R478: one PSHARE write at its turn. -/
def State.applyShare (s : State) (w : Nat × Nat) : State :=
  if 2400 < w.2 + (s.die (1 - w.1)).power.pshare.toNat then s
  else s.modPower w.1 (fun p => { p with pshare := BitVec.ofNat 32 w.2 })

/-- R477, R478: the temperature of a die in a window. -/
def windowTemp (die win : Nat) : Word := Config.sensorTemp die win &&& 0xFFFF#32

/-- R478 steps 1 and 2: a temperature is taken, with the thermal factor that follows from it. -/
def Power.take (p : Power) (temp : Word) (clk : Nat) : Power :=
  Power.heat { p with temp := temp, tf := thermalFactor temp.toNat p.tfth.toNat } clk

/-- R73, R478 steps 1 and 2: a window ends: debt, temperature and thermal factor. -/
def Power.endWindow (p : Power) (temp : Word) (clk : Nat) : Power :=
  Power.take { p with debt := (-p.remaining).toNat, lowHeadroom := !p.fifo.isEmpty } temp clk

/-- R71: a window starts. -/
def Power.startWindow (p : Power) : Power :=
  { p with remaining := allowance p.pshare.toNat p.pbase.toNat p.tf p.debt, fresh := true, staged := [] }

/-- R478: the PSHARE writes of the last window in their order: lowered shares first, then raised ones, die 0 before die 1. -/
def State.shareWrites (s : State) : List (Nat × Nat) :=
  let share := fun d => (s.die d).power.pshare.toNat
  let all := (List.range 2).flatMap (fun d => ((s.die d).power.staged.filter (fun w => w.1 == 0)).map (fun w => (d, w.2)))
  all.filter (fun w => decide (w.2 < share w.1)) ++ all.filter (fun w => decide (share w.1 ≤ w.2))

/-- R478 step 3: the writes of the last window take effect. -/
def State.applyWrites (s : State) : State :=
  let s1 := s.shareWrites.foldl State.applyShare s
  (List.range 2).foldl (fun s d => s.modPower d (fun p => p.staged.foldl Power.apply p)) s1

/-- R24, R72, R212: a stack's bank count takes effect: a wave that has its leave keeps its size, and one that waits for leave asks it for the
banks that it will have. -/
def State.applyBanks (s : State) : State :=
  let s1 := { s with stackTbl := Tbl.each s.stackTbl (fun _ k => { k with banksNow := k.nmbanks.toNat }) }
  { s1 with dies := Tbl.each s1.dies (fun _ d => { d with power := { d.power with
      fifo := d.power.fifo.map (fun e =>
        if e.kind = 3 ∧ (s.stack e.unit).banksNow ≠ (s1.stack e.unit).banksNow then
          { e with cost := waveCost d.power (s1.stack e.unit).waveBanks } else e) } }) }

/-- R478: both controllers end the last window and start the next. -/
def State.turnWindow (s : State) : State :=
  let win := s.clk / Config.windowCc
  let s1 := (List.range 2).foldl (fun s d => s.modPower d (fun p => p.endWindow (windowTemp d win) s.clk)) s
  let s2 := (List.range 2).foldl (fun s d => s.modPower d Power.startWindow) s1.applyWrites
  s2.applyBanks

/-- R478: TF or a share of a die differs. -/
def State.powerDiffers (s u : State) (d : Nat) : Bool :=
  (u.die d).power.tf != (s.die d).power.tf || (u.die d).power.pshare != (s.die d).power.pshare

/-- R20, R478: 10 µs. -/
def tripCc : Nat := 10 * Config.ccPerUs

/-- R478: a die's TEMP has stood at or above TTRIP for 10 µs. -/
def Power.tooHot (p : Power) (clk : Nat) : Bool := p.hotSince.any (fun c => decide (c + tripCc ≤ clk))

def State.tooHot (s : State) : Bool := (List.range 2).any (fun d => (s.die d).power.tooHot s.clk)

/-- R478: what follows a window's start: the limit vector. -/
def State.afterWindow (s u : State) : State :=
  if s.powerDiffers u 0 || s.powerDiffers u 1 then u.msix 17 else u

/-- POWER_WINDOW_START (R24, R71, R73, R478): for both dies: the last window ends, temperatures and writes take effect, and the
new window's allowance is set. -/
def execPowerWindowStart (s : State) : Res := .next (s.afterWindow s.turnWindow)

/-- THERMAL_TRIP (R478): where a die has stood at or above TTRIP for 10 µs, both dies halt every core and engine and the links go
down, until the next reset. -/
def execThermalTrip (s : State) : Res :=
  .next (if s.tooHot then
      { s with
        dies := [(0, { s.die 0 with power := { (s.die 0).power with bootst := 8 } }), (1, { s.die 1 with power := { (s.die 1).power with bootst := 8 } })],
        tripped := true, cxlUp := false, ports := s.ports.map (fun p => { p with up := false, lanes := 0 }) }
    else s)

end Sys2Proof.Machine
end

