-- ==== Sys2Proof/Machine/Copy.lean ====
section
/-! DEFINITION. The box copy engine: layout records, box and linear copies (spec 07, R177 to R189; R91 to R102, R121, R312, R321 to
R324, R349 to R352, R444 to R446, R460). -/

namespace Sys2Proof.Machine
open Sys2Proof.Machine.Num

/-! ## Layout records (R178) -/

/-- The fields of a layout record, a list of 12 doubles. -/
def recFmt (w : List Nat) : Nat := nbits (w.getD 3 0) 39 32
def recRank (w : List Nat) : Nat := min 4 (nbits (w.getD 3 0) 42 40) + 1
def recSwz (w : List Nat) : Nat := nbits (w.getD 3 0) 45 43
def recFill (w : List Nat) : Nat := nbits (w.getD 3 0) 47 46
def recTrans (w : List Nat) : Nat := nbits (w.getD 3 0) 49 48
def recBankil (w : List Nat) : Nat := nbits (w.getD 3 0) 53 50
def recHlog (w : List Nat) : Nat := nbits (w.getD 8 0) 35 32
def recReplay (w : List Nat) : Bool := nbit (w.getD 8 0) 36
def recSeed (w : List Nat) : Dword := BitVec.ofNat 64 (w.getD 9 0)
def recBook (w : List Nat) : Nat := nbits (w.getD 10 0) 56 0
def recScale (w : List Nat) : Nat := nbits (w.getD 11 0) 56 0
def recBase (w : List Nat) : Nat := nbits (w.getD 0 0) 56 0
def rawDim (w : List Nat) (d : Nat) : Nat := nbits (w.getD (1 + d / 2) 0) (32 * (d % 2) + 31) (32 * (d % 2))
def rawBox (w : List Nat) (d : Nat) : Nat := if d = 4 then nbits (w.getD 8 0) 15 0 else nbits (w.getD (4 + d) 0) 63 48
/-- R178: extents at or above the rank are 1. -/
def recDim (w : List Nat) (d : Nat) : Nat := if d < recRank w then rawDim w d else 1
def recBox (w : List Nat) (d : Nat) : Nat := if d < recRank w then rawBox w d else 1
def recStride (w : List Nat) (d : Nat) : Int := if d < recRank w then sextNat (nbits (w.getD (3 + d) 0) 47 0) 48 else 0
def recSdb (w : List Nat) : Bool := decide (0x80 ≤ recFmt w)
/-- The element format, of a tensor of blocks its base. -/
def recBaseFmt (w : List Nat) : Nat := recFmt w % 128
def recBits (w : List Nat) : Nat := elemBits (recBaseFmt w)
def recCap (w : List Nat) : Nat := blockCap (recBaseFmt w)

/-- R97: a format code of a layout record. -/
def fmtOk (f : Nat) : Bool := (decide (1 ≤ f) && decide (f ≤ 10)) || [0x82, 0x84, 0x85, 0x86, 0x87, 0x88].contains f

/-- What a record is read for (R178): the source, a destination in memory or one in scratchpad. -/
inductive Role where
  | src | mem | scr
  deriving DecidableEq, Repr

/-- R178, R444: the offences of one record: word and bit. A BASE of a tensor of blocks is accepted whatever its alignment (DESIGN CHOICE, log
entry 83). -/
def recOffences (role : Role) (w : List Nat) : List (Nat × Nat) :=
  let f := recFmt w
  let rankm1 := nbits (w.getD 3 0) 42 40
  let extents := if role == .scr then []
    else must 3 40 (decide (rankm1 ≤ 4)) ++ (List.range (recRank w)).flatMap (fun d =>
      must (1 + d / 2) (32 * (d % 2)) (rawDim w d != 0))
  let source := if role == .src then
      must 3 46 (recFill w != 3) ++ (List.range (recRank w)).flatMap (fun d =>
        must (if d = 4 then 8 else 4 + d) (if d = 4 then 0 else 48) (rawBox w d != 0))
    else []
  let dest := if role == .src then []
    else
      must 3 48 (decide (recTrans w ≤ 1)) ++
      must 8 32 (recHlog w == 0 || (decide (4 ≤ recHlog w) && decide (recHlog w ≤ 7))) ++
      must 3 48 (recTrans w != 1 || (!recSdb w && [8, 16, 32].contains (elemBits f))) ++
      must 3 48 (recTrans w == 0 || recHlog w == 0) ++
      must 11 0 (!recReplay w || recScale w != 0)
  let scratch := if role == .scr then must 3 43 (decide (recSwz w ≤ 5)) ++ must 3 50 (decide (recBankil w ≤ 3)) else []
  mustZero 0 (w.getD 0 0) 63 57 ++ mustZero 3 (w.getD 3 0) 63 54 ++ mustZero 8 (w.getD 8 0) 63 37 ++
  mustZero 10 (w.getD 10 0) 63 57 ++ must 11 57 (nbits (w.getD 11 0) 63 57 == 1) ++ must 3 32 (fmtOk f) ++
  extents ++ source ++ dest ++ scratch ++ (if hasBook f then mustZero 10 (recBook w) 4 0 else [])

/-- R431: INFO of cause 0x50, from the offences of the record at `va`: the lowest word and bit. -/
def recInfo (va side : Nat) (l : List (Nat × Nat)) : Option Nat :=
  (minBy (fun (x : Nat × Nat) => x.1 * 64 + x.2) l).map (fun x => x.2 * 2 ^ 58 + side * 2 ^ 57 + va % 2 ^ 57 / 64 * 64 + x.1)

/-! ## The descriptor (R312, R321) -/

def EReq.w (r : EReq) (i : Nat) : Nat := (r.regs.getD i 0#32).toNat
/-- The address pair in registers i and i + 1. -/
def EReq.pair (r : EReq) (i : Nat) : Nat := r.w i + 2 ^ 32 * r.w (i + 1)
def EReq.ctl (r : EReq) : Nat := r.w 5
def EReq.dstk (r : EReq) : Bool := nbit r.ctl 31
def EReq.strm (r : EReq) : Bool := nbit r.ctl 30
def EReq.strnum (r : EReq) : Nat := nbits r.ctl 29 27
def EReq.red (r : EReq) : Nat := nbits r.ctl 19 17
/-- R312: the counter of a copy or splice request; .br and .wg act as .cl. -/
def EReq.counter (r : EReq) : Counter := ⟨r.pair 6, r.pair 8, max 2 (nbits r.ctl 26 24)⟩
def EReq.srcRec (r : EReq) : List Nat := r.recs.getD 0 []
def EReq.dstRec (r : EReq) : List Nat := r.recs.getD 1 []
def EReq.srcBook (r : EReq) : List Nat := r.recs.getD 2 []
def EReq.dstBook (r : EReq) : List Nat := r.recs.getD 3 []
/-- R180: the origin of slice j. -/
def EReq.origin (r : EReq) (j d : Nat) : Int :=
  sextNat (((r.parts.getD j (0, [])).2.getD d 0#32).toNat) 32

/-! ## Extents of a box copy (R180, R182, R187) -/

/-- R182: the destination box extents B'. -/
def EReq.dbox (r : EReq) (d : Nat) : Nat :=
  let t := recTrans r.dstRec
  recBox r.srcRec (if t = 1 then (if d = 0 then 1 else if d = 1 then 0 else d) else d)

def ceilDiv (a b : Nat) : Nat := (a + b - 1) / b

/-- R182: bytes of a destination row, its pitch, rows, and slice size. -/
def EReq.rowBytes (r : EReq) : Nat :=
  if recSdb r.dstRec then 64 * ceilDiv (r.dbox 0) (recCap r.dstRec) else r.dbox 0 * recBits r.dstRec / 8
def EReq.pitch (r : EReq) : Nat := ceilDiv r.rowBytes 32 * 32
def EReq.nrow (r : EReq) : Nat := r.dbox 1 * r.dbox 2 * r.dbox 3 * r.dbox 4
def EReq.sliceSize (r : EReq) : Nat := ceilDiv (r.nrow * r.pitch) 512 * 512

/-- The units of a walk along dim0: elements, or blocks of a destination row. -/
def EReq.units0 (r : EReq) : Nat :=
  if recSdb r.dstRec then ceilDiv (recBox r.srcRec 0) (recCap r.dstRec) else recBox r.srcRec 0
def EReq.sliceUnits (r : EReq) : Nat :=
  r.units0 * recBox r.srcRec 1 * recBox r.srcRec 2 * recBox r.srcRec 3 * recBox r.srcRec 4
def EReq.allUnits (r : EReq) : Nat := r.parts.length * r.sliceUnits

/-- How many coordinates of a destination extent a slice's box reaches. -/
def clip (o : Int) (n dim : Nat) : Nat := (min (o + n) dim - max o 0).toNat

/-- R183, R187: the bytes that slice j writes to a memory destination. -/
def EReq.memBytes (r : EReq) (j : Nat) : Nat :=
  let w := r.dstRec
  let sw := fun d => if recTrans w = 1 then (if d = 0 then 1 else if d = 1 then 0 else d) else d
  let n := fun d => clip (r.origin j (sw d)) (r.dbox d) (recDim w d)
  let rows := n 1 * n 2 * n 3 * n 4
  if recSdb w then 64 * rows * ceilDiv (n 0) (recCap w) else (n 0 * rows * recBits w + 7) / 8

/-- R187: the bytes moved by a box copy. -/
def EReq.boxBytes (r : EReq) : Nat :=
  if r.dstk then r.parts.length * r.nrow * r.rowBytes * r.members.length
  else ((List.range r.parts.length).map r.memBytes).foldl (· + ·) 0

/-! ## Tensors (R91 to R96, R179) -/

/-- R181: the coordinates lie in the tensor of a record; those at or above its rank do not count. -/
def insideOf (w : List Nat) (c : List Int) : Bool :=
  (List.range (recRank w)).all (fun d => decide (0 ≤ c.getD d 0) && decide (c.getD d 0 < (recDim w d : Int)))

/-- R178, R183: the coordinates lie in a destination tensor, whose extents at or above its rank are 1. -/
def insideDst (w : List Nat) (c : List Int) : Bool :=
  insideOf w c && (rangeFrom (recRank w) (5 - recRank w)).all (fun d => c.getD d 0 == 0)

/-- R179: the byte address of a plain element (of a 4-bit element, its byte). -/
def elemVa (w : List Nat) (c : List Int) : Int :=
  let c0 := c.getD 0 0
  let b := recBits w
  (recBase w : Int) + (if b = 4 then c0 / 2 else c0 * ((b / 8 : Nat) : Int)) +
    ((List.range (recRank w - 1)).map (fun i => c.getD (i + 1) 0 * recStride w (i + 1))).foldl (· + ·) 0

/-- R96: the index of block `b0` of the row at c. -/
def blockIdx (w : List Nat) (b0 : Nat) (c : List Int) : Nat :=
  let x := fun d => if d < recRank w then (c.getD d 0).toNat else 0
  b0 + ceilDiv (recDim w 0) (recCap w) * (x 1 + recDim w 1 * (x 2 + recDim w 2 * (x 3 + recDim w 3 * x 4)))

/-- An address as a VA: outside the VA space where it is negative. -/
def vaOf (x : Int) : Nat := if x < 0 then 2 ^ 57 + (x % 2 ^ 57).toNat else x.toNat

/-- R91, R95, R179: the value of the source at coordinates inside its tensor, with poison. -/
def State.srcVal (s : State) (r : EReq) (c : List Int) : Except EErr (State × Val × Bool) :=
  let w := r.srcRec
  if recSdb w then
    let cap := recCap w
    let i0 := (c.getD 0 0).toNat
    match s.reqRead r (recBase w + 64 * blockIdx w (i0 / cap) c) 64 with
    | .error e => .error e
    | .ok (s1, d) => .ok (s1, (blockVals r.srcBook (recBaseFmt w) (d.map Prod.fst)).getD (i0 % cap) .nan, d.any Prod.snd)
  else
    let b := recBits w
    match s.reqRead r (vaOf (elemVa w c)) (max 1 (b / 8)) with
    | .error e => .error e
    | .ok (s1, d) =>
      let x := leVal (d.map Prod.fst)
      let x' := if b = 4 then (if c.getD 0 0 % 2 = 0 then x % 16 else x / 16) else x
      .ok (s1, elem r.srcBook (recBaseFmt w) x', d.any Prod.snd)

/-- Do something for each of a list in turn, with what each gives. -/
def eachE {α β : Type} (f : State → α → Except EErr (State × β)) : List α → State → Except EErr (State × List β)
  | [], s => .ok (s, [])
  | x :: xs, s =>
    match f s x with
    | .error e => .error e
    | .ok (s1, y) =>
      match eachE f xs s1 with
      | .error e => .error e
      | .ok (s2, ys) => .ok (s2, y :: ys)

/-- A list of writes of a request in turn, up to one that fails. -/
def State.reqWrites (s : State) (r : EReq) : List (Nat × List (Byte × Bool)) → State × Option EErr
  | [] => (s, none)
  | x :: xs =>
    match s.reqWrite r x.1 x.2 with
    | (s1, none) => State.reqWrites s1 r xs
    | (s1, some e) => (s1, some e)

/-! ## Values (R181) -/

/-- R181: the fill. -/
def fillVal (w : List Nat) : Val :=
  if recFill w = 0 then .fin false 0 0 else if recFill w = 1 then .nan
  else Num.decode bf16 (nbits (w.getD 8 0) 31 16)

/-- R100: the sign flip of element j of dim0. -/
def signFlip (seed : Dword) (j : Int) (x : Val) : Val :=
  if (kg64 seed (BitVec.ofNat 64 (j / 64).toNat)).getLsbD (j % 64).toNat then x.negate else x

/-- R181 steps 1 and 2: the value at box position `i` of slice j, with poison. -/
def State.boxVal (s : State) (r : EReq) (j : Nat) (i : List Nat) : Except EErr (State × Val × Bool) :=
  let c := (List.range 5).map (fun d => r.origin j d + ((i.getD d 0 : Nat) : Int))
  let l := recHlog r.dstRec
  if !insideOf r.srcRec c then .ok (s, fillVal r.srcRec, false)
  else if l = 0 then s.srcVal r c
  else
    let h : Int := 2 ^ l
    let c0 := c.getD 0 0
    let j0 := c0 - c0 % h
    match eachE (fun s k =>
        let ck := (j0 + (k : Nat)) :: c.drop 1
        if insideOf r.srcRec ck then
          match s.srcVal r ck with
          | .error e => .error e
          | .ok (s1, v, p) => .ok (s1, signFlip (recSeed r.dstRec) (j0 + (k : Nat)) v, p)
        else .ok (s, .fin false 0 0, false)) (List.range (2 ^ l)) s with
    | .error e => .error e
    | .ok (s1, vs) => .ok (s1, (hadamard l (vs.map Prod.fst)).getD (c0 - j0).toNat .nan, vs.any Prod.snd)

/-! ## Store forms (R91, R98, R101, R102) -/

/-- R91: codes packed into bytes, 4-bit codes two to a byte. -/
def packCodes (bits n : Nat) (codes : List Nat) : List Byte :=
  leBytes n (((List.range codes.length).map (fun i => codes.getD i 0 * 2 ^ (bits * i))).foldl (· + ·) 0)

/-- One unit of the walk as it is to be stored: slice, box position, the code of an element or the bytes of a block (then with
its SCALE byte), and poison. -/
structure BoxUnit where
  j : Nat
  i : List Nat
  code : Nat
  block : List Byte
  scale : Nat
  poison : Bool
  deriving DecidableEq, Repr

/-- R180: slice and box position of unit u of the walk; position 0 counts elements, or blocks. -/
def EReq.unitAt (r : EReq) (u : Nat) : Nat × List Nat :=
  let b := fun d => recBox r.srcRec d
  let k := u % r.sliceUnits
  let k1 := k / r.units0
  let k2 := k1 / b 1
  let k3 := k2 / b 2
  (u / r.sliceUnits, [k % r.units0, k1 % b 1, k2 % b 2, k3 % b 3, k3 / b 3])

/-- R183: the destination coordinates of the first element of a unit. -/
def EReq.dstCoord (r : EReq) (j : Nat) (i : List Nat) : List Int :=
  let c := (List.range 5).map (fun d =>
    r.origin j d + ((i.getD d 0 * (if d = 0 ∧ recSdb r.dstRec = true then recCap r.dstRec else 1) : Nat) : Int))
  if recTrans r.dstRec = 1 then c.getD 1 0 :: c.getD 0 0 :: c.drop 2 else c

/-- R183: the unit is written. -/
def EReq.unitIn (r : EReq) (u : Nat) : Bool :=
  r.dstk || insideDst r.dstRec (r.dstCoord (r.unitAt u).1 (r.unitAt u).2)

/-- Half bytes that a written unit counts for (R187). -/
def EReq.unitNibbles (r : EReq) : Nat := if recSdb r.dstRec then 128 else recBits r.dstRec / 4

/-- R187: the units of the next chunk that are written, and the position after it: 4,096 bytes. Fuel: the units that remain. -/
def EReq.chunkUnits (r : EReq) (u room : Nat) : Nat → List Nat × Nat
  | 0 => ([], u)
  | k + 1 =>
    if room < r.unitNibbles then ([], u)
    else if r.unitIn u then
      let (l, v) := EReq.chunkUnits r (u + 1) (room - r.unitNibbles) k
      (u :: l, v)
    else EReq.chunkUnits r (u + 1) room k

/-- R182: the destination row of a unit in a slice laid out in scratchpad, and its place in the row. -/
def EReq.rowOf (r : EReq) (i : List Nat) : Nat × Nat :=
  let x := fun d => i.getD d 0
  let (a, b) := if recTrans r.dstRec = 1 then (x 1, x 0) else (x 0, x 1)
  (b + r.dbox 1 * (x 2 + r.dbox 2 * (x 3 + r.dbox 3 * x 4)), a)

/-- R102: the address of a block's byte in the scale record. -/
def EReq.scaleVa (r : EReq) (j : Nat) (i : List Nat) : Nat :=
  let w := r.dstRec
  let idx := if r.dstk then (j * r.nrow + (r.rowOf i).1) * r.units0 + i.getD 0 0
    else
      let c := r.dstCoord j i
      blockIdx w ((c.getD 0 0).toNat / recCap w) c
  recScale w + idx

/-- R101, R183: how many elements block i of a row holds: those of the box, and of a memory tensor. -/
def EReq.blockLen (r : EReq) (j : Nat) (i : List Nat) : Nat :=
  let w := r.dstRec
  let cap := recCap w
  let n := min cap (recBox r.srcRec 0 - i.getD 0 0 * cap)
  if r.dstk then n else min n ((recDim w 0 : Int) - (r.dstCoord j i).getD 0 0).toNat

/-- R181: the unit u in its store form. -/
def State.makeUnit (s : State) (r : EReq) (u : Nat) : Except EErr (State × BoxUnit) :=
  let w := r.dstRec
  let f := recBaseFmt w
  let (j, i) := r.unitAt u
  if recSdb w then
    let first := i.getD 0 0 * recCap w
    match eachE (fun s k => s.boxVal r j (k :: i.drop 1)) (rangeFrom first (r.blockLen j i)) s with
    | .error e => .error e
    | .ok (s1, vs) =>
      match (if recReplay w then s1.reqRead r (r.scaleVa j i) 1 else .ok (s1, [])) with
      | .error e => .error e
      | .ok (s2, d) =>
        let q := quantise r.dstBook f (if recReplay w then some (leVal (d.map Prod.fst)) else none) (vs.map Prod.fst)
        .ok (s2, ⟨j, i, 0, BitVec.ofNat 8 f :: BitVec.ofNat 8 q.1 :: packCodes (elemBits f) 62 q.2, q.1,
          vs.any Prod.snd || d.any Prod.snd⟩)
  else match s.boxVal r j i with
    | .error e => .error e
    | .ok (s1, v, p) => .ok (s1, ⟨j, i, encodeElem r.dstBook f v, [], 0, p⟩)

/-! ## Placing (R121, R182, R183, R186) -/

/-- R121: the swizzled offset. -/
def swizzle (mode o row p : Nat) : Nat :=
  if mode = 0 then o
  else if mode ≤ 4 then Nat.xor o (row % 2 ^ mode * 32)
  else o - o % p + ((o % p / 32 + row) % (p / 32)) * 32 + o % 32

/-- R186: the new code of an element under a reduce-on-store code. -/
def reduceCode (red f old new : Nat) : Nat :=
  let g := if f = 1 then f32 else bf16
  let a := Num.decode g old
  let b := Num.decode g new
  if red = 0 then new else if red ≤ 2 then rne g (add a b) else if red = 3 then rne g (maxVal a b) else rne g (minVal a b)

/-- The bytes of an element over the old ones: a 4-bit element keeps the other nibble. -/
def mergeElem (w : List Nat) (red odd code : Nat) (old : List (Byte × Bool)) (p : Bool) : List (Byte × Bool) :=
  let b := recBits w
  let x := leVal (old.map Prod.fst)
  let op := old.any Prod.snd
  if b = 4 then [(BitVec.ofNat 8 (if odd = 0 then x / 16 * 16 + code else code * 16 + x % 16), p)]
  else (leBytes (b / 8) (if red = 0 then code else reduceCode red (recBaseFmt w) x code)).map
    (fun y => (y, p || (red != 0 && op)))

/-- R177, R185: the scratchpad target of the request in each member. -/
def State.boxTargets (s : State) (r : EReq) : List (Nat × Nat) :=
  (List.range r.members.length).map (fun k =>
    let g := r.members.getD k 0
    if r.strm then
      let st := (s.wgrp g).streams.getD r.strnum Stream.blank
      (g, st.base + r.work.getD (k + 1) 0 * st.slotBytes)
    else (g, r.w 4))

/-- R182: one unit is written to scratchpad, in every member. -/
def State.putScr (s : State) (r : EReq) (x : BoxUnit) : State :=
  let w := r.dstRec
  let (row, a) := r.rowOf x.i
  let p := r.pitch
  let gran := recBankil w
  (s.boxTargets r).foldl (fun s t =>
    let g := s.wgrp t.1
    let at_ := t.2 + x.j * r.sliceSize
    let sw := fun o => at_ + swizzle (recSwz w) o row p
    if recSdb w then
      let d := x.block.map (fun y => (y, x.poison))
      (s.scrPut g gran (sw (row * p + 64 * a)) (d.take 32)).scrPut g gran (sw (row * p + 64 * a + 32)) (d.drop 32)
    else
      let b := recBits w
      let off := sw (row * p + a * b / 8)
      let old := s.scrBytes g (gran * 2 ^ 27) off (max 1 (b / 8))
      s.scrPut g gran off (mergeElem w r.red (a % 2) x.code old x.poison)) s

/-- R214, R373: what a chunk writes to memory, in the order of the walk: runs of bytes at consecutive addresses, the latest first; the bytes by
address; and the error at which its units end. -/
structure BoxWrites where
  scale : List (Nat × List (Byte × Bool))
  data : List (Nat × List (Byte × Bool))
  bytes : Tbl (Byte × Bool)
  err : Option EErr

/-- A run goes on, or a new one begins. -/
def addRun (l : List (Nat × List (Byte × Bool))) (va : Nat) (d : List (Byte × Bool)) : List (Nat × List (Byte × Bool)) :=
  match l with
  | (a, x) :: r => if a + x.length = va then (a, x ++ d) :: r else (va, d) :: l
  | [] => [(va, d)]

def BoxWrites.put (w : BoxWrites) (va : Nat) (d : List (Byte × Bool)) : BoxWrites :=
  { w with data := addRun w.data va d, bytes := (d.zip (rangeFrom va d.length)).foldl (fun m p => Tbl.put m p.2 p.1) w.bytes }

/-- R186: the bytes that an element joins: those that the chunk has for it, or the memory's. DESIGN CHOICE (log entry 103): a reduction into a peer
aperture reads the old bytes there and sends the result as a plain write. -/
def State.oldBytes (s : State) (r : EReq) (ws : BoxWrites) (va n : Nat) : Except EErr (State × List (Byte × Bool)) :=
  let mine := (rangeFrom va n).filterMap (fun i => Tbl.get? ws.bytes i)
  if mine.length = n then .ok (s, mine)
  else match s.engIa r.asid va .write with
    | none => .error (.access va)
    | some ia =>
      match (if State.unanswered { s with peerOpen := r.opened } ia then .error (.held (iaPeer ia))
        else State.iaReadAt { s with peerOpen := r.opened } (dieOf r.core) ia n 3) with
      | .error e => .error (.home va e)
      | .ok (s1, d, p) => .ok (s1.gateShut, d.map (fun y => (y, p)))

/-- R183, R186: one unit joins the writes to memory. The old bytes are the engine's own: only the written ones need the right to write. -/
def State.unitBytes (s : State) (r : EReq) (ws : BoxWrites) (x : BoxUnit) : State × BoxWrites :=
  let w := r.dstRec
  let c := r.dstCoord x.j x.i
  if recSdb w then (s, ws.put (recBase w + 64 * blockIdx w ((c.getD 0 0).toNat / recCap w) c) (x.block.map (fun y => (y, x.poison))))
  else
    let va := vaOf (elemVa w c)
    let b := recBits w
    let odd := (c.getD 0 0 % 2).toNat
    if r.red = 0 ∧ b ≠ 4 then (s, ws.put va (mergeElem w 0 0 x.code [] x.poison))
    else if (s.engIa r.asid va (if b = 4 then .write else .atomic)).isNone then (s, { ws with err := some (.access va) })
    else match s.oldBytes r ws va (max 1 (b / 8)) with
      | .error e => (s, { ws with err := some e })
      | .ok (s1, d) => (s1, ws.put va (mergeElem w r.red odd x.code (d.map (fun y => (y.1, y.2 && r.red != 0))) x.poison))

/-- One unit is placed: in scratchpad, or among the writes to memory; R102: the SCALE byte of a block goes to the scale record. -/
def placeUnit (r : EReq) (a : State × BoxWrites) (x : BoxUnit) : State × BoxWrites :=
  if a.2.err.isSome then a
  else
    let w := r.dstRec
    let ws := if recSdb w && !recReplay w && recScale w != 0 then
      { a.2 with scale := addRun a.2.scale (r.scaleVa x.j x.i) [(BitVec.ofNat 8 x.scale, false)] } else a.2
    if r.dstk then (a.1.putScr r x, ws) else a.1.unitBytes r ws x

/-- The units of a chunk are placed and written, up to the first that fails. -/
def State.putUnits (s : State) (r : EReq) (xs : List BoxUnit) : State × Option EErr :=
  let a := xs.foldl (placeUnit r) (s, ⟨[], [], [], none⟩)
  match a.1.reqWrites r (a.2.scale.reverse ++ a.2.data.reverse) with
  | (s1, some e) => (s1, some e)
  | (s1, none) => (s1, a.2.err)

/-! ## COPY_BEGIN (R158, R177, R178, R321, R322, R444) -/

/-- The next state, or a stop of the request: an error of an access, or a cause with its INFO. -/
inductive Prep where
  | ok (s : State) (r : EReq)
  | stop (e : EErr)
  | fault (cause info : Nat)
  | region (cause info : Nat)
  | wait
  deriving Repr

def Prep.bind (p : Prep) (f : State → EReq → Prep) : Prep :=
  match p with
  | .ok s r => f s r
  | x => x

/-- Stop with cause 0x51 where a descriptor has an offence. -/
def Prep.descr (s : State) (r : EReq) (l : List (Nat × Nat)) : Prep :=
  match offenceInfo l with
  | some i => .fault 0x51 i
  | none => .ok s r

/-- R178: read a layout record, check it (R444), and read its codebook, whose poison counts for nothing (DESIGN CHOICE, log entry 83). Register
`reg` of the descriptor holds its VA. -/
def readRecord (role : Role) (reg side : Nat) (s : State) (r : EReq) : Prep :=
  let va := r.pair reg
  if va % 64 != 0 then Prep.descr s r (mustZero reg va 5 0)
  else match s.reqRead r va 96 with
    | .error e => .stop e
    | .ok (s1, d) =>
      if d.any Prod.snd then .region 0x61 ((s1.engIa r.asid va .read).getD 0)
      else
        let w := doublesOf (d.map Prod.fst)
        match recInfo va side (recOffences role w) with
        | some i => .fault 0x50 i
        | none =>
          if !hasBook (recFmt w) then .ok s1 { r with recs := r.recs ++ [w, []] }
          else match s1.reqRead r (recBook w) 32 with
            | .error e => .stop e
            | .ok (s2, b) =>
              .ok s2 { r with recs := r.recs ++ [w, (List.range 16).map (fun i => leVal (((b.map Prod.fst).drop (2 * i)).take 2))] }

/-- R102, R444: the translation of every byte of the scale record that the request reads or writes. -/
def checkScale (s : State) (r : EReq) : Prep :=
  let w := r.dstRec
  if !recSdb w || recScale w == 0 then .ok s r
  else
    let vas := ((List.range r.allUnits).filter r.unitIn).map (fun u => r.scaleVa (r.unitAt u).1 (r.unitAt u).2)
    match vas.find? (fun va => (s.engIa r.asid va (if recReplay w then .read else .write)).isNone) with
    | some va => .stop (.access va)
    | none => .ok s r

/-- Both records are read: the source, its codebook, the destination, its codebook. -/
def orderRecs (s : State) (r : EReq) : Prep :=
  .ok s { r with recs := [r.recs.getD 0 [], r.recs.getD 2 [], r.recs.getD 1 [], r.recs.getD 3 []] }

/-- R121, R181, R182: what the two records must satisfy together. -/
def checkPair (s : State) (r : EReq) : Prep :=
  let w := r.dstRec
  let l := recHlog w
  let b0 := recBox r.srcRec 0
  let pitchOk := !r.dstk || recSwz w == 0 || decide (5 ≤ recSwz w) || r.pitch % (32 * 2 ^ recSwz w) == 0
  if l != 0 && b0 % 2 ^ l != 0 then .fault 0x50 ((recInfo (r.pair 0) 0 [(4, 48)]).getD 0)
  else if r.dstk && !recSdb w && recBits w == 4 && r.dbox 0 % 2 != 0 then
    .fault 0x50 ((recInfo (r.pair 0) 0 [(if recTrans w = 1 then 5 else 4, 48)]).getD 0)
  else if !pitchOk then .fault 0x50 ((recInfo (r.pair 2) 1 [(3, 43)]).getD 0)
  else .ok s r

/-- R183, R186, R321, R349: the fields of the descriptor against the records. DESIGN CHOICE (log entry 102): a BOX0 of an SDB tensor that is no
multiple of its capacity and does not reach the end of dim0 is cause 0x51 at A+10, as its origin is. -/
def boxOffences (s : State) (r : EReq) : List (Nat × Nat) :=
  let w := r.dstRec
  let t := r.w 4
  let mc := nbits r.ctl 23 20
  let f := recFmt w
  let l := recHlog w
  let js := List.range r.parts.length
  let b0 := recBox r.srcRec 0
  let cap := (recCap w : Int)
  let redOk := r.red == 0 || (r.red == 1 && f == 1) || (r.red == 2 && f == 2) || (decide (3 ≤ r.red) && (f == 1 || f == 2))
  mustZero 5 r.ctl 16 0 ++ must 5 17 (decide (r.red ≤ 4) && redOk) ++ must 5 24 (decide (nbits r.ctl 26 24 ≤ 5)) ++
  mustZero 15 (r.w 10) 31 0 ++
  (if r.dstk then
    must 5 20 (decide (mc < 2 ^ r.gang.length)) ++ must 4 0 (!r.strm || t == 0) ++ mustZero 4 t 31 19 ++
      mustZero 4 t (if recSwz w = 0 then 4 else 8) 0
  else must 5 30 (!r.strm) ++ must 5 20 (mc == 0) ++ must 4 0 (t == 0)) ++
  must 10 0 (js.all (fun j => (l == 0 || r.origin j 0 % 2 ^ l == 0) &&
    (!recSdb w || r.dstk || (r.origin j 0 % cap == 0 && ((b0 : Int) % cap == 0 || decide ((recDim w 0 : Int) ≤ r.origin j 0 + b0)))))) ++
  (if !r.dstk then []
  else if r.strm then must 5 27 (r.members.all (fun g =>
    let st := (s.wgrp g).streams.getD r.strnum Stream.blank
    !st.slots.isEmpty && decide (r.parts.length * r.sliceSize ≤ st.slotBytes)))
  else must 4 0 (r.members.all (fun g => decide (t + r.parts.length * r.sliceSize ≤ (s.wgrp g).scrUnits * 32))))

/-- R444: the counter's translation. -/
def checkCounter (s : State) (r : EReq) : Prep :=
  let va := r.counter.va
  if va = 0 then .ok s r
  else match s.checkVa r.asid va 8 .atomic with
    | .ok _ => if 2 ^ 57 ≤ va then .stop (.access va) else .ok s r
    | .error _ => .stop (.access va)

/-- R161: an access of a workgroup to its slot that is not yet performed. -/
def State.slotBusy (s : State) (g lo n : Nat) : Bool :=
  let gang := (s.wgrp g).gang
  let hit := fun (va m : Nat) => overlaps (va % 2 ^ 19) m lo n
  s.threads.any (fun p => gang.contains p.2.wg && p.2.mops.any (fun m => match m.kind with
    | .lds .. => hit m.va m.size
    | .atoms .. => hit m.va m.size
    | _ => false)) ||
  s.braids.any (fun p => gang.contains p.2.wg && p.2.storeQ.any (fun e => e.scratch && hit e.va e.data.length))

/-- R177, R185: the slot at each member's fill position is free and is taken; otherwise the request waits. A stream that is not configured is
left to the checks. -/
def takeSlots (s : State) (r : EReq) : Prep :=
  let st := fun g => (s.wgrp g).streams.getD r.strnum Stream.blank
  if !r.strm || !r.dstk || r.members.any (fun g => (st g).slots.isEmpty) then .ok s r
  else
    if r.members.all (fun g => (st g).slots.getD (st g).fillPos .filling == .free &&
        !s.slotBusy g ((st g).base + (st g).fillPos * (st g).slotBytes) (st g).slotBytes) then
      let s1 := r.members.foldl (fun s g => s.modStream g r.strnum (fun x => { x with
        slots := setAt x.slots x.fillPos .filling, fillPos := (x.fillPos + 1) % x.slots.length })) s
      .ok s1 { r with work := r.work ++ r.members.map (fun g => (st g).fillPos) }
    else .wait

/-- The request begins: it asks leave where it moves more than 65,536 bytes (R187). -/
def beginCopy (bytes : Nat) (s : State) (r : EReq) : Prep :=
  let big := decide (65536 < bytes)
  let r1 := { r with begun := true, missed := none, opened := [], replay := false, leave := if big then 1 else 0 }
  let s1 := s.modReq r.id (fun _ => r1)
  .ok (if big then s1.due (.event (.leaveRequest (dieOf r.core) 1 r.id)) else s1) r1

/-- R322, R350, R444: a box copy at the head of its queue: it waits for its slots, then reads its records. -/
def State.beginBox (s : State) (r : EReq) : Prep :=
  let role := if r.dstk then Role.scr else Role.mem
  ((((takeSlots s { r with recs := [], work := [0] }).bind (readRecord .src 0 0)).bind (readRecord role 2 1)).bind orderRecs).bind checkPair
    |>.bind (fun s r => Prep.descr s r (boxOffences s r))
    |>.bind checkScale
    |>.bind checkCounter
    |>.bind (fun s r => beginCopy r.boxBytes s { r with work := r.boxBytes :: r.work.drop 1 })

/-- R323, R444: a linear copy at the head of its queue. -/
def State.beginLin (s : State) (r : EReq) : Prep :=
  (Prep.descr s r (must 4 0 (r.w 4 != 0) ++ must 5 24 (decide (nbits r.ctl 26 24 ≤ 5)) ++ mustZero 5 r.ctl 23 0 ++ mustZero 5 r.ctl 31 27))
    |>.bind checkCounter
    |>.bind (fun s r => beginCopy (r.w 4) s { r with work := [r.w 4] })

/-- What a stop at the head of a queue does (R445, R446, R461). -/
def State.afterPrep (s : State) (r : EReq) : Prep → State
  | .ok s1 _ => s1
  | .stop e => s.engineStop r e
  | .fault c i => s.engineFault r c i
  | .region c i => s.engineRegion r c i
  | .wait => s

/-- R158, R159, R410: the request may begin: its signers' stores are performed. -/
def State.mayBegin (s : State) (r : EReq) : Bool := !r.begun && r.waiting.isNone && s.signersDone r && !s.doomed r

/-- COPY_BEGIN (R158, R159, R177, R322). -/
def execCopyBegin (cluster queue : Nat) (s : State) : Res :=
  .next (let s0 := s.settleFences ⟨0, cluster, queue⟩ 16
    match s0.headReq ⟨0, cluster, queue⟩ with
    | none => s0
    | some r =>
      if !s0.mayBegin r then s0
      else s0.afterPrep r (if r.op = .cpbox then s0.beginBox r else s0.beginLin r))

/-! ## COPY_CHUNK (R180 to R187, R189) -/

/-- R187: one chunk of a box copy; what it has written before an error stands. -/
def State.boxChunk (s : State) (r : EReq) : State × Option EErr :=
  let (us, next) := r.chunkUnits r.pos 8192 (r.allUnits - r.pos)
  match eachE (fun s u => s.makeUnit r u) us s with
  | .error e => (s, some e)
  | .ok (s1, xs) =>
    match s1.putUnits r xs with
    | (s2, some e) => (s2, some e)
    | (s2, none) => (s2.modReq r.id (fun x => { x with
        pos := next, missed := none, opened := [], replay := false, phase := if r.allUnits ≤ next then 1 else 0 }), none)

/-- R189: every source byte is read before any destination byte is written: the first chunk reads them all. -/
def State.linSource (s : State) (r : EReq) : Except EErr (State × List Nat) :=
  if r.pos != 0 then .ok (s, r.recs.getD 0 [])
  else match s.reqRead r (r.pair 0) (r.w 4) with
    | .error e => .error e
    | .ok (s1, d) => .ok (s1, d.map (fun b => b.1.toNat + if b.2 then 256 else 0))

/-- R187, R189: one chunk of a linear copy. -/
def State.linChunk (s : State) (r : EReq) : State × Option EErr :=
  match s.linSource r with
  | .error e => (s, some e)
  | .ok (s1, d) =>
    let part := ((d.drop r.pos).take 4096).map (fun x => (BitVec.ofNat 8 x, decide (256 ≤ x)))
    match s1.reqWrite r (r.pair 2 + r.pos) part with
    | (s2, some e) => (s2, some e)
    | (s2, none) => (s2.modReq r.id (fun x => { x with
        recs := [d], pos := r.pos + 4096, missed := none, opened := [], replay := false, phase := if r.w 4 ≤ r.pos + 4096 then 1 else 0 }), none)

/-- A request may go on: it has begun, waits for no page and has the leave it needs. -/
def EReq.running (r : EReq) : Bool := r.begun && r.waiting.isNone && r.leave != 1

/-- COPY_CHUNK (R187): the head request of a queue writes its next 4,096 bytes. -/
def execCopyChunk (cluster queue : Nat) (s : State) : Res :=
  .next (match s.headReq ⟨0, cluster, queue⟩ with
    | none => s
    | some r =>
      if !r.running || r.phase != 0 then s
      else match (if r.op = .cpbox then s.boxChunk r else s.linChunk r) with
        | (s1, none) => s1
        | (s1, some e) => s.writeStop r s1 e)

/-! ## COPY_COMPLETE (R188, R297) -/

/-- R177, R188: the request's slots become filled. -/
def State.fillSlots (s : State) (r : EReq) : State :=
  if r.op = .cpbox ∧ r.strm = true ∧ r.dstk = true then
    (List.range r.members.length).foldl (fun s k => s.modStream (r.members.getD k 0) r.strnum
      (fun x => { x with slots := setAt x.slots (r.work.getD (k + 1) 0) .filled })) s
  else s

/-- COPY_COMPLETE (R188): slots are marked filled, the counter is incremented, and completion entries are delivered where every
port has room (R297). -/
def execCopyComplete (cluster queue : Nat) (s : State) : Res :=
  .next (match s.headReq ⟨0, cluster, queue⟩ with
    | none => s
    | some r =>
      if !r.running || r.phase != 1 || !s.portsFree r then s
      else (s.fillSlots r).finishReq r r.counter)

end Sys2Proof.Machine
end

