-- ==== Sys2Proof/Machine/Splice.lean ====
section
/-! DEFINITION. The splice engine: plans, scatters and combines (spec 07, R190 to R195; R327, R328, R355, R356, R444 to R448, R460). -/

namespace Sys2Proof.Machine
open Sys2Proof.Machine.Num

/-! ## The plan record and its arrays (R190, R191) -/

/-- The fields of a plan record, a list of 8 doubles, which a begun request keeps in `recs`. -/
def EReq.plan (r : EReq) (d hi lo : Nat) : Nat := nbits ((r.recs.getD 0 []).getD d 0) hi lo
def EReq.ntok (r : EReq) : Nat := r.plan 5 23 0
def EReq.topk (r : EReq) : Nat := r.plan 5 34 32 + 1
def EReq.nexp (r : EReq) : Nat := r.plan 5 59 48 + 1
def EReq.capacity (r : EReq) : Nat := r.plan 6 31 0
/-- R191: the expert map: input VA, output VA and device of an expert. -/
def EReq.emap (r : EReq) (e i : Nat) : Nat := nbits ((r.recs.getD 1 []).getD (4 * e + i) 0) (if i = 2 then 9 else 56) 0
def EReq.choice (r : EReq) (i : Nat) : Nat := (r.recs.getD 2 []).getD i 0
def EReq.inverse (r : EReq) (i : Nat) : Nat := (r.recs.getD 3 []).getD i 0

/-- R192: plan order: all slot-0 choices before slot 1, and token order within a slot: the entry index of place p. -/
def EReq.planPlace (r : EReq) (p : Nat) : Nat := p % r.ntok * r.topk + p / r.ntok

/-- R191, R192: an inverse entry. -/
def inverseEntry (dropped : Bool) (dev e pos : Nat) : Nat :=
  2 ^ 63 + (if dropped then 2 ^ 62 else 0) + dev * 2 ^ 48 + e * 2 ^ 32 + pos

/-- R193, R194: an inverse entry that is valid and not dropped. -/
def isPlaced (x : Nat) : Bool := nbit x 63 && !nbit x 62

/-! ## Begin (R313, R327, R444) -/

/-- R327, R355: the offences of a splice descriptor. -/
def EReq.spliceOffences (r : EReq) : List (Nat × Nat) :=
  let f := nbits r.ctl 7 0
  mustZero 5 r.ctl 23 8 ++ mustZero 5 r.ctl 31 27 ++ must 5 24 (decide (nbits r.ctl 26 24 ≤ 5)) ++ mustZero 0 (r.w 0) 5 0 ++
  must 5 0 (if r.op = .rtcomb then f == 1 || f == 2 else f == 0) ++
  must 4 0 (if r.op = .rtplan then r.w 4 == 0
    else if r.op = .rtscat then r.w 4 % 16 == 0 && decide (16 ≤ r.w 4) && decide (r.w 4 ≤ 65536)
    else decide (1 ≤ r.w 4) && decide (r.w 4 ≤ 32768)) ++
  (if r.op = .rtplan then must 2 0 (r.w 2 == 0) ++ must 3 0 (r.w 3 == 0) else [])

/-- R190, R191, R444: the first double of the plan record that has an offence. -/
def planOffence (w : List Nat) : Option Nat :=
  let d := fun i => w.getD i 0
  let ok := fun i =>
    if i = 0 then nbits (d 0) 63 57 == 0 && d 0 % 4 == 0
    else if i = 1 then nbits (d 1) 63 57 == 0 && d 1 % 32 == 0
    else if i ≤ 4 then nbits (d i) 63 57 == 0 && d i % 8 == 0
    else if i = 5 then nbits (d 5) 31 24 == 0 && nbits (d 5) 47 35 == 0 && nbits (d 5) 63 60 == 0 && nbits (d 5) 23 0 != 0
    else if i = 6 then true
    else d 7 == 0
  (List.range 8).find? (fun i => !ok i)

/-- Read `n` entries of `b` bytes for a request. -/
def State.reqEntries (s : State) (r : EReq) (va b n : Nat) : Except EErr (State × List Nat) :=
  match s.reqRead r va (b * n) with
  | .error e => .error e
  | .ok (s1, d) =>
    let x := d.map Prod.fst
    .ok (s1, (List.range n).map (fun i => leVal ((x.drop (b * i)).take b)))

/-- Append entries to what a request has read. -/
def takeEntries (va b n : Nat) (s : State) (r : EReq) : Prep :=
  match s.reqEntries r va b n with
  | .error e => .stop e
  | .ok (s1, l) => .ok s1 { r with recs := r.recs ++ [l] }

/-- R190, R444: the plan record. -/
def readPlan (s : State) (r : EReq) : Prep :=
  match s.reqRead r (r.pair 0) 64 with
  | .error e => .stop e
  | .ok (s1, d) =>
    if d.any Prod.snd then .region 0x61 ((s1.engIa r.asid (r.pair 0) .read).getD 0)
    else
      let w := doublesOf (d.map Prod.fst)
      match planOffence w with
      | some i => .fault 0x53 (3 * 2 ^ 60 + i)
      | none => .ok s1 { r with recs := [w] }

/-- R444: every choice of a plan names an expert of the map, or none. -/
def checkChoices (s : State) (r : EReq) : Prep :=
  match (List.range (r.ntok * r.topk)).find? (fun i => r.choice i % 65536 != 0xFFFF && decide (r.nexp ≤ r.choice i % 65536)) with
  | some i => .fault 0x53 i
  | none => .ok s r

/-- R72, R193: the bytes of the rows that go to device memory and to a peer. -/
def State.scatterBytes (s : State) (r : EReq) : Nat × Nat :=
  (List.range (r.ntok * r.topk)).foldl (fun (a : Nat × Nat) i =>
    let x := r.inverse i
    let e := nbits x 47 32
    if isPlaced x && decide (e < r.nexp) then
      match s.engIa r.asid (r.emap e 0 + nbits x 31 0 * r.w 4) .write with
      | some ia => if iaIsDev ia then (a.1 + r.w 4, a.2) else if iaIsPeer ia then (a.1, a.2 + r.w 4) else a
      | none => a
    else a) (0, 0)

/-- R313, R328: the plan record and the arrays it names are read as they stand when the request begins. -/
def State.beginSplice (s : State) (r : EReq) : Prep :=
  (Prep.descr s { r with recs := [] } r.spliceOffences)
    |>.bind readPlan
    |>.bind checkCounter
    |>.bind (fun s r => takeEntries (r.plan 1 56 0) 8 (4 * r.nexp) s r)
    |>.bind (fun s r => takeEntries (r.plan 0 56 0) 4 (if r.op = .rtscat then 0 else r.ntok * r.topk) s r)
    |>.bind (fun s r => takeEntries (r.plan 3 56 0) 8 (if r.op = .rtplan then 0 else r.ntok * r.topk) s r)
    |>.bind (fun s r => if r.op = .rtplan then checkChoices s r else .ok s r)
    |>.bind (fun s r =>
      let ask := decide (r.op = .rtscat)
      let b := s.scatterBytes r
      let r1 := { r with begun := true, missed := none, opened := [], replay := false, work := [b.1, b.2], leave := if ask then 1 else 0 }
      let s1 := s.modReq r.id (fun _ => r1)
      .ok (if ask then s1.due (.event (.leaveRequest (dieOf r.core) 2 r.id)) else s1) r1)

/-! ## RTPLAN (R192) -/

/-- R192: the plan under construction: requested counts, the inverse, and the drop list. -/
structure Plan where
  req : Tbl Nat
  inv : List (Nat × Nat)
  drops : List Nat
  deriving DecidableEq, Repr

/-- R192: one choice. -/
def planStep (r : EReq) (a : Plan) (p : Nat) : Plan :=
  let i := r.planPlace p
  let x := r.choice i % 65536
  if x = 0xFFFF then { a with inv := a.inv ++ [(i, 0)] }
  else
    let q := Tbl.getD a.req x 0
    let dev := r.emap x 2
    let req := Tbl.put a.req x (q + 1)
    if q < r.capacity then { a with req := req, inv := a.inv ++ [(i, inverseEntry false dev x q)] }
    else
      { req := req, inv := a.inv ++ [(i, inverseEntry true dev x a.drops.length)],
        drops := a.drops ++ [x * 2 ^ 48 + p / r.ntok * 2 ^ 32 + p % r.ntok] }

/-- R192: the plan as it stands before place `p`. -/
def EReq.planAt (r : EReq) (p : Nat) : Plan := (List.range p).foldl (planStep r) ⟨[], [], []⟩

/-- A double of a splice array, as bytes at its VA. -/
def entryWrite (va v : Nat) : Nat × List (Byte × Bool) := (va, (leBytes 8 v).map (fun b => (b, false)))

/-- R191, R192: what place `p` of a plan writes: an inverse entry, and an entry of the drop list where the choice is dropped. -/
def EReq.placeWrites (r : EReq) (p : Nat) : List (Nat × List (Byte × Bool)) :=
  let a := r.planAt p
  let b := planStep r a p
  ((b.inv.drop a.inv.length).map (fun x => entryWrite (r.plan 3 56 0 + 8 * x.1) x.2)) ++
    ((b.drops.drop a.drops.length).map (fun d => entryWrite (r.plan 4 56 0 + 8 * a.drops.length) d))

/-- R191, R192: what ends a plan: counts and NDROP. -/
def EReq.endWrites (r : EReq) : List (Nat × List (Byte × Bool)) :=
  let p := r.planAt (r.ntok * r.topk)
  (List.range r.nexp).map (fun e =>
    let q := Tbl.getD p.req e 0
    entryWrite (r.plan 2 56 0 + 8 * e) (min q r.capacity * 2 ^ 32 + q)) ++
  [(r.pair 0 + 52, (leBytes 4 p.drops.length).map (fun b => (b, false)))]

/-- The head request of a splice queue, where it is of the kind. -/
def State.spliceHead (s : State) (die queue : Nat) (op : EngOp) : Option EReq :=
  match s.headReq ⟨1, die, queue⟩ with
  | some r => if r.op = op then some r else none
  | none => none

/-- What the head request does: it begins, or goes on. -/
def State.spliceRun (s : State) (die queue : Nat) (op : EngOp) (f : State → EReq → State) : State :=
  let s0 := s.settleFences ⟨1, die, queue⟩ 16
  match s0.spliceHead die queue op with
  | none => s0
  | some r =>
    if !r.begun then (if s0.mayBegin r then s0.afterPrep r (s0.beginSplice r) else s0)
    else if !r.running || r.phase != 0 then s0
    else f s0 r

/-- The request goes on at place `pos`; it has no more to do where `last`. -/
def State.spliceNext (s : State) (r : EReq) (pos : Nat) (last : Bool) : State :=
  s.modReq r.id (fun x => { x with pos := pos, missed := none, opened := [], replay := false, phase := if last then 1 else 0 })

/-- R192, R195, R327: RTPLAN plans its next choice, in plan order; after the last it writes the counts. -/
def State.planRun (s : State) (r : EReq) : State :=
  let n := r.ntok * r.topk
  match s.reqWrites r (if r.pos < n then r.placeWrites r.pos else r.endWrites) with
  | (s1, some e) => s.writeStop r s1 e
  | (s1, none) => s1.spliceNext r (r.pos + 1) (n ≤ r.pos)

/-- SPLICE_PLAN_RUN (R192, R444). -/
def execSplicePlanRun (die queue : Nat) (s : State) : Res :=
  .next (s.spliceRun die queue .rtplan State.planRun)

/-! ## RTSCAT (R193, R460) -/

/-- R444: an entry that is used, which is a valid one, names an expert of the map, and a placed one a position below CAP. -/
def EReq.entryOk (r : EReq) (i : Nat) : Bool :=
  let x := r.inverse i
  !nbit x 63 || (decide (nbits x 47 32 < r.nexp) && (nbit x 62 || decide (nbits x 31 0 < r.capacity)))

/-- The next place in plan order at or after `p` whose entry is placed, or may not be used. Fuel: the places that remain. -/
def EReq.nextPlaced (r : EReq) (p : Nat) : Nat → Option Nat
  | 0 => none
  | k + 1 =>
    if isPlaced (r.inverse (r.planPlace p)) || !r.entryOk (r.planPlace p) then some p else EReq.nextPlaced r (p + 1) k

/-- R193: the next row. -/
def State.scatterRow (s : State) (r : EReq) : State :=
  let n := r.ntok * r.topk
  match r.nextPlaced r.pos (n - r.pos) with
  | none => s.spliceNext r n true
  | some p =>
    let i := r.planPlace p
    let x := r.inverse i
    let rb := r.w 4
    if !r.entryOk i then s.engineFault r 0x53 (2 * 2 ^ 60 + i)
    else match s.reqRead r (r.pair 2 + p % r.ntok * rb) rb with
      | .error e => s.engineStop r e
      | .ok (s1, d) =>
        match s1.reqWrite r (r.emap (nbits x 47 32) 0 + nbits x 31 0 * rb) d with
        | (s2, some e) => s.writeStop r s2 e
        | (s2, none) => s2.spliceNext r (p + 1) (n ≤ p + 1)

/-- SPLICE_SCATTER_ROW (R193). -/
def execSpliceScatterRow (die queue : Nat) (s : State) : Res :=
  .next (s.spliceRun die queue .rtscat State.scatterRow)

/-! ## RTCOMB (R194, R448, R460) -/

/-- The output row of a placed entry: its gate, its elements and its poison. -/
def State.outRow (s : State) (r : EReq) (i : Nat) : Except EErr (State × Val × List Val × Bool) :=
  let x := r.inverse i
  let f := nbits r.ctl 7 0
  let e := elemBits f / 8
  let n := r.w 4 * e
  match s.reqRead r (r.emap (nbits x 47 32) 1 + nbits x 31 0 * n) n with
  | .error q => .error q
  | .ok (s1, d) =>
    let b := d.map Prod.fst
    .ok (s1, Num.decode bf16 (r.choice i / 65536),
      (List.range (r.w 4)).map (fun j => elem [] f (leVal ((b.drop (e * j)).take e))), d.any Prod.snd)

/-- R108, R194: one element: the exact sum from +0, rounded once; an exact zero is +0. -/
def combine (f : Fmt) (ts : List Val) : Nat :=
  match Num.sum ts with
  | .fin _ 0 _ => 0
  | v => rne f v

/-- R194: the row of the next token. -/
def State.combineRow (s : State) (r : EReq) : State :=
  let t := r.pos
  let f := nbits r.ctl 7 0
  let e := elemBits f / 8
  let all := (List.range r.topk).map (fun k => t * r.topk + k)
  let is_ := all.filter (fun i => isPlaced (r.inverse i))
  match all.find? (fun i => !r.entryOk i) with
  | some i => s.engineFault r 0x53 (2 * 2 ^ 60 + i)
  | none =>
    match eachE (fun s i => s.outRow r i) is_ s with
    | .error q => s.engineStop r q
    | .ok (s1, rows) =>
      let bad := rows.any (fun x => x.2.2)
      let d := (List.range (r.w 4)).flatMap (fun j =>
        leBytes e (combine (if f = 1 then f32 else bf16) (rows.map (fun x => mul x.1 (x.2.1.getD j .nan)))))
      match s1.reqWrite r (r.pair 2 + t * r.w 4 * e) (d.map (fun b => (b, bad))) with
      | (s2, some q) => s.writeStop r s2 q
      | (s2, none) => s2.spliceNext r (t + 1) (r.ntok ≤ t + 1)

/-- SPLICE_COMBINE_ROW (R194). -/
def execSpliceCombineRow (die queue : Nat) (s : State) : Res :=
  .next (s.spliceRun die queue .rtcomb State.combineRow)

/-- SPLICE_COMPLETE (R188, R195, R297). -/
def execSpliceComplete (die queue : Nat) (s : State) : Res :=
  .next (match s.headReq ⟨1, die, queue⟩ with
    | none => s
    | some r => if !r.running || r.phase != 1 || !s.portsFree r then s else s.finishReq r r.counter)

end Sys2Proof.Machine
end

