-- ==== Sys2Proof/Machine/Call.lean ====
section
/-! DEFINITION. Engine requests are passed on, and near-memory calls: call records, the call FIFO, blocks and their ends (spec 07,
08; R52, R53, R158, R163, R196 to R207, R307, R341, R344, R357, R411, R444, R452, R453). -/

namespace Sys2Proof.Machine

/-! ## The call record (R199) -/

/-- A field of a call record, a list of 56 doubles. -/
def callField (w : List Nat) (d hi lo : Nat) : Nat := nbits (w.getD d 0) hi lo
def callStack (w : List Nat) : Nat := callField w 4 2 0
def callThreads (w : List Nat) : Nat := callField w 3 13 0 + 1
def callEntry (w : List Nat) : Nat := callField w 3 39 32
def callMsg16 (w : List Nat) : Nat := callField w 3 52 48
/-- R199: range entry i: its VA and length. -/
def callRange (w : List Nat) (i : Nat) : Nat × Nat := (callField w (8 + 2 * i) 56 0, callField w (9 + 2 * i) 47 0)

/-- R199, R452: the fields of a call record. -/
def callOk (w : List Nat) : Bool :=
  let z := fun d hi lo => callField w d hi lo == 0
  let scope := callField w 3 42 40
  z 0 63 0 && z 1 63 0 && z 2 63 0 && z 3 31 14 && z 3 47 43 && z 3 63 53 && z 4 63 3 && z 5 63 0 && z 6 63 57 &&
  (List.range 8).all (fun i => z (8 + 2 * i) 63 57 && z (9 + 2 * i) 63 48) &&
  callThreads w % 16 == 0 && decide (callThreads w ≤ 12288) && decide (callMsg16 w ≤ 16) && (scope == 4 || scope == 5)

/-- R122: the 64 KiB pages that a range of a VA touches. -/
def pagesOf (va n : Nat) : List Nat := rangeFrom (va / 65536) ((va + n - 1) / 65536 - va / 65536 + 1)

/-- R452: every nonzero range translates; in-ranges are read and out-ranges written. -/
def State.callRanges (s : State) (asid : Nat) (w : List Nat) : Bool :=
  (List.range 8).all (fun i =>
    let (va, n) := callRange w i
    n == 0 || (pagesOf va n).all (fun p => (s.engIa asid (p * 65536) (if i < 4 then .read else .write)).isSome))

/-- R197: the SPA of the entry descriptor of a call. -/
def State.callDescAt (s : State) (w : List Nat) : Nat := nbits (s.stack (callStack w)).nmcode.toNat 35 16 * 65536 + 32 * callEntry w

/-- R197: the entry descriptor of a call: its four doubles. -/
def State.callDesc (s : State) (w : List Nat) : List Nat :=
  (List.range 4).map (fun i => s.dram64 (dkey (callStack w) (s.callDescAt w + 8 * i)))

/-- R461: the entry descriptor of a call, in a code space that is set, is poisoned. -/
def State.descPoisoned (s : State) (w : List Nat) : Bool :=
  callOk w && nbits (s.stack (callStack w)).nmcode.toNat 63 48 != 0 && s.dramPoisoned (dkey (callStack w) (s.callDescAt w)) 32

/-- R431, R461: INFO of cause 0x61 of a structure that a base die names by SPA: the SPA, in [35:0] (DEDUCED, log entry 96). The call ends, and its
domain is region-fatal. -/
def State.descFail (s : State) (r : EReq) (w : List Nat) : State := (s.engineRegion r 0x61 (s.callDescAt w)).freeGang r.gang

def descPc (d : List Nat) : Nat := nbits (d.getD 0 0) 22 0
def descRegs (d : List Nat) : Nat := (nbits (d.getD 1 0) 35 33 + 1) * 8
def descFrame (d : List Nat) : Nat := nbits (d.getD 1 0) 47 40 * 4096

/-- R197, R452: an entry descriptor that is valid, with its reserved bits zero and a frame that the frame area can hold. -/
def State.descOk (s : State) (k : Nat) (d : List Nat) : Bool :=
  let z := fun i hi lo => nbits (d.getD i 0) hi lo == 0
  z 0 63 23 && z 1 31 0 && nbit (d.getD 1 0) 32 && z 1 39 36 && z 1 63 48 && z 2 63 0 && z 3 63 0 &&
  descFrame d != 0 && decide (descFrame d ≤ nbits (s.stack k).nmframe.toNat 63 44 * 4096)

/-- R452: the checks of a call, made at formation and again at dispatch. -/
def State.callCheck (s : State) (asid : Nat) (w : List Nat) : Bool :=
  callOk w && s.callRanges asid w && nbits (s.stack (callStack w)).nmcode.toNat 63 48 != 0 &&
    s.descOk (callStack w) (s.callDesc w)

/-! ## The end of a call that fails (R411, R452, R453) -/

/-- R431, R453: every signer of the NMCALL that still runs takes cause 0x58. -/
def State.trapCallers (s : State) (r : EReq) (cause va : Nat) : State :=
  if (s.wgrp r.wg).retired then s
  else r.signers.foldl (fun s x =>
    match Tbl.get? s.threads (tkey r.wg x.1) with
    | none => s
    | some y =>
      if y.exited || y.off then s
      else s.raiseAsync r.wg x.1 ⟨0x58, cause % 128 * 2 ^ 57 + va % 2 ^ 57, r.pc, r.word, r.wpos, s.clk⟩) s

/-- The IA of a call record, where its VA translates. -/
def State.callIa (s : State) (r : EReq) : Nat := (s.engIa r.asid (r.pair 0) .read).getD 0

/-- R452: a call that fails its checks ends with cause 0x5C: its record, then the callers. -/
def State.callFail (s : State) (r : EReq) (stack seq : Nat) : State :=
  let rep : Report := { Report.plain 2 0x5C (r.pair 0 % 2 ^ 57) with
    wgnum := seq, launch := s.callIa r, core := 192 + 48 * stack, asid := r.asid }
  ((((s.report r.part r.dom rep).trapCallers r 0x5C (r.pair 0)).dropReq r.id)).freeGang r.gang

/-! ## NMCALL is passed (R158, R163, R199 to R201, R357) -/

/-- R163, R200: the lines of a stack that the ranges of a call from number `i` on name (0 in-ranges, 4 out-ranges): every copy that some cache
holds. -/
def State.callLines (s : State) (asid : Nat) (w : List Nat) (k i : Nat) : List Nat :=
  let held := s.dies.flatMap (fun d => d.2.l2.map Line.tag) ++ s.cores.flatMap (fun c => c.2.l1d.map Line.tag)
  (held.eraseDups).filter (fun tag => iaIsDev (tag * 128) && iaStack (tag * 128) == k && (rangeFrom i 4).any (fun j =>
    let (va, n) := callRange w j
    n != 0 && (pagesOf va n).any (fun p => match s.engIa asid (p * 65536) (if j < 4 then .read else .write) with
      | some ia => decide (ia ≤ tag * 128) && decide (tag * 128 < ia + 65536) && overlaps (p * 65536 + (tag * 128 - ia)) 128 va n
      | none => false)))

/-- R163: the dirty lines of the in-ranges of a call are written back from the L2 of both dies; the lines stay. So are those of its out-ranges,
so that what was stored there before the call is not lost when it returns (DESIGN CHOICE, log entry 99). -/
def State.cleanIn (s : State) (asid : Nat) (w : List Nat) (k : Nat) : State :=
  (s.callLines asid w k 0 ++ s.callLines asid w k 4).foldl (fun s tag => (s.l2Clean 0 tag).l2Clean 1 tag) s

/-- R163, R199, R452: the call enters the FIFO of its stack, or fails. -/
def State.enterCall (s : State) (r : EReq) (w : List Nat) : State :=
  let k := callStack w
  let seq := (s.stack k).callSeq
  let s1 := s.modStack k (fun x => { x with callSeq := x.callSeq + 1 })
  if s1.descPoisoned w then s1.descFail r w
  else if !s1.callCheck r.asid w then s1.callFail r k seq
  else
    let s2 := (s1.cleanIn r.asid w k).modStack k (fun x => { x with calls := x.calls ++ [⟨r.id, seq, w⟩] })
    { s2.modReq r.id (fun x => { x with begun := true }) with formed := s2.formed.filter (· != r.id) }

/-- R357: an NMCALL that its core formed earlier has not entered its FIFO: to the same stack, or to one that is not known yet, because its record
is not read (DEDUCED, log entry 95). -/
def State.callBefore (s : State) (r : EReq) (k : Nat) : Bool :=
  s.formed.any (fun i => decide (i < r.id) && (s.req i).any (fun x => x.op == .nmcall && x.core == r.core &&
    (x.recs.isEmpty || callStack (x.recs.getD 0 []) == k)))

/-- R201, R357: a call whose record has been read enters its FIFO, behind the calls of its core to that stack and where there is room. -/
def State.queueCall (s : State) (r : EReq) (w : List Nat) : State :=
  if s.callBefore r (callStack w) || decide (64 ≤ (s.stack (callStack w)).calls.length) then s else s.enterCall r w

/-- R163, R200, R201, R357: the record is read once the signers' releases at .dev are complete; a full FIFO, an earlier call to its stack, and a
record whose page is not resident, delay the call. -/
def State.passCall (s : State) (r : EReq) : State :=
  if r.waiting.isSome || !s.signersDone r then s
  else if !r.recs.isEmpty then s.queueCall r (r.recs.getD 0 [])
  else if r.pair 0 % 64 != 0 then s.callFail r 0 0
  else match s.reqRead r (r.pair 0) 448 with
    | .error (.home va (.notRes tr p ev)) => s.engineErr r va (.notRes tr p ev)
    | .error (.home va (.held d)) => s.engineErr r va (.held d)
    | .error (.home va (.region c i)) => if c = 0x68 then s.callFail r 0 0 else s.engineErr r va (.region c i)
    | .error _ => s.callFail r 0 0
    | .ok (s1, d) =>
      if d.any Prod.snd then s1.callFail r 0 0
      else
        let r1 := { r with recs := [doublesOf (d.map Prod.fst)], opened := [] }
        (s1.modReq r.id (fun _ => r1)).queueCall r1 (r1.recs.getD 0 [])

/-! ## ENGINE_REQUEST_PASS (R52, R53, R158, R307, R341, R344, R444) -/

/-- R444, R445: a matrix request that fails a formation check is not formed; the others enter their queue and table. -/
def State.passTile (s : State) (r : EReq) (l : List (Nat × Nat)) : State :=
  match offenceInfo l with
  | some i => s.engineFault r 0x51 i
  | none => s.passMatrix r

/-- R53: the request is accepted in its queue: the promise is written. -/
def State.accept (s : State) (r : EReq) : State := (s.modQueue r.qref (· ++ [.req r.id])).writePromise r

/-- One formed request is passed on. -/
def State.passReq (s : State) (r : EReq) : State :=
  if r.op = .nmcall then s.passCall r
  else
    let s1 := { s with formed := s.formed.filter (· != r.id) }
    if r.op = .mxs then s1.passTile r (s1.mxsOffences r)
    else if r.op = .smx then s1.passTile r r.smxOffences
    else s1.accept r

/-- R307: the queues that a queue-set word of a core names. -/
def namedQueues (core : Nat) (w : Word) : List QRef :=
  let x := w.toNat
  let eng := nbits x 31 30
  let qs := (List.range 8).filter (fun i => nbit x i)
  if eng = 1 then qs.map (fun q => ⟨1, dieOf core, q⟩)
  else qs.map (fun q => ⟨0, clusterOf core, q⟩) ++
    (if eng = 2 then ((List.range 8).filter (fun i => nbit x (8 + i))).map (fun q => ⟨2, clusterOf core, q⟩) else [])

/-- R160, R307: a QFENCE of a braid enters every queue it names. -/
def State.placeFence (s : State) (f : Nat × Nat × Word) : State :=
  let g := s.wgrp f.1
  let qs := namedQueues g.core f.2.2
  let (s1, id) := s.freshId
  let s2 := qs.foldl (fun s q => s.modQueue q (· ++ [.fence id g.part])) s1
  match qs.head? with
  | some q => s2.settleFences q 16
  | none => s2

/-- R75: the place of a request among those passed in one cycle: of matrix requests by tile. -/
def State.passKey (s : State) (id : Nat) : Nat :=
  match s.req id with
  | some r => if r.op = .mxs ∨ r.op = .smx then r.q else 0
  | none => 0

/-- ENGINE_REQUEST_PASS (R52, R75, R307, R341): the requests of earlier cycles are passed on, then the QFENCE words of the last cycle. -/
def execEngineRequestPass (s : State) : Res :=
  let s1 := (sortBy s.passKey s.formed).foldl (fun s id => match s.req id with
    | some r => if r.formed < s.clk then s.passReq r else s
    | none => { s with formed := s.formed.filter (· != id) }) s
  .next (s1.qfences.foldl State.placeFence { s1 with qfences := [] })

/-! ## Blocks (R201 to R203) -/

/-- Rows and registers in use on a rhizoid core, by threads of the blocks on it. -/
def State.rhizoidRows (s : State) (core : Nat) : List (Nat × Nat) :=
  (((s.coreThreads core).map (fun x => (x.row, x.wg))).eraseDups).map (fun x => (x.1, (s.wgrp x.2).n))

/-- Rows of a block of `t` threads on the core at a position. -/
def blockRows (t pos : Nat) : Nat := (t - 16 * pos + 767) / 768

/-- R201: the row slots that a block of `t` threads with `n` registers would take on the core at a position. -/
def State.rhizoidRoom (s : State) (k pos t n : Nat) : Option (List Nat) :=
  let used := s.rhizoidRows (192 + 48 * k + pos)
  let need := blockRows t pos
  let free := ((List.range Config.rhizoidRows).filter (fun r => !used.any (fun u => u.1 == r))).take need
  let regs := (used.map Prod.snd).foldl (· + ·) 0
  if free.length = need ∧ regs + need * n ≤ Config.rhizoidLaneRegs then some free else none

/-- R201: the lowest-addressed fit of a frame in the frame area. -/
def State.frameRoom (s : State) (k size : Nat) : Option Nat :=
  let v := (s.stack k).nmframe.toNat
  let base := nbits v 35 12 * 4096
  let top := base + nbits v 63 44 * 4096
  let used := (s.stack k).frames
  (sortBy id (base :: used.map (fun f => f.1 + f.2.1))).find? (fun b =>
    decide (base ≤ b) && decide (b + size ≤ top) && used.all (fun f => !overlaps f.1 f.2.1 b size))

/-- R202, R203: the block of a call. -/
def blockWg (r : EReq) (id k seq base : Nat) (d w : List Nat) (ia : Nat) (msg : List Byte) : Workgroup :=
  let t := callThreads w
  { Workgroup.blank with
    id := id, core := 192 + 48 * k, stack := some k, part := r.part, launch := r.launch, launchIa := ia, asid := r.asid,
    dom := r.dom, t := t, w := 16, n := descRegs d, wgnum := seq, entry := callEntry w, gang := [id], frameBase := base,
    frameSize := descFrame d, callVa := r.pair 0 % 2 ^ 57, callSeq := seq, call := w, msg := msg.map BitVec.toNat,
    callCore := r.core, req := r.id,
    hitch := (List.range 48).flatMap (fun c => List.replicate 4 (Hitch.launch 0#64 (16 * blockRows t c))) }

/-- R202: the block becomes resident: the frame zeroed with the message at its start, threads ready at ENTRYPC. -/
def State.startBlock (s : State) (r : EReq) (c : Call) (d : List Nat) (base : Nat) (rooms : List (List Nat)) : State :=
  let w := c.record
  let k := callStack w
  let msg := (leBytes 256 ((List.range 32).foldl (fun (a : Nat × Nat) i => (a.1 + w.getD (24 + i) 0 * 2 ^ a.2, a.2 + 64)) (0, 0)).1).take
    (16 * callMsg16 w)
  let (s1, id) := s.freshId
  let g := blockWg r id k c.seq base d w (s1.callIa r) msg
  let s2 := ((s1.dramWrite (dkey k base) (List.replicate (descFrame d) 0#8)).dramWrite (dkey k base) msg).modStack k (fun x => { x with
    calls := x.calls.filter (fun y => y.req != c.req), frames := x.frames ++ [(base, descFrame d, id)] })
  let s3 := { s2 with wgs := Tbl.put s2.wgs id g }
  let s4 := (List.range g.t).foldl (fun s t => { s with
    threads := Tbl.put s.threads (tkey id t) { launchThread id t (descPc d) ((rooms.getD (t / 16 % 48) []).getD (t / 768) 0) with lane := t % 16 } }) s3
  (List.range (g.t / 16)).foldl (fun s b => { s with braids := Tbl.put s.braids (bkey id b) (launchBraid g b) }) s4

/-- CALL_DISPATCH (R201, R202, R452): the head call of a stack is checked again, and dispatched where it has room. -/
def execCallDispatch (stack : Nat) (s : State) : Res :=
  .next (match (s.stack stack).calls.head? with
    | none => s
    | some c =>
      match s.req c.req with
      | none => s.modStack stack (fun x => { x with calls := x.calls.drop 1 })
      | some r =>
        if s.tripped then s
        else if s.descPoisoned c.record then s.descFail r c.record
        else if !s.callCheck r.asid c.record then s.callFail r stack c.seq
        else
          let d := s.callDesc c.record
          let rooms := (List.range 48).map (fun p => s.rhizoidRoom stack p (callThreads c.record) (descRegs d))
          match s.frameRoom stack (descFrame d) with
          | some b => if rooms.all Option.isSome then s.startBlock r c d b (rooms.map (fun x => x.getD [])) else s
          | none => s)

/-! ## The end of a block (R163, R207, R411, R453) -/

/-- R163: the out-ranges are invalidated in the L2 of both dies and, by notifications, in coherent L1 copies. What main dies have stored there
since the call was passed is written back first (DESIGN CHOICE, log entry 99). -/
def State.dropOut (s : State) (g : Workgroup) (k : Nat) : State :=
  (s.callLines g.asid g.call k 4).foldl (fun s tag => (((s.l2Flush 0 tag).notify 0 tag).l2Flush 1 tag).notify 1 tag) s

/-- R207, R482: the increment of a block's counter is not made yet. -/
def State.blockAdd (s : State) (id : Nat) : Bool := s.heldAdds.any (fun h => h.block == id)

/-- R207: no thread of the block can go on, and nothing it has issued is pending. -/
def State.blockIdle (s : State) (g : Workgroup) (k : Nat) : Bool :=
  let st := s.stack k
  !s.inTurn g.id && (g.stopping || (s.threadsOf g.id).all (fun x => x.exited || x.off)) && !s.wgPending g.id &&
    st.allQ.all (fun b => b.wg != g.id) && st.seqQ.all (fun p => p.2.all (fun b => b.wg != g.id))

/-- R207, R411: the block's rows, registers and frame are free, and its request is gone. -/
def State.freeBlock (s : State) (g : Workgroup) (k : Nat) : State :=
  let gang := ((s.req g.req).map EReq.gang).getD []
  let s1 := s.modStack k (fun x => { x with frames := x.frames.filter (fun f => f.2.2 != g.id) })
  let s2 := { s1 with
    wgs := Tbl.del s1.wgs g.id, threads := s1.threads.filter (fun p => p.2.wg != g.id),
    braids := s1.braids.filter (fun p => p.2.wg != g.id) }
  (s2.dropReq g.req).freeGang gang

/-- BLOCK_COMPLETE (R163, R207): a block whose threads have exited invalidates its out-ranges and adds CINC; one that was ended
(R411) invalidates them and traps its callers. The frame is freed after the increment: one that waits for its page keeps the block, retired. -/
def execBlockComplete (wg : Nat) (s : State) : Res :=
  .next (match Tbl.get? s.wgs wg with
    | none => s
    | some g =>
      match g.stack with
      | none => s
      | some k =>
        if g.retired then (if s.blockAdd g.id then s else s.freeBlock g k)
        else if !s.blockIdle g k || (g.ended.isSome && !g.stopping) then s
        else
          let s1 := s.dropOut g k
          match g.ended with
          | some f =>
            (match s1.req g.req with
              | some r => s1.trapCallers r f.cause g.callVa
              | none => s1).freeBlock g k
          | none =>
            let s2 := s1.addCounterOf (dieOfStack k) g.asid (callField g.call 6 56 0) (callField g.call 7 63 0) g.part g.dom g.id
            if s2.blockAdd g.id then s2.modWg g.id (fun x => { x with retired := true }) else s2.freeBlock g k)

end Sys2Proof.Machine
end

