-- ==== Sys2Proof/Machine/NearMem.lean ====
section
/-! DEFINITION. Near-memory compute: bank commands, all-bank waves, microcode kernels and reductions (spec 08; R24, R130, R131, R163
to R166, R196, R205, R208 to R214, R358 to R360, R435 to R438, R452). -/

namespace Sys2Proof.Machine
open Sys2Proof.Machine.Num

/-! ## SPA fields (R130) -/

def spaPch (a : Nat) : Nat := a / 2048 % 192
def spaBg (a : Nat) : Nat := a / 2048 / 192 % 4
def spaBank (a : Nat) : Nat := a / 2048 / 192 / 4 % 4
def spaRow (a : Nat) : Nat := a / 2048 / 192 / 16
def spaCol (a : Nat) : Nat := nbits a 10 6
/-- The first SPA of a row of a bank. -/
def rowSpa (pch bg bank row : Nat) : Nat := ((row * 16 + bank * 4 + bg) * 192 + pch) * 2048

/-! ## Command words (R210, R359) -/

def cmdWord (opc all clr fmt tb pch bg bank col : Nat) : Word :=
  BitVec.ofNat 32 (opc * 2 ^ 28 + all * 2 ^ 27 + clr * 2 ^ 26 + fmt * 2 ^ 24 + tb * 2 ^ 20 + pch * 2 ^ 12 + bg * 2 ^ 10 + bank * 2 ^ 8 + col)

def BankCmd.opc (b : BankCmd) : Nat := nbits b.cmd.toNat 31 28
def BankCmd.all (b : BankCmd) : Bool := nbit b.cmd.toNat 27
def BankCmd.clr (b : BankCmd) : Bool := nbit b.cmd.toNat 26
def BankCmd.bf (b : BankCmd) : Bool := nbits b.cmd.toNat 25 24 == 1
def BankCmd.tbank (b : BankCmd) : Nat := nbits b.cmd.toNat 21 20
def BankCmd.pch (b : BankCmd) : Nat := nbits b.cmd.toNat 19 12
def BankCmd.bg (b : BankCmd) : Nat := nbits b.cmd.toNat 11 10
def BankCmd.bank (b : BankCmd) : Nat := nbits b.cmd.toNat 9 8
def BankCmd.col (b : BankCmd) : Nat := nbits b.cmd.toNat 4 0

/-- What an NMBK word is, its address apart. -/
structure BankOp where
  opc : Nat
  all : Bool
  clr : Bool
  fb : Bool
  tb : Nat
  deriving DecidableEq, Repr

def b1 (b : Bool) : Nat := if b then 1 else 0

/-- R359: the command word of an NMBK word at an SPA. -/
def BankOp.word (o : BankOp) (spa : Nat) : Word :=
  let bcst := o.opc == 2
  cmdWord o.opc (b1 o.all) (b1 o.clr) (b1 o.fb) o.tb (spaPch spa) (if bcst then 0 else spaBg spa)
    (if bcst || (o.opc == 3 && o.fb) then 0 else spaBank spa) (if bcst then 0 else spaCol spa)

/-! ## Issue (R46, R205, R208, R359, R435, R452) -/

/-- The SPA of a rhizoid IA. -/
def State.spaOf (s : State) (ia : Nat) (write : Bool) : Except MErr (State × Nat) :=
  match s.resolve ia write with
  | .ok (s1, .dev _ spa) => .ok (s1, spa)
  | .ok _ => .error .refused
  | .error e => .error e

def pushCmd (q : Tbl (List BankCmd)) (k : Nat) (b : BankCmd) : Tbl (List BankCmd) := Tbl.put q k (Tbl.getD q k [] ++ [b])

/-- R26, R212: the first wave of the all-bank command at the head of its stack asks leave. -/
def State.askWave (s : State) (k : Nat) : State :=
  let st := s.stack k
  if st.allQ.isEmpty || st.leaveAsked || st.leaveGiven then s
  else (s.modStack k (fun x => { x with leaveAsked := true })).due (.event (.leaveRequest (dieOfStack k) 3 k))

/-- R210: a command ends without effect, and the thread it names takes a cause, whose record holds the command word. -/
def State.failCmd (s : State) (b : BankCmd) (cause info : Nat) : State :=
  (b.dests.foldl (fun s d => if b.opc = 3 then s.releaseRegs b.wg d.2.1 d.2.2 1 else s) s).takeFault b.wg b.t
    ⟨cause, info, b.pc, b.cmd, 0, s.clk⟩ 0#3 b.pc

/-- R208, R211, R452: a command whose SPA is known reaches its sequencer. -/
def State.reachSeq (s : State) (k : Nat) (o : BankOp) (spa : Nat) (b : BankCmd) : State :=
  let pos := ((s.wgrp b.wg).coreOf b.t - 192) % 48
  let (s, q) := s.freshSeq
  let b1 := { b with cmd := o.word spa, row := spaRow spa, arr := q }
  if !o.all && spaPch spa / 4 != pos then s.failCmd b1 0x5B 0
  else if o.all then (s.modStack k (fun x => { x with allQ := x.allQ ++ [b1] })).askWave k
  else s.modStack k (fun x => { x with seqQ := pushCmd x.seqQ (spaPch spa) b1 })

/-- The NMBK word that a held command came from. -/
def BankCmd.op (b : BankCmd) : BankOp := ⟨b.opc, b.all, b.clr, b.bf, b.tbank⟩

/-- R211: a thread's command does not pass one of its own that is held. -/
def State.heldBefore (s : State) (k : Nat) (b : BankCmd) : Bool :=
  (Tbl.getD (s.stack k).seqQ heldKey []).any (fun c => c.wg == b.wg && c.dests.any (fun d => b.dests.any (fun e => e.2.1 == d.2.1)))

/-- R205, R435: a command is issued: it reaches its sequencer, or is logged for a page that is not resident. Behind one of its threads' that is
held, or while the log of its core is full, it is held without an entry. -/
def State.issueCmd (s : State) (k : Nat) (o : BankOp) (b : BankCmd) : State :=
  let b := { b with cmd := o.word 0 }
  let hold := fun (s : State) (q : Nat) => s.modStack k (fun x => { x with seqQ := pushCmd x.seqQ heldKey { b with lseq := q } })
  if s.heldBefore k b then hold s 0
  else match s.spaOf b.ia false with
    | .ok (s1, spa) => s1.reachSeq k o spa b
    | .error (.notRes tr page ev) =>
      let g := s.wgrp b.wg
      if 16 ≤ s.logCount (g.coreOf b.t) then hold s 0
      else
        let (s1, q) := s.freshSeq
        (hold s1 q).reportPage g.part g.dom tr page ev (s.threadReport 0 0x40 0 b.wg b.t b.pc b.cmd.toNat)
    | .error (.region c i) => s.failCmd b c i
    | .error _ => s.failCmd b 0x59 0

/-- The registers that one member reads: the address pair, and D for a BCST. -/
def bankRead (a d : Nat) (bcst : Bool) (s : State) (m : Member) : Lane (State × Nat × Word) :=
  match s.regs m a 2 with
  | .error e => .error e
  | .ok _ =>
    if !bcst then .ok (s, m.reg64 a, 0#32)
    else match s.regs m d 1 with
      | .error e => .error e
      | .ok ws => .ok (s, m.reg64 a, ws.headD 0#32)

/-- R331, R359: one command for one co-issue set, whose first seat is the lowest home lane. -/
def bankSet (o : BankOp) (d : Nat) (c : Cur) (s : State) (set : List (Seat (Nat × Word))) : State :=
  match set with
  | [] => s
  | (i, m, va, _) :: _ =>
    match (s.wgrp m.wg).stack with
    | none => s
    | some k =>
      if 2 ^ 57 ≤ va then s.faultMember c i 0x44 (va % 2 ^ 57)
      else match s.vaIa m.wg m.t va 1 .read with
        | .error e => s.faultMember c i e (if e = 0x59 ∨ e = 0x5A then 0 else va)
        | .ok (ia, _) =>
          let (s1, q) := s.freshSeq
          let b : BankCmd :=
            { seq := q, wg := m.wg, t := m.t, pc := s.pktPc c.core c.pkt, va := va, ia := ia, cmd := c.word, row := 0,
              bcast := if o.opc = 2 then set.foldl (fun w x => Tbl.put w (x.2.1.lane % 16) x.2.2.2) [] else [],
              dests := set.map (fun x => (x.2.1.lane % 16, x.2.1.t, d)), raw := c.word, arr := 0, lseq := 0 }
          let s2 := if o.opc = 3 then set.foldl (fun s x => s.modThr x.2.1.wg x.2.1.t (fun y => y.holdReg d)) s1 else s1
          s2.issueCmd k o b

/-- R46: the co-issue sets of the seats, in ascending home lane order of their first seats. -/
def setsOf {α : Type} (s : State) (l : List (Seat α)) : List (List (Seat α)) :=
  let keys := (l.map (fun x => bkey x.2.1.wg (x.2.1.braid s))).eraseDups
  keys.map (fun k => sortBy (fun (x : Seat α) => x.2.1.lane) (l.filter (fun x => bkey x.2.1.wg (x.2.1.braid s) == k)))

/-- NMBK over the members that execute it. -/
def doNmbk (o : BankOp) (a d : Nat) (s : State) (c : Cur) (live : List (Nat × Member)) : State :=
  let (s1, xs) := readAll c (fun s m => bankRead a d (o.opc == 2) s m) live s
  (setsOf s1 xs).foldl (bankSet o d c) s1

/-- R209, R358, R359. -/
def execNmbkMac (h : Hdr) (o : OpNbMac) (s : State) : Res :=
  .next (perGroup wRhizoid h (Instr.nmbkMac h o).opns (doNmbk ⟨1, o.all, o.clr, o.fb, 0⟩ o.a.toNat 0) s)

/-- R209, R358, R359. -/
def execNmbkBcst (h : Hdr) (o : OpNbBcst) (s : State) : Res :=
  .next (perGroup wRhizoid h (Instr.nmbkBcst h o).opns (doNmbk ⟨2, o.all, false, false, 0⟩ o.a.toNat o.d.toNat) s)

/-- R209, R358 to R360. -/
def execNmbkRdac (h : Hdr) (o : OpNbRdac) (s : State) : Res :=
  .next (perGroup wRhizoid h (Instr.nmbkRdac h o).opns (doNmbk ⟨3, false, o.clr, o.fb, 0⟩ o.a.toNat o.d.toNat) s)

/-- R209, R358, R359. -/
def execNmbkLmac (h : Hdr) (o : OpNbLmac) (s : State) : Res :=
  .next (perGroup wRhizoid h (Instr.nmbkLmac h o).opns (doNmbk ⟨4, false, o.clr, true, o.tb.toNat⟩ o.a.toNat 0) s)

/-! ## The commands (R209) -/

/-- Words of a table from a first key. -/
def wordsAt (t : Tbl Word) (k : Nat) : List Word := (List.range 16).map (fun i => Tbl.getD t (k + i) 0#32)
def putWords (t : Tbl Word) (k : Nat) (ws : List Word) : Tbl Word :=
  (ws.zip (rangeFrom k ws.length)).foldl (fun t p => Tbl.set t 0#32 p.2 p.1) t

/-- R209: the words of a register after a BCST: a lane outside the set leaves its word. -/
def bcastWords (old : List Word) (w : Tbl Word) : List Word := (List.range 16).map (fun i => Tbl.getD w i (old.getD i 0#32))

/-- R209: MAC on one bank: `d` is the block, `w` the broadcast register, `acc` the accumulator. -/
def macWords (clr bf : Bool) (d : List Byte) (w acc : List Word) : List Word :=
  let x := leVal d
  (List.range 16).map (fun i =>
    let a := if clr then .fin false 0 0 else d32 (acc.getD i 0#32)
    let wi := (w.getD i 0#32).toNat
    let di := nbits x (32 * i + 31) (32 * i)
    if bf then passElem a [mul (Num.decode bf16 (di % 65536)) (Num.decode bf16 (wi % 65536)),
      mul (Num.decode bf16 (di / 65536)) (Num.decode bf16 (wi / 65536))]
    else passElem a [mul (Num.decode f32 di) (Num.decode f32 wi)])

/-- R209: LMAC: `d` is the weight block, `tab` the 2 KiB row of tables. -/
def lmacWords (clr : Bool) (d tab : List Byte) (acc : List Word) : List Word :=
  let x := leVal d
  (List.range 16).map (fun j =>
    let a := if clr then .fin false 0 0 else d32 (acc.getD j 0#32)
    passElem a ((List.range 8).map (fun i =>
      let n := 8 * j + i
      Num.decode bf16 (leVal ((tab.drop (32 * (n % 64) + 2 * nbits x (4 * n + 3) (4 * n))).take 2)))))

def accKey (pch bg bank : Nat) : Nat := ((pch * 4 + bg) * 4 + bank) * 16
def lutKey (pch bg : Nat) : Nat := (pch * 4 + bg) * 16

/-- R131: the memory-side cache lines of a DRAM row are written back and invalidated before a command holds it. -/
def Stack.holdRow (x : Stack) (pch bg bank row : Nat) : Stack :=
  let a := rowSpa pch bg bank row
  { x with msc := x.msc.filter (fun l => !(decide (a ≤ l.tag * 64) && decide (l.tag * 64 < a + 2048))) }

/-- R209: MAC on one bank of a stack. -/
def State.macBank (s : State) (k : Nat) (b : BankCmd) (pch bg bank : Nat) : State :=
  let d := s.dramRead (dkey k (rowSpa pch bg bank b.row + 64 * b.col)) 64
  s.modStack k (fun x =>
    let key := accKey pch bg bank
    { x.holdRow pch bg bank b.row with
      acc := putWords x.acc key (macWords b.clr b.bf d (wordsAt x.bcast (16 * pch)) (wordsAt x.acc key)) })

/-- R209: BCST to one pseudo-channel. -/
def State.bcastPch (s : State) (k : Nat) (b : BankCmd) (pch : Nat) : State :=
  s.modStack k (fun x => { x with bcast := putWords x.bcast (16 * pch) (bcastWords (wordsAt x.bcast (16 * pch)) b.bcast) })

/-- R209, R360: RDAC: the accumulator goes to the threads of the set. -/
def State.rdac (s : State) (k : Nat) (b : BankCmd) : State :=
  let st := s.stack k
  let key := if b.bf then lutKey b.pch b.bg else accKey b.pch b.bg b.bank
  let ws := wordsAt (if b.bf then st.lut else st.acc) key
  let s1 := b.dests.foldl (fun s d => s.deliver b.wg d.2.1 b.seq d.2.2 [ws.getD d.1 0#32] 0) s
  if !b.clr then s1
  else s1.modStack k (fun x =>
    if b.bf then { x with lut := putWords x.lut key (List.replicate 16 0#32) }
    else { x with acc := putWords x.acc key (List.replicate 16 0#32) })

/-- R209: LMAC. -/
def State.lmac (s : State) (k : Nat) (b : BankCmd) : State :=
  let d := s.dramRead (dkey k (rowSpa b.pch b.bg b.bank b.row + 64 * b.col)) 64
  let tab := s.dramRead (dkey k (rowSpa b.pch b.bg b.tbank b.row)) 2048
  s.modStack k (fun x =>
    let key := lutKey b.pch b.bg
    { (x.holdRow b.pch b.bg b.bank b.row).holdRow b.pch b.bg b.tbank b.row with
      lut := putWords x.lut key (lmacWords b.clr d tab (wordsAt x.lut key)) })

/-- R460, R461: what a MAC or LMAC reads is poisoned. -/
def State.cmdPoison (s : State) (k : Nat) (b : BankCmd) : Bool :=
  let hit := fun bank col n => s.dramPoisoned (dkey k (rowSpa b.pch b.bg bank b.row + col)) n
  (b.opc == 1 && hit b.bank (64 * b.col) 64) || (b.opc == 4 && (hit b.bank (64 * b.col) 64 || hit b.tbank 0 2048))

/-! ## Sequencers (R211) -/

/-- R206, R211: earlier stores and fences of the threads of a command. -/
def State.cmdHeld (s : State) (b : BankCmd) : Bool :=
  b.dests.any (fun d =>
    (s.brd b.wg ((s.wgrp b.wg).braidOf d.2.1)).storeQ.any (fun e => e.t == d.2.1 && decide (e.seq < b.seq)) ||
    (s.thr b.wg d.2.1).mops.any (fun m => decide (m.seq < b.seq) && (match m.kind with | .fence _ => true | _ => false)))

/-- R211, R212: an all-bank command that reached the stack before a stamp has not passed the pseudo-channel. -/
def Stack.waveBefore (x : Stack) (pch seq : Nat) : Bool :=
  (List.range x.allQ.length).any (fun i => match x.allQ[i]? with
    | some a => decide (a.arr < seq) && !(i == 0 && decide (16 * pch < x.allWave))
    | none => false)

/-- One command of a pseudo-channel. -/
def State.runCmd (s : State) (k : Nat) (b : BankCmd) : State :=
  if s.cmdPoison k b then s.failCmd b 0x60 (b.va % 2 ^ 57)
  else if b.opc = 1 then s.macBank k b b.pch b.bg b.bank
  else if b.opc = 2 then s.bcastPch k b b.pch
  else if b.opc = 3 then s.rdac k b
  else s.lmac k b

/-- R437, R438: a held command is tried again: one that was logged from its VA, where it takes cause 0x4A if it meets its page absent again, or no
range. -/
def State.replayCmd (s : State) (k : Nat) (b : BankCmd) : State :=
  let s1 := s.modStack k (fun x =>
    let l := (Tbl.getD x.seqQ heldKey []).filter (fun c => c.seq != b.seq)
    { x with seqQ := if l.isEmpty then Tbl.del x.seqQ heldKey else Tbl.put x.seqQ heldKey l })
  if b.lseq = 0 then s1.issueCmd k b.op b
  else match s1.vaIa b.wg b.t b.va 1 .read with
  | .error _ => s1.failCmd b 0x4A (b.va % 2 ^ 57)
  | .ok (ia, _) =>
    match s1.spaOf ia false with
    | .ok (s2, spa) => s2.reachSeq k b.op spa { b with ia := ia }
    | .error (.region c i) => s1.failCmd b c i
    | .error _ => s1.failCmd b 0x4A (b.va % 2 ^ 57)

/-- R436: an entry of a log that a stack translator's replay takes. -/
inductive StackLogged where
  | path (x : Logged)
  | cmd (b : BankCmd)
  deriving DecidableEq, Repr

def StackLogged.place : StackLogged → Nat
  | .path x => x.place
  -- a command without an entry comes after all that have one
  | .cmd b => if b.lseq = 0 then 2 ^ 64 + b.seq else b.lseq

def State.replayEntry (s : State) (k : Nat) : StackLogged → State
  | .path x => s.replayOne x
  | .cmd b => s.replayCmd k b

/-- R437: replay what the translator of a stack refused, bank commands among it, in log order. -/
def State.replayStack (s : State) (k : Nat) : State :=
  let l := sortBy StackLogged.place ((s.logOf k).map .path ++ (Tbl.getD (s.stack k).seqQ heldKey []).map .cmd)
  (l.foldl (fun s x => s.replayEntry k x) s).replayRest k

/-- BANK_COMMAND_EXECUTE (R209 to R211): a pseudo-channel's sequencer performs its first command. -/
def execBankCommandExecute (stack pch : Nat) (s : State) : Res :=
  .next (match (Tbl.getD (s.stack stack).seqQ pch []) with
    | [] => s
    | b :: r =>
      if pch = heldKey || s.cmdHeld b || (s.stack stack).waveBefore pch b.arr || s.tripped then s
      else
        let s1 := s.modStack stack (fun x => { x with seqQ := if r.isEmpty then Tbl.del x.seqQ pch else Tbl.put x.seqQ pch r })
        s1.runCmd stack b)

/-- R209, R212: one wave of an all-bank command: the banks from `lo` on. -/
def State.waveBanksRun (s : State) (k lo n : Nat) (b : BankCmd) : State :=
  if b.opc = 1 then
    (rangeFrom lo n).foldl (fun s i => s.macBank k b (i / 16) (i % 4) (i / 4 % 4)) s
  else (rangeFrom (lo / 16) (n / 16)).foldl (fun s p => s.bcastPch k b p) s

/-- R460: a wave reads a poisoned block. -/
def State.wavePoison (s : State) (k lo n : Nat) (b : BankCmd) : Bool :=
  b.opc == 1 && (rangeFrom lo n).any (fun i =>
    s.dramPoisoned (dkey k (rowSpa (i / 16) (i % 4) (i / 4 % 4) b.row + 64 * b.col)) 64)

/-- ALLBANK_WAVE (R24, R26, R212): with its leave granted, the next wave of the stack's first all-bank command runs, behind the
earlier commands of its pseudo-channels; the next wave then asks leave. -/
def execAllbankWave (stack : Nat) (s : State) : Res :=
  let st := s.stack stack
  .next (match st.allQ with
    | [] => s
    | b :: r =>
      let lo := st.allWave
      let n := st.waveSize
      if !st.leaveGiven || s.tripped || s.cmdHeld b ||
          (rangeFrom (lo / 16) (n / 16)).any (fun p => (Tbl.getD st.seqQ p []).any (fun c => decide (c.arr < b.arr))) then s
      else
        let s1 := if s.wavePoison stack lo n b then s.failCmd b 0x60 (b.va % 2 ^ 57) else s.waveBanksRun stack lo n b
        let done := decide (3072 ≤ lo + n)
        (s1.modStack stack (fun x => { x with
          leaveAsked := false, leaveGiven := false, waveSize := 0, allWave := if done then 0 else lo + n,
          allQ := if done then r else x.allQ })).askWave stack)

/-! ## Microcode kernels (R213) -/

/-- R213: the kernel that an argument block (eight doubles) describes: SRC at bit 128, DST at 192, LEN at 256, CNTIA at 384, CINC
at 448. -/
def kernelOf (d : List Nat) : Kernel :=
  let x := fun i => d.getD i 0
  ⟨nbits (x 0) 7 0, nbits (x 2) 35 0, nbits (x 3) 35 0, nbits (x 4) 47 0, 0, nbits (x 6) 51 0, x 7⟩

/-- R213: the kernel may run. -/
def Kernel.ok (k : Kernel) (d : List Nat) : Bool :=
  let z := fun i hi lo => nbits (d.getD i 0) hi lo == 0
  z 0 63 8 && z 1 63 0 && z 2 63 36 && z 3 63 36 && z 4 63 48 && z 5 63 0 && z 6 63 52 &&
  k.len % 2048 == 0 && k.dst % 2048 == 0 && decide (k.dst + k.len ≤ Config.spaLimit) &&
  (k.kern != 2 || (k.src % 2048 == 0 && decide (k.src + k.len ≤ Config.spaLimit)))

/-- R213: a kick of the kind `kern`: the argument block is read, and a kernel that may run joins the stack's kernels. DESIGN CHOICE (log entry 60): a
kick whose block cannot be read (an absent page, poison, an error of the host or a peer) starts nothing. -/
def State.startKernel (s : State) (k kern ia : Nat) : State :=
  match s.doubles ia 8 with
  | .error _ => s
  | .ok (s1, d) =>
    let x := kernelOf d
    if x.kern = kern ∧ x.ok d = true then s1.modStack k (fun t => { t with kernels := t.kernels ++ [x] }) else s1

/-- NMKICK_SCRUB (R213). -/
def execNmkickScrub (_who : Who) (stack ia : Nat) (s : State) : Res := .next (s.startKernel stack 1 ia)
/-- NMKICK_MIGRATION_COPY (R213). -/
def execNmkickMigrationCopy (_who : Who) (stack ia : Nat) (s : State) : Res := .next (s.startKernel stack 2 ia)
/-- NMKICK_ZERO (R213). -/
def execNmkickZero (_who : Who) (stack ia : Nat) (s : State) : Res := .next (s.startKernel stack 3 ia)

/-- R213, R460: one row step of a kernel; a scrub changes no byte that reads without an error. -/
def State.kernelRow (s : State) (k : Nat) (x : Kernel) : State :=
  let dst := dkey k (x.dst + x.done)
  let src := dkey k (x.src + x.done)
  if x.kern = 3 then s.dramWrite dst (List.replicate 2048 0#8)
  else if x.kern = 2 then
    let bad := (List.range 32).filter (fun i => s.dramPoisoned (src + 64 * i) 64)
    let s1 := s.dramWrite dst (s.dramRead src 2048)
    { s1 with dramPoison := s1.dramPoison ++ bad.map (fun i => dst / 64 + i) }
  else s

/-- R131: the row that a kernel step holds. -/
def Stack.holdSpa (x : Stack) (a : Nat) : Stack := x.holdRow (spaPch a) (spaBg a) (spaBank a) (spaRow a)

/-- MICROCODE_ROW_STEP (R131, R213): the first kernel of a stack does its next row. -/
def execMicrocodeRowStep (stack : Nat) (s : State) : Res :=
  .next (match (s.stack stack).kernels with
    | [] => s
    | x :: r =>
      if x.len ≤ x.done || s.tripped then s
      else
        let s1 := s.modStack stack (fun t =>
          let u := t.holdSpa (x.dst + x.done)
          if x.kern = 2 then u.holdSpa (x.src + x.done) else u)
        (s1.kernelRow stack x).modStack stack (fun t => { t with kernels := { x with done := x.done + 2048 } :: r }))

/-- MICROCODE_KERNEL_END (R213, R482): the counter is incremented, as a release at .dev, and the next kernel may run. -/
def execMicrocodeKernelEnd (stack : Nat) (s : State) : Res :=
  .next (match (s.stack stack).kernels with
    | [] => s
    | x :: r =>
      if x.done < x.len then s
      else
        let s1 := s.modStack stack (fun t => { t with kernels := r })
        if x.cnt = 0 then s1 else s1.addAtIa (dieOfStack stack) x.cnt x.cinc 8 0 x.cnt 0)

/-! ## Reductions (R166, R214) -/

/-- REDUCTION_ADD (R166, R214): the stack's receiver adds the next reduction write that has reached it. -/
def execReductionAdd (stack : Nat) (s : State) : Res :=
  let ready := s.cores.flatMap (fun c => (c.2.wstores.filter (fun w =>
    isAlias w.ia && iaStack w.ia == stack && s.mayHome c.1 w)).map (fun w => (c.1, w)))
  .next (match minBy (fun (x : Nat × WStore) => x.2.seq) ready with
    | some x => s.performHome x.1 x.2
    | none => s)

end Sys2Proof.Machine
end

