-- ==== Sys2Proof/Machine/Command.lean ====
section
/-! DEFINITION. Command registers: range commits, invalidates, the scheduler reload, kills and port enables (spec 05, 12, 16; R63,
R124, R129, R135, R198, R364, R365, R374, R427, R437 to R441, R457). -/

namespace Sys2Proof.Machine

/-! ## Range registers (R365, R439, R441) -/

/-- R365: the staged value. -/
def Window.staged (w : Window) : Nat := w.rrlo.toNat + w.rrmid.toNat * 2 ^ 64 + w.rrhi.toNat * 2 ^ 128

/-- The selected range register. -/
def Window.key (w : Window) : Nat := nbits w.rrsel.toNat 27 16 * 16 + nbits w.rrsel.toNat 3 0

/-- R122, R441: a staged value that a commit accepts. -/
def rangeOk (x : Nat) : Bool :=
  nbits x 191 180 == 0 && nbits x 143 105 == 0 && nbits x 63 57 == 0 && nbits x 15 6 == 0 &&
  (!nbit x 0 || (nbits x 5 4 != 3 && decide (nbits x 56 16 ≤ nbits x 104 64) &&
    decide (nbits x 179 144 + nbits x 104 64 - nbits x 56 16 < 2 ^ 36)))

/-- A bank command of the ASID that was translated before a stamp is still to be performed. -/
def State.bankBefore (s : State) (k upto : Nat) (asid : Option Nat) : Bool :=
  let hit := fun (b : BankCmd) => decide (b.seq < upto) && (match asid with
    | some a => (s.wgrp b.wg).asid == a
    | none => true)
  (s.stack k).seqQ.any (fun q => q.1 != heldKey && q.2.any hit) || (s.stack k).allQ.any hit

/-- R439: an access translated before the commit in its ASID is not yet performed, and not logged; a write-back on its way, whose ASID its line
does not keep, counts as one. -/
def State.commitWaits (s : State) (w : Window) : Bool :=
  s.threads.any (fun p => p.2.mops.any (fun m => m.asid == w.asid && decide (m.seq < w.upto) && m.logged.isNone &&
    (match m.kind with
      | .load .. => true
      | .atom .. => true
      | .cntadd _ => true
      | .waitRead _ => true
      | .flush _ => true
      | _ => false))) ||
  s.braids.any (fun p => p.2.storeQ.any (fun e => e.asid == w.asid && decide (e.seq < w.upto) && e.logged.isNone && !e.scratch)) ||
  s.cores.any (fun p => p.2.wstores.any (fun e => decide (e.born ≤ w.since) && e.logged.isNone &&
    (e.wg == 0 || e.asid == w.asid))) ||
  (List.range 8).any (fun k => s.bankBefore k w.upto (some w.asid))

/-- R439: a commit with nothing left to wait for is complete: RRCOMMIT reads 0. -/
def State.settleWindow (s : State) (who : Who) : State :=
  let w := s.window who
  if w.busy && !s.commitWaits w then s.modWindow who (fun x => { x with busy := false }) else s

/-- RRCOMMIT_COMMIT (R124, R365, R439, R441). -/
def execRrcommitCommit (who : Who) (s : State) : Res :=
  let w := s.window who
  .next (if !rangeOk w.staged then s.modWindow who (fun x => { x with rrsel := x.rrsel ||| 0x80000000#32, busy := false })
    else
      let s1 := { s with ranges := Tbl.set s.ranges 0#192 w.key (BitVec.ofNat 192 w.staged) }
      (s1.modWindow who (fun x => { x with
        rrsel := x.rrsel &&& 0x7FFFFFFF#32, busy := true, asid := w.key / 16, upto := s.seq, since := s.clk })).settleWindow who)

/-- RRCOMMIT_FETCH (R365). -/
def execRrcommitFetch (who : Who) (s : State) : Res :=
  let v := (Tbl.getD s.ranges (s.window who).key 0#192).toNat
  .next (s.modWindow who (fun x => { x with
    rrlo := BitVec.ofNat 64 v, rrmid := BitVec.ofNat 64 (v / 2 ^ 64), rrhi := BitVec.ofNat 64 (v / 2 ^ 128) }))

/-! ## Invalidates (R129, R135, R198, R437, R440) -/

/-- R437, R440: an STINV whose earlier bank commands are performed is complete, and what the translator refused is replayed. -/
def State.settleInv (s : State) (k : Nat) : State :=
  match (s.stack k).inv with
  | none => s
  | some q =>
    if s.bankBefore k q none then s
    else (s.modStack k (fun x => { x with inv := none })).replayStack k

/-- STINV (R129, R437, R440): the stack translator holds no entry; accesses it refused are replayed. -/
def execStinv (_who : Who) (k : Nat) (s : State) : Res :=
  .next ((s.modStack k (fun x => { x with tlb := [], inv := some s.seq })).settleInv k)

/-- HAINV (R129, R437): the host aperture translator. -/
def execHainv (s : State) : Res := .next (State.replayAll { s with hatlb := [] } 8)

/-- PIINV (R129, R440): the peer import translator. -/
def execPiinv (s : State) : Res := .next (State.replayAll { s with pitlb := [] } 9)

/-- CMINV (R129, R437): the CXL.mem window translator. -/
def execCminv (s : State) : Res := .next (State.replayAll { s with cmtlb := [] } 10)

/-- ICINV (R135, R364): the L1 instruction caches of the writing partition's cores; from the host, of all cores. -/
def execIcinv (who : Who) (s : State) : Res :=
  let mine := fun (c : Nat) => match who with
    | .host => true
    | .part p => (s.part p).cores.contains c
  .next { s with cores := Tbl.each s.cores (fun c x => if mine c then { x with l1i := [] } else x) }

/-- NMCINV (R198): the instruction caches of a stack's rhizoid cores. -/
def execNmcinv (_who : Who) (k : Nat) (s : State) : Res :=
  .next { s with cores := Tbl.each s.cores (fun c x =>
    if isRhizoid c && stackOf c == k then { x with l1i := [] } else x) }

/-! ## RELOAD (R63, R410) -/

/-- RELOAD (R63, R87, R410): effective values are read again, halted domains go on, and launches that wait for room try again. -/
def execReload (_who : Who) (part : Nat) (s : State) : Res :=
  let s1 := if s.saveArea part = 0 then s else s.putBytes 0 (s.saveArea part + 512) (List.replicate 32 0#8)
  let s2 := s1.modPart part (fun p => { p with starved := [] })
  .next (s2.loadTree part)

/-! ## KILL (R427) -/

/-- R427 step 1: the launches of an ASID queued in a leaf are skipped with KILLED set. Fuel bounds the ring. -/
def State.killQueue (s : State) (part asid : Nat) (r : Rcb) (h : LeafHdr) : Nat → State
  | 0 => s
  | k + 1 =>
    let pos := (h.head + k) % 2 ^ 32
    let s1 := (State.killQueue s part asid r h k).touch (h.slot pos)
    let l := { launchOf 0 part r.ia (h.slot pos) r.queue pos r.fdom (s1.peek (h.slot pos) 8) with killed := true }
    if l.asid != asid then s1
    else
      let s2 := s1.modPart part (fun p => { p with skips := (p.skips.filter (· != (r.queue, pos))) ++ [(r.queue, pos)] })
      -- a launch with workgroups dispatched has its own entry
      if s2.launches.any (fun x => x.2.queue == r.queue && x.2.pos == pos) then s2
      else s2.putStatus l false false none

/-- R427 step 1, for the leaves of the partition's tree. -/
def State.killQueues (s : State) (part asid : Nat) : State :=
  (s.treeOf part).foldl (fun s r =>
    if !r.leaf then s
    else
      let h := s.leafHdr r.queue
      if h.bad then s.touch r.queue else (s.touch r.queue).killQueue part asid r h (min h.count h.slots)) s

/-- R427: the launches of the ASID that have workgroups: KILLED, and no completion. -/
def State.killLaunches (s : State) (part asid : Nat) : State :=
  (Tbl.vals s.launches).foldl (fun s l =>
    if l.part != part || l.asid != asid then s
    else
      let l1 := { l with killed := true }
      State.putStatus { s with launches := Tbl.del s.launches l.id } l1 false false none) s

/-- R427 step 4: the stores that a killed workgroup's core has sent: those that a translator refused are discarded, the others
go on to their homes. -/
def State.orphanStores (s : State) (part : Nat) (g : Workgroup) : State :=
  let q := ((Tbl.vals s.braids).filter (fun b => b.wg == g.id)).flatMap Braid.storeQ
  let s0 := q.foldl (fun s e =>
    let (s', n) := s.draw
    if Config.killedStore n && !e.scratch && e.logged.isNone then s'.toHome g.core { e.leaving g.id with wg := 0, own := (g.part, g.dom) } else s') s
  let s1 := s0.writeBackAll g.core
  let s2 := s1.modCore g.core (fun c => { c with
    wstores := (c.wstores.filter (fun w => w.wg != g.id || w.logged.isNone)).map (fun w => if w.wg = g.id then { w with wg := 0, own := (g.part, g.dom) } else w) })
  s2.modPart part (fun p => { p with killStores := p.killStores ++ (s2.core g.core).wstores.map WStore.seq })

/-- R427: the bank commands of a killed block are discarded. -/
def State.dropCmds (s : State) (k wg : Nat) : State :=
  let head := (s.stack k).allQ.head?.any (fun b => b.wg == wg)
  let s1 := s.modStack k (fun x => { x with
    seqQ := (Tbl.each x.seqQ (fun _ l => l.filter (fun b => b.wg != wg))).filter (fun q => !q.2.isEmpty),
    allQ := x.allQ.filter (fun b => b.wg != wg) })
  if !head then s1
  else
    let s2 := s1.modPower (dieOfStack k) (fun p => { p with fifo := p.fifo.filter (fun e => e.kind != 3 || e.id != k) })
    (s2.modStack k (fun x => { x with leaveAsked := false, leaveGiven := false, allWave := 0 })).askWave k

/-- R427 step 2: a workgroup or block that stands at a packet boundary is removed. -/
def State.killWg (s : State) (part : Nat) (g : Workgroup) : State :=
  match g.stack with
  | some k => (s.dropCmds k g.id).freeBlock g k
  | none =>
    let s1 := s.orphanStores part g
    let s2 := { s1 with
      threads := s1.threads.filter (fun p => p.2.wg != g.id), braids := s1.braids.filter (fun p => p.2.wg != g.id) }
    let s3 := s2.modPart part (fun p => { p with
      shadow := { p.shadow with scratch := p.shadow.scratch.filter (fun e => e.1 != g.id) } })
    (s3.modWg g.id (fun x => { x with retired := true, swapped := false })).freeGang g.gangIds

/-- R427 step 3: the requests of the ASID are discarded. -/
def State.killReqs (s : State) (part asid : Nat) : State :=
  let ids := ((Tbl.vals s.reqs).filter (fun r => r.part == part && r.asid == asid)).map EReq.id
  let s1 := ids.foldl State.dropReq s
  { s1 with
    parts := Tbl.each s1.parts (fun _ p => { p with shadow := { p.shadow with smx := p.shadow.smx.filter (fun x => !ids.contains x.req) } }),
    dies := Tbl.each s1.dies (fun _ d => { d with walkCopy := d.walkCopy.filter (fun e => !ids.contains e.2.2.2) }) }

/-- The workgroups and blocks of an ASID of a partition that are not yet removed. -/
def State.wgsOf (s : State) (part asid : Nat) : List Workgroup :=
  (Tbl.vals s.wgs).filter (fun g => g.part == part && g.asid == asid && !g.retired)

/-- A store of killed work is still on its way. One whose page is not resident is discarded. -/
def State.orphans (s : State) (part : Nat) : State :=
  let ids := (s.part part).killStores
  if ids.isEmpty then s
  else
    let s1 := { s with cores := Tbl.each s.cores (fun _ c => { c with
      wstores := c.wstores.filter (fun w => !(ids.contains w.seq && w.wg == 0 && (s.refusedBy w.ia true).isSome)) }) }
    s1.modPart part (fun p => { p with killStores := ids.filter (fun q => s1.cores.any (fun c => c.2.wstores.any (fun w => w.seq == q))) })

/-- R427: what can be done now for the kills of a partition; a kill with nothing left is complete. -/
def State.killStep (s : State) (part : Nat) : State :=
  if (s.part part).killing.isEmpty then s
  else
    let s1 := (s.part part).killing.foldl (fun s a =>
      let s' := s.killReqs part a
      ((s'.wgsOf part a).filter (fun g => !s'.inTurn g.id)).foldl (fun s g => s.killWg part g) s') s
    let s2 := s1.orphans part
    s2.modPart part (fun p => { p with
      killing := p.killing.filter (fun a => !(s2.wgsOf part a).isEmpty || !p.killStores.isEmpty) })

/-- KILL (R427). -/
def execKill (_who : Who) (part asid : Nat) (s : State) : Res :=
  let s1 := s.modPart part (fun p => { p with killing := (p.killing.filter (· != asid)) ++ [asid] })
  .next (((s1.killQueues part asid).killLaunches part asid).killStep part)

/-! ## Ports (R374, R457) -/

/-- PORTMAP_ENABLE (R374, R457): EN of a port; its lanes train where it is enabled, by UALINK_PORT_UP. -/
def execPortmapEnable (_who : Who) (port : Nat) (val : Dword) (s : State) : Res :=
  let en := val.getLsbD 0
  .next { s with
    ports := modAt s.ports port (fun p => if en then { p with en := true } else { p with en := false, up := false }),
    lost := if en then [] else s.lost }

end Sys2Proof.Machine
end

