-- ==== Sys2Proof/Machine/Control.lean ====
section
/-! DEFINITION. Control transfer, hitch registers, the barrier and the waits (R246 to R264; R421, R423, R428, R481). -/

namespace Sys2Proof.Machine

/-- R230, R428: the packet at a signed offset from the current one, where it is a legal target. -/
def jumpTo (pc : Nat) (off : Int) : Option Nat :=
  let x : Int := (pc : Int) + off
  if 0 ≤ x ∧ x < (2 : Int) ^ 53 then some x.toNat else none

/-- Set a member's next PC (R246). -/
def State.goTo (s : State) (c : Cur) (m : Member) (pc : Nat) : State := s.upd c m (fun x => { x with target := some pc })

/-- R251. -/
def execNop (_h : Hdr) (s : State) : Res := .next s

/-- R252: BR. -/
def execBr (h : Hdr) (o : OpBr) (s : State) : Res :=
  .next (perLane wK h (Instr.br h o).opns (fun s c m =>
    match jumpTo (s.pktPc c.core c.pkt) o.off.toInt with
    | some pc => .ok (s.goTo c m pc)
    | none => .error (0x1D, 0)) s)

/-- The link of a call (R230): packet pc + 1 in a pair of registers, with latency 2. -/
def State.putLink (s : State) (c : Cur) (m : Member) (d pc : Nat) : State :=
  (s.putReg c m d (BitVec.ofNat 32 (pc + 1)) 2 0).putReg c m (d + 1) (BitVec.ofNat 32 ((pc + 1) / 2 ^ 32)) 2 0

/-- R252: CALL. -/
def execCall (h : Hdr) (o : OpBr) (s : State) : Res :=
  .next (perLane wK h (Instr.call h o).opns (fun s c m =>
    match jumpTo (s.pktPc c.core c.pkt) o.off.toInt with
    | some pc => .ok ((s.goTo c m pc).putLink c m 6 (s.pktPc c.core c.pkt))
    | none => .error (0x1D, 0)) s)

/-- R231: the pairs of a BRM. -/
def brmPairs (o : OpBrm) : List (BitVec 5 × BitVec 16) :=
  [(o.p0, o.o0), (o.p1, o.o1), (o.p2, o.o2), (o.p3, o.o3)].take (o.cnt.toNat + 1)

/-- R253: BRM, by the predicates as they stood when the packet began. -/
def execBrm (h : Hdr) (o : OpBrm) (s : State) : Res :=
  .next (perLane wK h (Instr.brm h o).opns (fun s c m =>
    match (brmPairs o).find? (fun p => p.1 == 0#5 || m.p0.getLsbD p.1.toNat) with
    | none => .ok s
    | some p => match jumpTo (s.pktPc c.core c.pkt) p.2.toInt with
      | some pc => .ok (s.goTo c m pc)
      | none => .error (0x1D, 0)) s)

/-- R254, R428: the target in a register pair. -/
def State.target (s : State) (m : Member) (a : Nat) : Lane Nat :=
  match s.firstBad m a 2 with
  | some r => .error (0x62, r)
  | none => if 2 ^ 53 ≤ m.reg64 a then .error (0x1D, 0) else .ok (m.reg64 a)

/-- R254: JMPR. -/
def execJmpr (h : Hdr) (o : OpA) (s : State) : Res :=
  .next (perLane wK h (Instr.jmpr h o).opns (fun s c m =>
    match s.target m o.a.toNat with
    | .ok pc => .ok (s.goTo c m pc)
    | .error e => .error e) s)

/-- R254: CALLR. -/
def execCallr (h : Hdr) (o : OpDA) (s : State) : Res :=
  .next (perLane wK h (Instr.callr h o).opns (fun s c m =>
    match s.target m o.a.toNat with
    | .ok pc => .ok ((s.goTo c m pc).putLink c m o.d.toNat (s.pktPc c.core c.pkt))
    | .error e => .error e) s)

/-- R255: EXIT, at the end of its packet. -/
def execExit (h : Hdr) (s : State) : Res :=
  .next (perLane wK h (Instr.exit h).opns (fun s c m => .ok (s.upd c m (fun x => { x with exit := true }))) s)

/-- R256: LIT32. -/
def execLit32 (h : Hdr) (o : OpLit) (s : State) : Res :=
  .next (perLane wK h (Instr.lit32 h o).opns (fun s c m => .ok (s.putReg c m o.d.toNat o.k 2 0)) s)

/-- R257, R398: TRAP raises a program trap, taken at the end of the packet. -/
def execTrap (h : Hdr) (o : OpTrap) (s : State) : Res :=
  .next (perLane wK h (Instr.trap h o).opns (fun _ _ _ => .error (0x01, 0)) s)

/-- R258: YIELD. -/
def execYieldTurn (h : Hdr) (s : State) : Res :=
  .next (perLane wK h (Instr.yieldTurn h).opns (fun s c m => .ok (s.upd c m (fun x => { x with yielded := true }))) s)

/-- R259, R421: what HSET of hN by a thread writes: the mask or the count; none where it is illegal. -/
def State.hsetValue (s : State) (m : Member) (n a : Nat) : Option (BitVec 64 × Nat) :=
  if n < 12 then
    let g := s.wgrp m.wg
    let mask := BitVec.ofNat 64 (m.reg64 a) &&& g.braidLanes (g.braidOf m.t)
    if mask = 0#64 then none else some (mask, 0)
  else
    let k := (m.reg a).toNat
    if k = 0 ∨ 2048 < k then none else some (0#64, k)

/-- R259: how many registers HSET of hN reads. -/
def hsetRegs (n : Nat) : Nat := if n < 12 then 2 else 1

/-- R49, R203: what one HSET word writes once: a braid's register, or a workgroup's (of a block, that of one of its cores). -/
def State.hsetKey (s : State) (m : Member) (n : Nat) : Nat × Nat × Nat :=
  if n < 12 then (m.wg, 0, m.braid s) else (m.wg, 1, (s.wgrp m.wg).hitchIx m.t n)

/-- R49, R259, R398, R421: HSET by the threads of a packet. A thread with an uncorrectable register takes 0x62 and executes nothing.
Nothing is written where another holds an illegal value; else, for each register that the word names, the lowest home lane decides. -/
def execHset (h : Hdr) (o : OpHset) (s : State) : Res :=
  .next (perGroup wK h (Instr.hset h o).opns (fun s c live =>
    let n := o.hitch.toNat
    let a := o.a.toNat
    let good := live.filter (fun x => (s.firstBad x.2 a (hsetRegs n)).isNone)
    let bad := good.filter (fun x => (s.hsetValue x.2 n a).isNone)
    let s1 := live.foldl (fun s x => match s.firstBad x.2 a (hsetRegs n) with
      | some r => s.faultMember c x.1 0x62 r
      | none => s) s
    if !bad.isEmpty then bad.foldl (fun s x => s.faultMember c x.1 0x17 0) s1
    else (good.foldl (fun (acc : State × List (Nat × Nat × Nat)) x =>
      let m := x.2
      let key := s.hsetKey m n
      if acc.2.contains key then acc
      else match s.hsetValue m n a with
        | some (mask, k) => (acc.1.hset m.wg m.t n mask k, acc.2 ++ [key])
        | none => acc) (s1, [])).1) s)

/-- R260, R421: REJOIN signs in its cycle and waits. -/
def execRejoin (h : Hdr) (o : OpHitch) (s : State) : Res :=
  .next (perLane wK h (Instr.rejoin h o).opns (fun s c m =>
    match s.rejoin m.wg m.t o.hitch.toNat (s.pktPc c.core c.pkt) c.word with
    | .error e => .error (e, 0)
    | .ok s1 => .ok (s1.upd c m (fun x => { x with wait := some (.hitch o.hitch.toNat), waitPos := c.pos }))) s)

/-- R261: BAR arrives in its cycle and waits. -/
def execBar (h : Hdr) (s : State) : Res :=
  .next (perLane wK h (Instr.bar h).opns (fun s c m =>
    .ok ((s.barArrive m.wg m.t (s.pktPc c.core c.pkt) c.word).upd c m (fun x => { x with wait := some .bar, waitPos := c.pos }))) s)

/-- R262: SLEEP until CLK reaches t + v[A]. -/
def execSleep (h : Hdr) (o : OpA) (s : State) : Res :=
  .next (perLane wK h (Instr.sleep h o).opns (fun s c m =>
    match s.firstBad m o.a.toNat 1 with
    | some r => .error (0x62, r)
    | none => .ok (s.upd c m (fun x => { x with wait := some (.sleep (s.clk + (m.reg o.a.toNat).toNat)), waitPos := c.pos }))) s)

/-- R432: the checks of a counter's address in a pair. -/
def State.counterIa (s : State) (m : Member) (va : Nat) : Except (Nat × Nat) Unit :=
  if 2 ^ 57 ≤ va then .error (0x44, va % 2 ^ 57)
  else match s.vaIa m.wg m.t va 8 .read with
    | .error e => .error (e, va)
    | .ok _ => .ok ()

/-- R263: WAITGE. -/
def execWaitge (h : Hdr) (o : OpWait) (s : State) : Res :=
  .next (perLane wK h (Instr.waitge h o).opns (fun s c m =>
    match s.firstBad m o.a.toNat 4 with
    | some r => .error (0x62, r)
    | none =>
      let va := m.reg64 o.a.toNat
      match s.counterIa m va with
      | .error e => .error e
      | .ok _ => .ok (s.upd c m (fun x => { x with
          wait := some (.waitge va (m.reg64 (o.a.toNat + 2)) o.scope.toNat none), waitPos := c.pos }))) s)

/-- R264: WAITP. -/
def execWaitp (h : Hdr) (o : OpWaitP) (s : State) : Res :=
  .next (perLane wKMain h (Instr.waitp h o).opns (fun s c m =>
    match (s.firstBad m o.a.toNat 4).or (s.firstBad m o.d.toNat 2) with
    | some r => .error (0x62, r)
    | none =>
      let va := m.reg64 o.a.toNat
      match s.counterIa m va with
      | .error e => .error e
      | .ok _ => .ok (s.upd c m (fun x => { x with
          wait := some (.waitp (m.reg64 o.d.toNat) va (m.reg64 (o.a.toNat + 2)) o.scope.toNat), waitPos := c.pos }))) s)

/-! ## The events of the waits -/

/-- SLEEP_WAKE (R262, R401): CLK has reached wake times. -/
def execSleepWake (s : State) : Res :=
  .next (s.threads.foldl (fun s p =>
    match p.2.wait, p.2.held with
    | .sleep k, _ => if k ≤ s.clk then s.modThr p.2.wg p.2.t (fun x => { x with wait := .ready, pc := x.resume }) else s
    | _, some hd => match hd.wait with
      | .sleep k => if k ≤ s.clk then s.modThr p.2.wg p.2.t (fun x => { x with held := some { hd with met := true } }) else s
      | _ => s
    | _, none => s) s)

/-- R481: the read of a counter by a waiting thread: translated now; its failure is an asynchronous trap with its own
cause. -/
def State.waitRead (s : State) (wg t va : Nat) (once : Bool) : State :=
  let x := s.thr wg t
  let (pc, raw) := x.waitWord
  let pos := x.waitAt.1
  if x.mops.any (fun m => match m.kind with | .waitRead _ => true | _ => false) then s
  else
    let asid := s.waitAsid wg t
    match s.vaIaOf wg asid va 8 .read with
    | .error e => s.raiseAsync wg t ⟨e, va, pc, raw, pos, s.clk⟩
    | .ok (ia, pol) =>
      s.addMop wg t { MOp.mk0 (.waitRead once) va ia pol asid pc raw pos with word := s.seq, core := s.coreOfThread wg t }

/-- WAITGE_REREAD (R263, R401): a waiting thread, in the handler or not, reads its counter. -/
def execWaitgeReread (wg t : Nat) (s : State) : Res :=
  .next (let x := s.thr wg t
    match x.wait, x.held with
    | .waitge va _ _ _, _ => s.waitRead wg t va false
    | _, some hd => match hd.wait, hd.met with
      | .waitge va _ _ _, false => s.waitRead wg t va false
      | _, _ => s
    | _, none => s)

/-- WAITP_READ (R264, R401, R451): CLK has reached the promise: the single read. -/
def execWaitpRead (wg t : Nat) (s : State) : Res :=
  .next (match (s.thr wg t).wait with
    | .waitp pr va _ _ => if pr ≤ s.clk then s.waitRead wg t va true else s
    | _ => s)

/-! ## HITCH_DEADLOCK (R423) -/

/-- A round that a thread can wait on: a hitch register named by a thread that shares it, or the barrier. -/
inductive Round where
  | hitch (t n : Nat)
  | bar
  deriving DecidableEq, Repr

/-- The round that a waiting thread waits on. -/
def State.roundOf (s : State) (x : Thread) : Option Round :=
  match x.wait with
  | .hitch n => some (.hitch (((s.sharers x.wg x.t n).map Thread.t).foldl min x.t) n)
  | .bar => some .bar
  | _ => none

/-- R423: the threads that have not signed a round and could; and whether a member cannot sign. -/
def State.unsigned (s : State) (wg : Nat) : Round → List Thread × Bool
  | .bar => ((s.barLive wg).filter (fun u => !(s.wgrp wg).bar.contains u.t), false)
  | .hitch t n =>
    let h := s.hitch wg t n
    let us := (s.sharers wg t n).filter (fun u => !u.exited && !u.off)
    if n < 12 then
      let miss := h.members &&& ~~~h.arrived
      (us.filter (fun u => miss.getLsbD u.lane),
        (List.range 64).any (fun i => miss.getLsbD i && !us.any (fun u => u.lane == i)))
    else
      let un := us.filter (fun u => !u.sig.getLsbD n)
      (un, decide (h.count + un.length < h.expected))

/-- R423: keep the rounds that are blocked, given those that may be. Fuel is the number of rounds. -/
def State.blockedIn (s : State) (wg : Nat) : Nat → List Round → List Round
  | 0, rs => rs
  | k + 1, rs =>
    State.blockedIn s wg k (rs.filter (fun r =>
      let (us, never) := s.unsigned wg r
      never || us.all (fun u => match s.roundOf u with
        | some q => rs.contains q
        | none => false)))

/-- R423: the INFO of a blocked round. -/
def State.roundInfo (s : State) (wg : Nat) : Round → Nat
  | .bar => (s.barLive wg).length + (s.wgrp wg).bar.length * 2 ^ 16
  | .hitch t n => let h := s.hitch wg t n; if n < 12 then h.members.toNat else h.expected + h.count * 2 ^ 16

/-- HITCH_DEADLOCK (R423): the rounds of a workgroup are evaluated; where one is blocked, its waiting thread of lowest
number raises cause 0x18. -/
def execHitchDeadlock (wg : Nat) (s : State) : Res :=
  .next (if (s.wgrp wg).ended.isSome then s
    else
      let rounds := ((s.threadsOf wg).filterMap s.roundOf).eraseDups
      let blocked := s.blockedIn wg rounds.length rounds
      let stuck := (s.threadsOf wg).filter (fun u => match s.roundOf u with
        | some r => blocked.contains r
        | none => false)
      match minBy Thread.t stuck with
      | none => s
      | some u =>
        let info := match s.roundOf u with
          | some r => s.roundInfo wg r
          | none => 0
        s.raiseFatal wg ⟨0x18, info, u.t, u.waitWord.1, u.waitWord.2, s.clk⟩)

end Sys2Proof.Machine
end

