-- ==== Sys2Proof/Machine/EngineCmd.lean ====
section
/-! DEFINITION. Signed engine commands, tile reads and STCFG (spec 12, R338 to R357; R52, R53, R409, R421, R422, R425,
R449). -/

namespace Sys2Proof.Machine

/-- CPLIN: a signed command that may be guarded (R338). -/
def wCplin : WKind := ⟨false, true, false, .mainDie⟩

/-- R52, R339, R345, R350: what a signer captures: its descriptor, its braid's part (CPBOX), its SEGB where the entry counts
it (SMX). -/
def State.signer (s : State) (m : Member) (op : EngOp) (a q dcode : Nat) : Signer :=
  let r := fun (i n : Nat) => (rangeFrom (a + i) n).map m.reg
  match op with
  | .mxs => ⟨r 0 4, [], 0, q, dcode⟩
  | .smx => ⟨r 0 7, [], (s.brd m.wg (m.braid s)).segb, q, dcode⟩
  | .cpbox => ⟨r 0 10 ++ r 15 1, r 10 5, 0, q, dcode⟩
  | .nmcall => ⟨r 0 2, [], 0, 0, dcode⟩
  | _ => ⟨r 0 10, [], 0, q, dcode⟩

/-- How many registers the descriptor of a command has (R339). -/
def EngOp.count : EngOp → Nat
  | .mxs => 4
  | .smx => 7
  | .cpbox => 16
  | .nmcall => 2
  | _ => 10

/-- R52, R53: sign a command; its promise pair, where it has one, is held until acceptance. -/
def engWord (op : EngOp) (hitch a q : Nat) (d : Option Nat) (s : State) (c : Cur) (m : Member) : Lane State :=
  match s.firstBad m a op.count with
  | some r => .error (0x62, r)
  | none =>
    match s.signEngine m.wg m.t hitch op (s.pktPc c.core c.pkt) c.word c.pos (s.signer m op a q (d.getD 0)) with
    | .error e => .error (e, 0)
    | .ok s1 => match d with
      | none => .ok s1
      | some d => .ok (s1.modThr m.wg m.t (fun x => (x.holdReg d).holdReg (d + 1)))

/-- R425: another claimant holds the claim of a tile. -/
def State.claimed (s : State) (cl t wg : Nat) : Bool :=
  match (s.tile cl t).claim with
  | some l => !l.contains wg
  | none => false

/-- R347, R409, R425: a thread drains the element of its home lane. -/
def mxrdWord (o : OpDAQ) (s : State) (c : Cur) (m : Member) : Lane State :=
  match s.regs m o.a.toNat 1 with
  | .error e => .error e
  | .ok ws =>
    let cl := clusterOf c.core
    if s.claimed cl o.q.toNat m.wg then .error (0x1C, 0)
    else
      let k := ((ws.headD 0#32).toNat % 64) * 64 + m.lane
      let t := s.tile cl o.q.toNat
      if t.poison.contains k then
        .ok ((s.putReg c m o.d.toNat Config.poisonWord 8 0).noteLane m.wg m.t ⟨0x20, 0, s.pktPc c.core c.pkt, c.word, c.pos, s.clk⟩)
      else .ok (s.putReg c m o.d.toNat (Tbl.getD t.acc k 0#32) 8 0)

/-- R348, R425: the status registers of a tile. -/
def mxstatWord (o : OpDQ) (s : State) (c : Cur) (m : Member) : Lane State :=
  let cl := clusterOf c.core
  if s.claimed cl o.q.toNat m.wg then .error (0x1C, 0)
  else
    let t := s.tile cl o.q.toNat
    let d := o.d.toNat
    .ok ((((s.putReg c m d t.npassd 4 0).putReg c m (d + 1) t.nsamp 4 0).putReg c m (d + 2) t.var 4 0).putReg c m (d + 3) 0#32 4 0)

/-- R353, R449: the stream that a pair configures; none where the pair breaks R353. -/
def streamOf (lo hi alloc : Nat) : Option Stream :=
  let base := nbits lo 18 0
  let slot := nbits hi 21 12
  let n := nbits hi 5 0 + 1
  if nbits lo 31 19 != 0 || nbits hi 31 22 != 0 || nbits hi 11 6 != 0 || base % 512 != 0 || decide (768 < slot) then none
  else if slot = 0 then some Stream.blank
  else if alloc < base + slot * 512 * n then none
  else some ⟨base, slot * 512, List.replicate n Slot.free, 0, 0, 0⟩

/-- R326, R354, R449: STCFG over the threads that execute it. A pair that breaks R353 faults its thread, and asks for nothing to be written:
the two packets of a cycle settle that together at its end. -/
def doStcfg (o : OpAQ) (s : State) (c : Cur) (live : List (Nat × Member)) : State :=
  let (s1, xs) := readAll c (fun s m => match s.regs m o.a.toNat 2 with
    | .error e => .error e
    | .ok ws => .ok (s, streamOf (ws.getD 0 0#32).toNat (ws.getD 1 0#32).toNat ((s.wgrp m.wg).scrUnits * 32))) live s
  xs.foldl (fun s x =>
    let s1 := s.atCycleEnd c.core (.stcfg x.2.1.wg o.q.toNat x.2.1.t x.2.2)
    if x.2.2.isNone then s1.faultMember c x.1 0x54 0 else s1) s1

/-! ## The words -/

/-- R343, R344. -/
def execMxs (h : Hdr) (o : OpEnA) (s : State) : Res :=
  .next (perSigner wSigned h (Instr.mxs h o).opns (engWord .mxs o.hitch.toNat o.a.toNat o.q.toNat none) s)

/-- R345, R346. -/
def execSmx (h : Hdr) (o : OpEnA) (s : State) : Res :=
  .next (perSigner wSigned h (Instr.smx h o).opns (engWord .smx o.hitch.toNat o.a.toNat o.q.toNat none) s)

/-- R347. -/
def execMxrd (h : Hdr) (o : OpDAQ) (s : State) : Res := .next (perLane wKMain h (Instr.mxrd h o).opns (mxrdWord o) s)

/-- R348. -/
def execMxstat (h : Hdr) (o : OpDQ) (s : State) : Res := .next (perLane wKMain h (Instr.mxstat h o).opns (mxstatWord o) s)

/-- R349, R350. -/
def execCpbox (h : Hdr) (o : OpEn) (s : State) : Res :=
  .next (perSigner wSigned h (Instr.cpbox h o).opns (engWord .cpbox o.hitch.toNat o.a.toNat o.q.toNat (some o.d.toNat)) s)

/-- R351. -/
def execCplin (h : Hdr) (o : OpEn) (s : State) : Res :=
  .next (perSigner wCplin h (Instr.cplin h o).opns (engWord .cplin o.hitch.toNat o.a.toNat o.q.toNat (some o.d.toNat)) s)

/-- R353, R354. -/
def execStcfg (h : Hdr) (o : OpAQ) (s : State) : Res := .next (perGroup wKMain h (Instr.stcfg h o).opns (doStcfg o) s)

/-- R355, R356. -/
def execRtplan (h : Hdr) (o : OpEnS) (s : State) : Res :=
  .next (perSigner wSigned h (Instr.rtplan h o).opns (engWord .rtplan o.hitch.toNat o.a.toNat o.q.toNat (some o.d.toNat)) s)

/-- R355, R356. -/
def execRtscat (h : Hdr) (o : OpEnS) (s : State) : Res :=
  .next (perSigner wSigned h (Instr.rtscat h o).opns (engWord .rtscat o.hitch.toNat o.a.toNat o.q.toNat (some o.d.toNat)) s)

/-- R355, R356. -/
def execRtcomb (h : Hdr) (o : OpEnS) (s : State) : Res :=
  .next (perSigner wSigned h (Instr.rtcomb h o).opns (engWord .rtcomb o.hitch.toNat o.a.toNat o.q.toNat (some o.d.toNat)) s)

/-- R357. -/
def execNmcall (h : Hdr) (o : OpEnN) (s : State) : Res :=
  .next (perSigner wSigned h (Instr.nmcall h o).opns (engWord .nmcall o.hitch.toNat o.a.toNat 0 none) s)

end Sys2Proof.Machine
end

