-- ==== Sys2Proof/Machine/Evict.lean ====
section
/-! DEFINITION. Oversubscription: pages evicted to host memory and brought back (spec 03, R85, R87; R128, R435, R437). -/

namespace Sys2Proof.Machine

/-! ## Leaves of a stack translator (R128) -/

/-- A leaf entry: its stack, its address, its contents, the stack offset it maps and whether it maps 2 MiB. -/
structure Leaf where
  stack : Nat
  at_ : Nat
  entry : Nat
  svo : Nat
  big : Bool
  deriving DecidableEq, Repr

/-- Indices of the doubles of a table in DRAM that are not zero. -/
def State.nonzeroAt (s : State) (k base n : Nat) : List Nat :=
  ((s.dram.filter (fun p => decide (dkey k base ≤ p.1) && decide (p.1 < dkey k (base + 8 * n)))).map
    (fun p => (p.1 - dkey k base) / 8)).eraseDups

/-- R128: an entry that is a resident or an evicted leaf. -/
def leafHere (e : Nat) : Bool := nbit e 0 || nbit e 4

def State.leaves3 (s : State) (k a2 svo : Nat) : List Leaf :=
  (s.nonzeroAt k a2 32).filterMap (fun i =>
    let e := s.dram64 (dkey k (a2 + 8 * i))
    if leafHere e then some ⟨k, a2 + 8 * i, e, svo + i * 2 ^ 16, false⟩ else none)

def State.leaves2 (s : State) (k a1 svo : Nat) : List Leaf :=
  (s.nonzeroAt k a1 512).flatMap (fun i =>
    let at_ := a1 + 8 * i
    let e := s.dram64 (dkey k at_)
    let v := svo + i * 2 ^ 21
    if nbit e 1 then (if leafHere e then [⟨k, at_, e, v, true⟩] else [])
    else if nbit e 0 && !entryBad true 2 e then s.leaves3 k (entryAddr e) v else [])

/-- The leaves of a stack translator. -/
def State.leaves (s : State) (k : Nat) : List Leaf :=
  let root := nbits (s.stack k).stroot.toNat 35 0
  if root = 0 then []
  else (s.nonzeroAt k root (2 ^ 18)).flatMap (fun i =>
    let e := s.dram64 (dkey k (root + 8 * i))
    if nbit e 0 && !entryBad true 1 e then s.leaves2 k (entryAddr e) (i * 2 ^ 30) else [])

/-- The 2 MiB page that a leaf's ADDR lies in: of SPA where it is resident, of the host aperture where it is evicted. -/
def Leaf.page (l : Leaf) : Nat := entryAddr l.entry / 2 ^ 21

/-- The leaf that maps a stack offset, resident or evicted. -/
def State.leafOf (s : State) (k svo : Nat) : Option Leaf :=
  (s.leaves k).find? (fun l => decide (l.svo ≤ svo) && decide (svo < l.svo + (if l.big then 2 ^ 21 else 2 ^ 16)))

/-! ## The eviction pool (R87) -/

/-- R87: the pool descriptor at offset 0x220 of a save area. -/
structure Pool where
  base : Nat
  pages : Nat
  list : Nat
  nfree : Nat
  deriving DecidableEq, Repr

def State.pool (s : State) (part : Nat) : Pool :=
  let d := s.peek (s.saveArea part + 0x220) 4
  if s.saveArea part = 0 then ⟨0, 0, 0, 0⟩
  else ⟨nbits (d.getD 0 0) 47 21 * 2 ^ 21, nbits (d.getD 1 0) 31 0, nbits (d.getD 2 0) 51 0, nbits (d.getD 3 0) 31 0⟩

def State.poolWord (s : State) (part i : Nat) : Nat × Nat :=
  let at_ := s.saveArea part + 0x250000 + i / 64 * 8
  (at_, (s.peek at_ 1).getD 0 0)

/-- R87 step 1: the lowest free pool page from `i` on. -/
def State.poolFree (s : State) (part i : Nat) : Nat → Option Nat
  | 0 => none
  | k + 1 => if nbit (s.poolWord part i).2 (i % 64) then State.poolFree s part (i + 1) k else some i

def State.poolSet (s : State) (part i : Nat) (b : Bool) : State :=
  let (at_, w) := s.poolWord part i
  if nbit w (i % 64) = b then s else s.putDouble at_ (if b then w + 2 ^ (i % 64) else w - 2 ^ (i % 64))

/-- The free device pages of a partition: position, stack and SPA page, the one to be taken first first. -/
def State.freePages (s : State) (part : Nat) : List (Nat × Nat × Nat) :=
  let p := s.pool part
  (List.range p.nfree).reverse.map (fun i =>
    let e := (s.peek (p.list + 8 * i) 1).getD 0 0
    (i, nbits e 38 36, nbits e 35 21))

def State.putNfree (s : State) (part n : Nat) : State := s.putBytes 0 (s.saveArea part + 0x238) (leBytes 4 n)

/-! ## Moving a page -/

/-- R87 steps 2 and 4: rewrite leaves; the translator holds no entry. -/
def State.putLeaves (s : State) (k : Nat) (ls : List Leaf) (f : Nat → Nat) : State :=
  (ls.foldl (fun s l => s.dramWrite (dkey k l.at_) (leBytes 8 (f l.entry))) s).modStack k (fun x => { x with tlb := [] })

/-- The entry with another ADDR, whose page takes the place of the old one, and other V and E bits. -/
def moved (page v e : Nat) (x : Nat) : Nat :=
  (page * 2 ^ 21 + entryAddr x % 2 ^ 21) + nbits x 7 5 * 32 + e * 16 + nbits x 3 1 * 2 + v

/-- R87 step 3: copy a device page to the host aperture, in the 64 KiB pages of its translator. -/
def State.pageOut (s : State) (k page off : Nat) : Nat → Except MErr State
  | 0 => .ok s
  | n + 1 =>
    match State.pageOut s k page off n with
    | .error e => .error e
    | .ok s1 =>
      let src := dkey k (page * 2 ^ 21 + n * 65536)
      let bad := s1.dramPoison.filter (fun b => decide (src ≤ 64 * b) && decide (64 * b < src + 65536))
      match s1.homeWrite (dieOfStack k) (2 ^ 50 + off + n * 65536) (s1.dramRead src 65536) with
      | .error e => .error e
      | .ok s2 =>
        match s2.resolve (2 ^ 50 + off + n * 65536) true with
        | .ok (s3, .host a) => .ok { s3 with hostPoison := s3.hostPoison ++ bad.map (fun b => (a + (64 * b - src)) / 64) }
        | _ => .ok s2

/-- R87: copy a pool page into a device page. -/
def State.pageIn (s : State) (k page off : Nat) : Nat → Except MErr State
  | 0 => .ok s
  | n + 1 =>
    match State.pageIn s k page off n with
    | .error e => .error e
    | .ok s1 =>
      match s1.resolve (2 ^ 50 + off + n * 65536) false with
      | .ok (s2, .host a) =>
        let dst := dkey k (page * 2 ^ 21 + n * 65536)
        let s3 := s2.dramWrite dst ((rangeFrom a 65536).map s2.hostByteAt)
        let bad := s2.hostPoison.filter (fun b => decide (a ≤ 64 * b) && decide (64 * b < a + 65536))
        .ok { s3 with dramPoison := s3.dramPoison ++ bad.map (fun b => (dst + (64 * b - a)) / 64) }
      | .ok (s2, _) => .ok s2
      | .error e => .error e

/-- What a try to evict gives: done, no pool page free, or not possible now. -/
inductive Evicted where
  | done (s : State)
  | full
  | later

/-- R87: what follows the copy of a device page out to the pool at `off`: the leaves point at the pool's page and the device page joins the
free list. A copy that failed is tried again. -/
def State.leftPage (s : State) (r : Except MErr State) (part k page off : Nat) : Evicted :=
  match r with
  | .error _ => .later
  | .ok s1 =>
    let p := s.pool part
    let ls := (s.leaves k).filter (fun l => nbit l.entry 0 && l.page == page)
    let s2 := s1.putLeaves k ls (fun x => moved (off / 2 ^ 21) 0 1 x)
    .done ((s2.putDouble (p.list + 8 * p.nfree) (k * 2 ^ 36 + page * 2 ^ 21)).putNfree part (p.nfree + 1))

/-- R87: evict a 2 MiB page of a stack. -/
def State.evictPage (s : State) (part k page : Nat) : Evicted :=
  let p := s.pool part
  match s.poolFree part 0 p.pages with
  | none => .full
  | some i =>
    -- step 2 waits for STINV: no bank command that the old entries translated is left
    if s.bankBefore k s.seq none || (s.stack k).inv.isSome then .later
    else
      let ls := (s.leaves k).filter (fun l => nbit l.entry 0 && l.page == page)
      let off := p.base + i * 2 ^ 21
      s.leftPage (((s.poolSet part i true).putLeaves k ls (fun x => moved page 0 1 x)).pageOut k page off 32) part k page off

/-- R87: what follows the copy of a pool page back into a device page: the free list loses its entry `e`, the leaves and the pool's
map are as they were before the page left, and what waited for the page goes on. A copy that failed leaves the page out. Where `e` is not
the list's last entry, because that one names another stack, the last takes its place (DESIGN CHOICE, log entry 84). -/
def State.landPage (s : State) (r : Except MErr State) (part k pool : Nat) (e : Nat × Nat × Nat) : State :=
  match r with
  | .error _ => s
  | .ok s1 =>
    let p := s.pool part
    let ls := (s.leaves k).filter (fun l => !nbit l.entry 0 && nbit l.entry 4 && l.page == pool)
    let top := (s1.peek (p.list + 8 * (p.nfree - 1)) 1).getD 0 0
    let s2 := (s1.putDouble (p.list + 8 * e.1) top).putNfree part (p.nfree - 1)
    let s3 := (s2.putLeaves k ls (fun x => moved e.2.2 1 0 x)).poolSet part (pool - p.base / 2 ^ 21) false
    s3.replayStack k

/-- R87: bring a pool page of a stack back into the device page of the free list's entry `e`. -/
def State.bringPage (s : State) (part k pool : Nat) (e : Nat × Nat × Nat) : State :=
  s.landPage (s.pageIn k e.2.2 (pool * 2 ^ 21) 32) part k pool e

/-! ## Which page (R85) -/

/-- A range of a launch of a partition. -/
structure VRange where
  asid : Nat
  base : Nat
  len : Nat
  rank : Nat
  prio : Nat
  deriving DecidableEq, Repr

/-- The rank of a range that no queued launch covers: above every queue position. -/
def rankMax : Nat := 2 ^ 32

/-- The ranges of the launches queued in a leaf, with their positions. -/
def State.leafRanges (s : State) (part : Nat) (r : Rcb) : List VRange :=
  let h := s.leafHdr r.queue
  if h.bad then []
  else (List.range (min h.count h.slots)).flatMap (fun i =>
    let pos := (h.head + i) % 2 ^ 32
    let l := launchOf 0 part r.ia (h.slot pos) r.queue pos r.fdom (s.peek (h.slot pos) 8)
    (s.launchRanges l).map (fun x => ⟨l.asid, x.1, x.2, i, r.prio⟩))

def VRange.meets (a b : VRange) : Bool := a.asid == b.asid && overlaps a.base a.len b.base b.len

/-- R85: the ranges of running launches. -/
def State.runningRanges (s : State) (part : Nat) : List VRange :=
  (Tbl.vals s.launches).flatMap (fun l => if l.part != part then [] else
    (s.launchRanges l).map (fun x => ⟨l.asid, x.1, x.2, 0, 0⟩))

/-- R85: the ranges of a partition, the one to be evicted first first: by rank, then the lower priority of the nearest launch,
then the lower base. -/
def State.rankedRanges (s : State) (part : Nat) : List VRange :=
  let q := (s.part part).leaves.flatMap (s.leafRanges part)
  let run := s.runningRanges part
  let near := fun (v : VRange) => match minBy (fun (x : VRange) => x.rank * 8 + x.prio) (q.filter v.meets) with
    | some x => { v with rank := x.rank, prio := x.prio }
    | none => { v with rank := rankMax, prio := 0 }
  let all := (q ++ (s.part part).seen.map (fun x => (⟨x.1, x.2.1, x.2.2, rankMax, 0⟩ : VRange))).map near
  sortBy (fun v => ((rankMax - v.rank) * 8 + v.prio) * 2 ^ 57 + v.base)
    ((all.filter (fun v => !run.any v.meets)).eraseDups)

/-- The resident device pages (stack and SPA page) of a range. -/
def State.rangePages (s : State) (v : VRange) : List (Nat × Nat) :=
  ((s.rangeIas v.asid v.base v.len).filterMap (fun ia =>
    match s.leafOf (iaStack ia) (iaSvo ia) with
    | some l => if nbit l.entry 0 then some (iaStack ia, (entryAddr l.entry + (iaSvo ia - l.svo)) / 2 ^ 21) else none
    | none => none)).eraseDups

/-- R85: the page to be evicted on a stack: the first of the first range, but none that a running launch's range lies in. -/
def State.victimPage (s : State) (part k : Nat) (keep : List VRange) : Option Nat :=
  let kept := (s.runningRanges part ++ keep).flatMap s.rangePages
  (s.rankedRanges part).findSome? (fun v =>
    ((s.rangePages v).find? (fun p => p.1 == k && !kept.contains p)).map Prod.snd)

/-- The evicted pages (stack and pool page) of the ranges of a launch. -/
def State.launchEvicted (s : State) (l : Launch) : List (Nat × Nat) :=
  ((s.launchRanges l).flatMap (fun r => (s.rangeIas l.asid r.1 r.2).filterMap (fun ia =>
    match s.leafOf (iaStack ia) (iaSvo ia) with
    | some x => if !nbit x.entry 0 && nbit x.entry 4 then some (iaStack ia, (entryAddr x.entry + (iaSvo ia - x.svo)) / 2 ^ 21) else none
    | none => none))).eraseDups

/-- R85: the head launches of a partition whose ranges have evicted pages. -/
def State.evictedHeads (s : State) (part : Nat) : List (Launch × List (Nat × Nat)) :=
  (s.part part).leaves.filterMap (fun r =>
    let h := s.leafHdr r.queue
    if h.bad || h.count = 0 then none
    else
      let l := launchOf 0 part r.ia (h.slot h.head) r.queue h.head r.fdom (s.peek (h.slot h.head) 8)
      let ps := s.launchEvicted l
      if ps.isEmpty || (s.part part).starved.contains (l.queue, l.pos) then none else some (l, ps))

/-- R85: a stack on which a launch needs more free pages than its partition has. -/
def State.shortStack (s : State) (part : Nat) (ps : List (Nat × Nat)) : Option Nat :=
  let free := s.freePages part
  (List.range 8).find? (fun k => decide ((free.filter (fun f => f.2.1 == k)).length < (ps.filter (fun x => x.1 == k)).length))

/-- R87: the launch waits for room: one class-0 record, until RELOAD. -/
def State.starve (s : State) (part : Nat) (l : Launch) : State :=
  (s.report part l.dom (Report.plain 0 0x40 0)).modPart part (fun p => { p with starved := p.starved ++ [(l.queue, l.pos)] })

/-- Evict one page of a stack for a launch. -/
def State.evictFor (s : State) (part k : Nat) (l : Launch) : State :=
  let keep := (s.launchRanges l).map (fun x => (⟨l.asid, x.1, x.2, 0, 0⟩ : VRange))
  match s.victimPage part k keep with
  | none => s
  | some p =>
    match s.evictPage part k p with
    | .done s1 => s1
    | .full => s.starve part l
    | .later => s

/-- R85: the evicted pages that a launch wants, where it still waits for them. -/
def State.stillWants (s : State) (part : Nat) (l : Launch) : List (Nat × Nat) :=
  if (s.part part).starved.contains (l.queue, l.pos) then [] else s.launchEvicted l

/-- PAGE_EVICT (R85, R87): for each launch that lacks free device pages, one page is evicted. -/
def execPageEvict (s : State) : Res :=
  .next ((List.range 8).foldl (fun s p => (s.evictedHeads p).foldl (fun s x =>
    match s.shortStack p (s.stillWants p x.1) with
    | some k => s.evictFor p k x.1
    | none => s) s) s)

/-! ## Bringing back (R85, R87, R435) -/

/-- An IA that the translator of a stack takes: its stack offset. -/
def heldOffset (ia : Nat) : Option Nat := if 2 ^ 52 ≤ ia then none else some (iaSvo ia)

/-- Stack offsets of accesses that wait for a page of a stack, with the launches they belong to (0 for none). -/
def State.heldOffsets (s : State) (k : Nat) : List (Nat × Nat) :=
  let of := fun (ia launch : Nat) => (heldOffset ia).map (fun o => (o, launch))
  s.threads.flatMap (fun p => (p.2.mops.filter (fun m => m.logged == some k)).filterMap (fun m => of m.ia (s.wgrp p.2.wg).launch)) ++
  s.braids.flatMap (fun p => (p.2.storeQ.filter (fun e => e.logged == some k)).filterMap (fun e => of e.ia (s.wgrp p.2.wg).launch)) ++
  s.cores.flatMap (fun p => (p.2.wstores.filter (fun w => w.logged == some k)).filterMap (fun w => of w.ia (s.wgrp w.wg).launch)) ++
  (s.heldAdds.filter (fun h => h.tr == k)).filterMap (fun h => of h.ia 0) ++
  (Tbl.getD (s.stack k).seqQ heldKey []).filterMap (fun b => of b.ia (s.wgrp b.wg).launch) ++
  (Tbl.vals s.reqs).filterMap (fun r => if r.waiting = some k then r.missed.map (fun m => (m.2 * 65536, r.launch)) else none)

/-- An evicted page that is wanted: its stack and pool page, and the partition and launch that want it, where there is one. -/
structure Want where
  stack : Nat
  pool : Nat
  launch : Option Launch
  deriving DecidableEq, Repr

/-- The evicted page that a stack offset lies in. -/
def State.evictedAt (s : State) (k o : Nat) : Option Nat :=
  match s.leafOf k o with
  | some l => if !nbit l.entry 0 && nbit l.entry 4 then some ((entryAddr l.entry + (o - l.svo)) / 2 ^ 21) else none
  | none => none

/-- The evicted pages that are wanted: by accesses first, then by launches; none for a launch that waits for room. -/
def State.wanted (s : State) : List Want :=
  let all := (List.range 8).flatMap (fun k => (s.heldOffsets k).filterMap (fun o =>
      (s.evictedAt k o.1).map (fun p => (⟨k, p, Tbl.get? s.launches o.2⟩ : Want)))) ++
    (List.range 8).flatMap (fun p => (s.evictedHeads p).flatMap (fun x => x.2.map (fun y => (⟨y.1, y.2, some x.1⟩ : Want))))
  (all.filter (fun w => !w.launch.any (fun l => (s.part l.part).starved.contains (l.queue, l.pos)))).eraseDups

/-- The partition whose pool holds a page of the host aperture. -/
def State.poolOwner (s : State) (pool : Nat) : Option Nat :=
  (List.range 8).find? (fun p => let q := s.pool p; decide (q.base / 2 ^ 21 ≤ pool) && decide (pool < q.base / 2 ^ 21 + q.pages))

/-- R87: a wanted page returns where its partition has a free page of its stack; without one, a page of the stack is evicted first, and
where the pool is full the launch that wants it waits for room. -/
def State.bringBack (s : State) (w : Want) : State :=
  match s.poolOwner w.pool with
  | none => s
  | some p =>
    if !(s.leaves w.stack).any (fun l => !nbit l.entry 0 && nbit l.entry 4 && l.page == w.pool) then s
    else match (s.freePages p).find? (fun f => f.2.1 == w.stack) with
    | some e => s.bringPage p w.stack w.pool e
    | none =>
      match s.victimPage p w.stack [] with
      | none => s
      | some v =>
        match s.evictPage p w.stack v, w.launch with
        | .done s1, _ => s1
        | .full, some l => if (s.part l.part).starved.contains (l.queue, l.pos) then s else s.starve l.part l
        | _, _ => s

/-- PAGE_BRING_BACK (R87): every wanted page is taken in turn. -/
def execPageBringBack (s : State) : Res := .next (s.wanted.foldl State.bringBack s)

end Sys2Proof.Machine
end

