-- ==== Sys2Proof/Machine/Walker.lean ====
section
/-! DEFINITION. The task graph walkers: the work of the nodes, and the walker's copy channel (spec 03, R80 to R82; R323, R324, R352,
R371, R410, R450). -/

namespace Sys2Proof.Machine

/-- What a node's work gives: it is done and fires successors; it waits; it is a copy in progress; or it stops its graph. -/
inductive NodeRes where
  | done (s : State) (succ : List Nat)
  | wait (s : State)
  | copying (s : State)
  | stop (s : State) (cause info : Nat)

/-- R375, R435, R450, R458, R461: an access of a walker that meets an error: the node waits, with a record for a page that is not
resident, or for a port; or its root's domain is region-fatal. -/
def State.nodeErr (s : State) (part : Nat) : MErr → NodeRes
  | .notRes tr page ev => .wait (s.reportPage part (s.rootDom part) tr page ev (Report.plain 0 0x40 0))
  | .region c i =>
    if s.domHalted part (s.rootDom part) then .wait s
    else .wait (s.raiseRegion part (s.rootDom part) 0 ⟨c, i, 0, 0, 0#32, s.clk⟩)
  | .refused => .wait s
  | .held d => .wait (s.waitPort d part (s.rootDom part))

/-- The IA of a node's address; one that names no memory makes the node invalid. -/
def nodeIa (v : Nat) : Option Nat := if v < 2 ^ 52 ∧ iaOk v = true then some v else none

/-- A read of `n` doubles by a walker. -/
def State.nodeRead (s : State) (part at_ v n : Nat) (f : State → List Nat → NodeRes) : NodeRes :=
  match nodeIa v with
  | none => .stop s 0x65 at_
  | some ia =>
    match s.doublesAt (s.walkerDie part) ia n with
    | .error e => s.nodeErr part e
    | .ok (s1, ds) => f s1 ds

/-- R81: LAUNCH_NODE: the record is copied into the queue and TAIL advanced; a full ring makes the node wait. -/
def State.launchNode (s : State) (part g j at_ : Nat) (nd : Node) : NodeRes :=
  s.nodeRead part at_ nd.value 4 (fun s1 hd =>
    let h := leafHdrOf hd
    if h.slots ≤ h.count then .wait s1
    else s1.nodeRead part at_ nd.addr 8 (fun s2 rec_ =>
      let s3 := s2.putBytes (s2.walkerDie part) (h.slot h.tail) (rec_.flatMap (leBytes 8))
      let s4 := s3.putBytes (s3.walkerDie part) (nd.value + 8) (leBytes 4 (h.tail + 1))
      .copying (s4.modGraph part g (fun x => { x with queued := x.queued ++ [(j, nd.value, h.tail)] }))))

/-- R324, R352: the request of a COPY node, from the six doubles of its descriptor. -/
def copyReq (part dom die id clk : Nat) (d : List Nat) : EReq :=
  let w := fun k => BitVec.ofNat 32 (d.getD (k / 2) 0 / (if k % 2 = 0 then 1 else 2 ^ 32))
  { id := id, op := .cplin, q := 0, regs := (List.range 10).map w, parts := [], segb := 0, wg := 0, gang := [], t := 0,
    signers := [], pc := 0, word := 0#32, wpos := 0, core := 96 * die, part := part, asid := nbits (w 10).toNat 11 0, dom := dom,
    launch := 0, launchIa := 0, rels := [], formed := clk, begun := false, phase := 0, pos := 0, recs := [], work := [],
    vals := [], waiting := none, missed := none, opened := [], replay := false, leave := 0, damaged := false }

/-- R324: COPY_NODE: the descriptor is read and the copy enters the walker's copy channel. -/
def State.copyNode (s : State) (part g j at_ : Nat) (nd : Node) : NodeRes :=
  if nd.addr % 16 != 0 then .stop s 0x65 at_
  else s.nodeRead part at_ nd.addr 6 (fun s1 d =>
    if nbits (d.getD 5 0) 63 12 != 0 then .stop s1 0x51 (nd.addr + 40)
    else
      let (s2, id) := s1.freshId
      let die := s2.walkerDie part
      let r := copyReq part (s2.rootDom part) die id s2.clk d
      .copying (State.modDie { s2 with reqs := Tbl.put s2.reqs id r } die
        (fun x => { x with walkCopy := x.walkCopy ++ [(part, g, j, id)] })))

/-- The successors that a node with a choice `k` fires (R81). -/
def Node.pick (nd : Node) (k : Nat) : List Nat := ((nd.succ.take nd.nsucc).drop k).take 1

/-- R81: the word at ADDR, from the double it lies in. -/
def State.nodeWord (s : State) (part at_ : Nat) (nd : Node) (f : State → Nat → NodeRes) : NodeRes :=
  if nd.addr % 4 != 0 then .stop s 0x65 at_
  else s.nodeRead part at_ (nd.addr / 8 * 8) 1 (fun s1 d => f s1 (d.getD 0 0 / (if nd.addr % 8 = 0 then 1 else 2 ^ 32) % 2 ^ 32))

/-- R81: the work of node `j`, whose 32 bytes are at `at_`. DESIGN CHOICE (log entry 92): a SIGNAL node whose add waits for a page (R482) has done
its work: its successors fire, and the graph may be done before the add is made. -/
def State.nodeWork (s : State) (part g j at_ : Nat) (nd : Node) : NodeRes :=
  let all := nd.succ.take nd.nsucc
  if nd.kind = 1 then s.launchNode part g j at_ nd
  else if nd.kind = 2 then s.copyNode part g j at_ nd
  else if nd.kind = 3 then
    s.nodeRead part at_ nd.addr 1 (fun s1 d => if nd.value ≤ d.getD 0 0 then .done s1 all else .wait s1)
  else if nd.kind = 4 then
    .done (s.addAtIa (s.walkerDie part) nd.addr nd.value part (s.rootDom part) nd.addr 0) all
  else if nd.kind = 5 then
    s.nodeWord part at_ nd (fun s1 w => .done s1 (nd.pick (min w (nd.nsucc - 1))))
  else if nd.kind = 6 then
    s.nodeWord part at_ nd (fun s1 w =>
      let it := s1.runCount part g j
      if w != 0 && decide (it < nd.count) then .done (s1.putRun part g j (it + 1) (s1.runPending part g j)) (nd.pick 0)
      else .done (s1.putRun part g j 0 (s1.runPending part g j)) (nd.pick 1))
  else
    let n := s.runCount part g j + 1
    if nd.count ≤ n then .done (s.putRun part g j 0 (s.runPending part g j)) all
    else .done (s.putRun part g j n (s.runPending part g j)) []

/-- R450: the graph stops, with the copies of its nodes. -/
def State.haltGraph (s : State) (part g cause info : Nat) : State :=
  let ids := s.dies.flatMap (fun d => (d.2.walkCopy.filter (fun e => e.1 == part && e.2.1 == g)).map (fun e => e.2.2.2))
  ids.foldl State.dropReq (s.stopGraph part g cause info)

/-- What follows the work of a node. -/
def State.nodeThen (s : State) (part g j : Nat) : NodeRes → State
  | .done s1 succ => s1.nodeDone part g j succ
  | .wait s1 => s1.modDie (s.walkerDie part) (fun d => { d with waitNodes := d.waitNodes ++ [(part, g, j)] })
  | .copying s1 => s1
  | .stop s1 c i => s1.haltGraph part g c i

/-- R80, R450: read node `j` and do its work. -/
def State.runNode (s : State) (part : Nat) (x : Graph) (j : Nat) : State :=
  let at_ := x.header + 64 + 32 * j
  s.nodeThen part x.entry j (s.nodeRead part at_ at_ 4 (fun s1 ds =>
    let nd := nodeOf ds
    if nd.bad x.nodes then .stop s1 0x65 at_ else s1.nodeWork part x.entry j at_ nd))

/-- R82: a node taken from the FIFO begins to run; one that is running already waits behind its earlier firing. -/
def State.beginNode (s : State) (part g j : Nat) : State :=
  match (s.part part).graph? g with
  | none => s
  | some x =>
    if x.running.contains j then s.putRun part g j (s.runCount part g j) (s.runPending part g j + 1)
    else (s.modGraph part g (fun x => { x with running := x.running ++ [j] })).runNode part x j

/-! ## The walker's copy channel (R323, R324) -/

/-- A copy of a walker ends with an error: a page not resident makes it wait; a region-fatal cause stops the root's domain;
anything else stops the graph. -/
def State.copyErr (s : State) (part g id : Nat) : EErr → State
  | .home va (.notRes tr page ev) =>
    if (s.req id).any (fun r => r.replay && r.missed == some (tr, page)) then s.haltGraph part g 0x52 (va % 2 ^ 57)
    else (s.reportPage part (s.rootDom part) tr page ev (Report.plain 0 0x40 0)).modReq id
      (fun x => { x with waiting := some tr, missed := some (tr, page), replay := false })
  | .home _ (.region c i) => (s.haltGraph part g c i).raiseRegion part (s.rootDom part) 0 ⟨c, i, 0, 0, 0#32, s.clk⟩
  | .home va .refused => s.haltGraph part g 0x52 (va % 2 ^ 57)
  | .home _ (.held d) => match s.req id with
    | some r => s.engineHeld r d
    | none => s
  | .access va => s.haltGraph part g 0x52 (va % 2 ^ 57)

/-- The next piece of the copy at the head of a die's channel: its beginning, its next chunk or its end. -/
def State.copyStep (s : State) (die : Nat) : State :=
  match (s.die die).walkCopy with
  | [] => s
  | (part, g, j, id) :: r =>
    let pop := fun (s : State) => s.modDie die (fun d => { d with walkCopy := r })
    match s.req id with
    | none => pop s
    | some q =>
      if q.waiting.isSome then s
      else if !q.begun then
        match s.beginLin q with
        | .ok s1 _ => s1
        | .stop e => s.copyErr part g id e
        | .fault c i => s.haltGraph part g c i
        | .region c i => (s.haltGraph part g c i).raiseRegion part (s.rootDom part) 0 ⟨c, i, 0, 0, 0#32, s.clk⟩
        | .wait => s
      else if !q.running then s
      else if q.phase = 0 then
        match s.linChunk q with
        | (s1, none) => s1
        | (s1, some e) => if e.retried q then s.copyErr part g id e else s1.copyErr part g id e
      else
        let s1 := pop (s.finishReq q q.counter)
        match (s1.part part).graph? g with
        | none => s1
        | some x =>
          let nd := nodeOf (s1.peek (x.header + 64 + 32 * j) 4)
          (s1.touch (x.header + 64 + 32 * j)).nodeDone part g j (nd.succ.take nd.nsucc)

/-! ## The events -/

/-- The next fired node of a die's FIFO. -/
def State.fifoStep (s : State) (die : Nat) : State :=
  match (s.die die).walkFifo with
  | [] => s
  | (part, g, j) :: r => (s.modDie die (fun d => { d with walkFifo := r })).beginNode part g j

/-- WALKER_NODE_STEP (R81, R82): each walker takes a node from its FIFO, and its copy channel goes on. -/
def execWalkerNodeStep (s : State) : Res :=
  .next (if s.tripped then s else (List.range 2).foldl (fun s d => (s.fifoStep d).copyStep d) s)

/-- LAUNCH_NODE_RETRY (R81): the nodes that wait (for room in a ring, for a counter or for a page) try again. -/
def execLaunchNodeRetry (s : State) : Res :=
  .next (if s.tripped then s else (List.range 2).foldl (fun s d =>
    let l := (s.die d).waitNodes
    l.foldl (fun s e => match (s.part e.1).graph? e.2.1 with
      | some x => s.runNode e.1 x e.2.2
      | none => s) (s.modDie d (fun x => { x with waitNodes := [] }))) s)

end Sys2Proof.Machine
end

