-- ==== Sys2Proof/Machine/Faults.lean ====
section
/-! DEFINITION. The ends of workgroups and domains, asynchronous traps, storage errors, lost peers, failing links and repair (spec
16, 17, 19; R405 to R411, R426, R430, R453 to R462, R479 to R482). -/

namespace Sys2Proof.Machine

/-! ## ASYNC_TRAP (R430) -/

/-- ASYNC_TRAP (R401, R430, R453): a waiting thread takes its asynchronous trap at once. -/
def execAsyncTrap (wg t : Nat) (s : State) : Res :=
  .next (if (s.thr wg t).wait = .ready || (s.wgrp wg).ended.isSome || (s.wgrp wg).retired then s else s.takeAsync wg t)

/-! ## WORKGROUP_FATAL (R407, R411) -/

/-- R407 steps 1 and 2: no thread issues again, and open rounds close without forming a request. -/
def State.stopWg (s : State) (wg : Nat) (f : FaultInfo) : State :=
  let shut := fun (h : Hitch) => { h with arrived := 0#64, count := 0, kind := .none, cap := none }
  { s with
    wgs := Tbl.mod s.wgs wg (fun g => { g with ended := some f, stopping := true, hitch := g.hitch.map shut, bar := [] }),
    braids := Tbl.each s.braids (fun _ b => if b.wg = wg then { b with hitch := b.hitch.map shut } else b),
    threads := Tbl.each s.threads (fun _ x => if x.wg = wg then { x with wait := .ready, held := none, async := [] } else x) }

/-- R406: NFATAL and the first workgroup-fatal fault of a launch. -/
def State.countFatal (s : State) (g : Workgroup) (f : FaultInfo) : State :=
  match Tbl.get? s.launches g.launch with
  | none => s
  | some l =>
    let l1 := { l with
      nfatal := l.nfatal + 1, firstFatal := if l.firstFatal.isSome then l.firstFatal else some (g.wgnum, s.clk, f) }
    State.putStatus { s with launches := Tbl.put s.launches l.id l1 } l1 false false none

/-- R407: a member of a gang that did not fault ends with cause 0x1F. -/
def State.endMember (s : State) (f : FaultInfo) (g : Workgroup) : State :=
  let f1 : FaultInfo := ⟨0x1F, f.cause, 0, 0, 0#32, f.clk⟩
  let rep : Report := { Report.plain 2 0x1F f.cause with wgnum := g.wgnum, launch := g.launchIa, core := g.core, asid := g.asid, clk := some f.clk }
  ((((s.stopWg g.id f1).report g.part g.dom rep).countFatal g f1)).due (.event (.workgroupRetire g.id))

/-- R405: the record of a workgroup's fault, with its CLK at detection. -/
def FaultInfo.report (f : FaultInfo) (s : State) (cls wg : Nat) : Report :=
  { s.threadReport cls f.cause f.info wg f.t f.pc f.word.toNat with clk := some f.clk }

/-- WORKGROUP_FATAL (R407, R411, R445): the workgroup that faulted ends with its record, and its gang with it. -/
def execWorkgroupFatal (wg : Nat) (s : State) : Res :=
  .next (match Tbl.get? s.wgs wg with
    | none => s
    | some g =>
      match g.ended with
      | none => s
      | some f =>
        if g.stopping then s
        else
          let s1 := (s.stopWg wg f).report g.part g.dom (f.report s 2 wg)
          if g.stack.isSome then s1.due (.event (.blockComplete wg))
          else
            let s2 := (s1.countFatal g f).due (.event (.workgroupRetire wg))
            let others := (g.gangIds.filterMap (fun w => Tbl.get? s2.wgs w)).filter (fun h => h.id != wg && !h.retired && !h.stopping)
            others.foldl (fun s h => s.endMember f h) s2)

/-! ## REGION_FATAL (R410) -/

/-- R410: what a region-fatal fault does to its domain, once its record is written. -/
def State.haltDomain (s : State) (part dom : Nat) (f : FaultInfo) : State :=
  let s1 :=
    if s.saveArea part = 0 then s
    else
      let at_ := s.saveArea part + 512 + 8 * (dom / 64)
      let m := (s.peek at_ 1).getD 0 0
      if nbit m (dom % 64) then s else s.putDouble at_ (m + 2 ^ (dom % 64))
  let gs := (Tbl.vals s1.wgs).filter (fun g => g.part == part && g.dom == dom && g.stack.isNone && !g.retired && !g.stopping)
  let s2 := gs.foldl (fun s g => ((s.stopWg g.id f).countFatal g f).due (.event (.workgroupRetire g.id))) s1
  let waiting := fun (r : EReq) => !r.begun || s2.stackTbl.any (fun k => k.2.calls.any (fun c => c.req == r.id))
  let rs := (Tbl.vals s2.reqs).filter (fun r => r.part == part && r.dom == dom && r.wg != 0 && waiting r)
  rs.foldl (fun s r => (s.dropReq r.id).freeGang r.gang) s2

/-- R410: one region-fatal fault: a domain that is halted already has its record. -/
def State.regionFault (s : State) (x : RegionFault) : State :=
  if s.domHalted x.part x.dom then s
  else
    let f := x.info
    let rep := if x.wg = 0 then { Report.plain 3 f.cause f.info with clk := some f.clk } else f.report s 3 x.wg
    (s.report x.part x.dom rep).haltDomain x.part x.dom f

/-- REGION_FATAL (R410, R411, R426). -/
def execRegionFatal (s : State) : Res :=
  .next (s.regionFaults.foldl State.regionFault { s with regionFaults := [] })

/-- COUNTER_ADD_FAIL (R482): one class-3 record for each increment that could not be made, and its domain is region-fatal. -/
def execCounterAddFail (s : State) : Res :=
  .next (s.failedAdds.foldl (fun s a =>
    (s.report a.part a.dom (Report.plain 3 0x66 a.addr)).haltDomain a.part a.dom ⟨0x66, a.addr, 0, 0, 0#32, s.clk⟩) { s with failedAdds := [] })

/-! ## Capacity records (R480) -/

/-- CAPACITY_RECORD (R480): written to the die's ring where that has room; vector 16 follows. -/
def State.capacity (s : State) (die unit kind remain where_ : Nat) : State :=
  let p := (s.die die).power
  let ring := nbits p.capring.toNat 51 0
  let slots := 2 ^ nbits p.capring.toNat 55 52
  let tail := p.captail.toNat
  let s1 :=
    if (tail + 2 ^ 32 - p.caphead.toNat) % 2 ^ 32 = slots then s
    else (s.putBytes die (ring + 32 * (tail % slots))
        (leBytes 8 (kind + unit * 2 ^ 4 + min remain 15 * 2 ^ 12) ++ leBytes 8 0 ++ leBytes 8 where_ ++ leBytes 8 s.clk)).modPower die
      (fun p => { p with captail := p.captail + 1 })
  s1.msix 16

/-! ## Clusters (R15, R462, R479) -/

/-- R477: reserve clusters of a die that are unused. -/
def Power.reserves (p : Power) : Nat := nbits p.spares.toNat 1 0

/-- R479: a cluster is marked for replacement. -/
def State.markCluster (s : State) (cl : Nat) : State :=
  if (s.cluster cl).replace || s.removed.contains cl then s
  else
    let die := dieOfCluster cl
    let s1 := (s.modCluster cl (fun c => { c with replace := true })).capacity die 0 3 (s.die die).power.reserves cl
    s1.due (.event (.clusterSubstitute cl))

/-- R479: the clusters that have had their second uncorrectable error are marked. -/
def State.markClusters (s : State) : State :=
  s.clusters.foldl (fun s c => if 2 ≤ c.2.errors then s.markCluster c.1 else s) s

/-- R462: no partition is resident on the cluster's cores. -/
def State.clusterFree (s : State) (cl : Nat) : Bool :=
  (List.range 8).all (fun p => !(s.part p).resident || !(s.part p).cores.any (fun c => clusterOf c == cl))

/-- CLUSTER_SUBSTITUTE (R15, R462, R479, R480): a marked cluster on which no partition is resident is replaced by a reserve
cluster of its die; without one, its cores leave every core mask. DESIGN CHOICE (log entry 85): the record of the cluster is new, and its
cores keep their scratchpad bytes, poison marks and L1 lines, of which the manual says nothing. -/
def execClusterSubstitute (cl : Nat) (s : State) : Res :=
  .next (if !(s.cluster cl).replace || !s.clusterFree cl then s
    else
      let die := dieOfCluster cl
      let n := (s.die die).power.reserves
      if 0 < n then
        let s1 := s.modCluster cl (fun _ => Cluster.reset (26 - n))
        let s2 := s1.modPower die (fun p => { p with spares := p.spares - 1 })
        State.capacity { s2 with reserveUsed := s2.reserveUsed ++ [cl] } die 0 1 (n - 1) cl
      else
        let s1 := { s with removed := s.removed ++ [cl] }
        let s2 := (List.range 8).foldl (fun s p => s.modPart p (fun x => { x with
          cmask := (List.range 3).map (fun k => BitVec.ofNat 64 (s.coreMask k (x.cmask.getD k 0#64).toNat)) })) s1
        (s2.modCluster cl (fun c => { c with replace := false })).capacity die 0 2 0 cl)

/-! ## DRAM rows (R130, R462, R479) -/

/-- A row of a stack as R480 names it: pseudo-channel, bank and row. -/
def rowName (spa : Nat) : Nat := spaPch spa * 2 ^ 24 + (spaBank spa * 4 + spaBg spa) * 2 ^ 20 + spaRow spa

/-- ROW_RETIRE (R462, R479, R480): a row moves to a spare row of its bank, or its bank to a spare bank; without either it stays in
use. The bytes do not change. -/
def execRowRetire (stack row : Nat) (s : State) : Res :=
  let st := s.stack stack
  let die := dieOfStack stack
  let bank := row / 2 ^ 20
  let used := Tbl.getD st.rowsUsed bank 0
  .next (if used < Config.spareRows stack then
      (s.modStack stack (fun x => { x with
        retired := (x.retired ++ [row]).eraseDups, rowsUsed := Tbl.put x.rowsUsed bank (used + 1), rowErrs := Tbl.del x.rowErrs row })).capacity
        die 1 1 (Config.spareRows stack - used - 1) (stack * 2 ^ 32 + row)
    else if st.banksUsed < Config.spareBanks stack then
      (s.modStack stack (fun x => { x with
        rowsUsed := Tbl.put x.rowsUsed bank 0, banksUsed := x.banksUsed + 1, retired := x.retired.filter (fun r => r / 2 ^ 20 != bank),
        rowErrs := Tbl.del x.rowErrs row })).capacity die 2 1 (Config.spareBanks stack - st.banksUsed - 1) (stack * 2 ^ 32 + row)
    else if st.spent.contains row then s
    else (s.modStack stack (fun x => { x with spent := x.spent ++ [row] })).capacity die 1 2 0 (stack * 2 ^ 32 + row))

/-! ## Storage errors (R409, R459, R477) -/

/-- R459: the tile that a cluster's pass or sampling works on is poisoned whole, and is so again after each pass of that request. -/
def State.liveTile (s : State) (cl : Nat) : State :=
  let c := s.cluster cl
  match (match c.smx with
    | some r => some r
    | none => c.granted) with
  | none => s
  | some id =>
    match s.req id with
    | none => s
    | some r => (s.modTile cl r.q (fun t => t.damage true)).modReq id (fun x => { x with damaged := true })

/-- R459: blocks of memory that a damaged dirty line covered are poisoned. -/
def State.poisonLine (s : State) (l : Line) : State :=
  ((l.dirty.map (fun o => o / 64)).eraseDups).foldl (fun s b => s.poisonAt (l.tag * 128 + 64 * b) 1) s

/-- UNCORRECTABLE_ERROR (R409, R459): at the site that the event names. A cluster's error counts when it raises its cause (R479). -/
def State.uncorrectable (s : State) : ErrSite → State
  | .instrCache c => s.modCore c (fun x => { x with l1i := [] })
  | .regFile wg t r =>
    s.modThr wg t (fun x => { x with badRegs := (x.badRegs ++ [r]).eraseDups })
  | .scratch core off => s.modCore core (fun x => { x with scrPoison := (x.scrPoison ++ [off / 4]).eraseDups })
  | .accumulator cl tile row col =>
    s.modTile cl tile (fun t => { t with poison := (t.poison ++ [row % 64 * 64 + col % 64]).eraseDups })
  | .matrixTable cl => s.liveTile cl
  | .l1 core line =>
    match findLine line (s.core core).l1d with
    | some l => (s.modCore core (fun x => { x with l1d := x.l1d.filter (fun y => y.tag != line) })).poisonLine l
    | none => s
  | .l2 die line =>
    match findLine line (s.die die).l2 with
    | some l =>
      let s1 := s.modDie die (fun d => { d with l2 := d.l2.filter (fun x => x.tag != line) })
      s1.lineBack { l with poison := [0, 1] }
    | none => s
  | .msc k block =>
    match findLine block (s.stack k).msc with
    | some l =>
      let s1 := s.modStack k (fun x => { x with msc := x.msc.filter (fun y => y.tag != block) })
      if l.dirty.isEmpty then s1 else { s1 with dramPoison := (s1.dramPoison ++ [dkey k (64 * block) / 64]).eraseDups }
    | none => s
  | .dram k spa =>
    State.due { s with dramPoison := (s.dramPoison ++ [dkey k spa / 64]).eraseDups } (.event (.rowRetire k (rowName spa)))
  | .shadow part _ => if (s.part part).saved then s.modPart part (fun p => { p with shadow := { p.shadow with bad := true } }) else s

def execUncorrectableError (s : State) : Res :=
  .next (match s.msg.err with
    | some e => s.uncorrectable e
    | none => s)

/-- R477: one more corrected error of a kind (0 register file and scratchpad, 1 caches and accumulators, 2 DRAM, 3 links). -/
def State.countCorrected (s : State) (die kind : Nat) : State :=
  s.modPower die (fun p =>
    let x := p.cecnt.toNat
    if nbits x (16 * kind + 15) (16 * kind) = 0xFFFF then p else { p with cecnt := BitVec.ofNat 64 (x + 2 ^ (16 * kind)) })

/-- R479: a cluster's corrected error. -/
def State.clusterCorrected (s : State) (core kind : Nat) : State :=
  let s1 := s.countCorrected (dieOf core) kind
  if isRhizoid core then s1
  else
    let cl := clusterOf core
    let s2 := s1.modCluster cl (fun c => { c with corrected := c.corrected + 1 })
    if 4096 ≤ (s2.cluster cl).corrected then s2.markCluster cl else s2

/-- CORRECTED_ERROR (R459, R477, R479): the error is corrected and counted; one without a site is a link's, of die `msg.src`. -/
def execCorrectedError (s : State) : Res :=
  .next (match s.msg.err with
    | none => s.countCorrected s.msg.src 3
    | some (.instrCache c) => s.clusterCorrected c 1
    | some (.regFile wg t _) => s.clusterCorrected (s.coreOfThread wg t) 0
    | some (.scratch c _) => s.clusterCorrected c 0
    | some (.accumulator cl ..) => s.clusterCorrected (4 * cl) 1
    | some (.matrixTable cl) => s.clusterCorrected (4 * cl) 1
    | some (.l1 c _) => s.clusterCorrected c 1
    | some (.l2 d _) => s.countCorrected d 1
    | some (.msc k _) => s.countCorrected (dieOfStack k) 1
    | some (.dram k spa) =>
      let row := rowName spa
      let s1 := (s.countCorrected (dieOfStack k) 2).modStack k (fun x => { x with
        rowErrs := Tbl.put x.rowErrs row (Tbl.getD x.rowErrs row 0 + 1) })
      if 16 ≤ Tbl.getD (s1.stack k).rowErrs row 0 then s1.due (.event (.rowRetire k row)) else s1
    | some (.shadow ..) => s)

/-! ## Peers and links (R374, R375, R454 to R456) -/

/-- R456: a peer is lost: the domains with an access to it outstanding are region-fatal, and the stores on their way to it are dropped. -/
def State.losePeer (s : State) (d : Nat) : State :=
  let out := s.peerReqs.filter (fun r => r.dev == d && decide (r.part < 8))
  let s1 := { s with lost := (s.lost.filter (· != d)) ++ [d], peerReqs := s.peerReqs.filter (fun r => r.dev != d) }
  let s2 := out.foldl (fun s r => s.raiseRegion r.part r.dom 0 ⟨0x68, r.tries * 2 ^ 60 + d, 0, 0, 0#32, s.clk⟩) s1
  (Tbl.keys s2.cores).foldl (fun s c => s.dropStores c d) s2

/-- R455: cc without a response before a request is tried again. -/
def retryCc : Nat := 18000

/-- R455: some access still waits for the answer of a request. -/
def State.awaited (s : State) (r : PeerReq) : Bool := decide (portWait ≤ r.id) || (s.findAccess r.id).isSome

/-- PEER_RETRY (R375, R455, R456): a request that has waited 10 µs is tried again on the next port; after its fourth try the peer is lost. The
request of an access that has ended is over. -/
def execPeerRetry (id : Nat) (s : State) : Res :=
  .next (match s.peerReqs.find? (fun r => r.id == id) with
    | none => s
    | some r =>
      if s.clk < r.sentAt + retryCc then s
      else if !s.awaited r then { s with peerReqs := s.peerReqs.filter (fun x => x.id != id) }
      else if 4 ≤ r.tries then s.losePeer r.dev
      else { s with peerReqs := s.peerReqs.map (fun x => if x.id = id then { x with tries := x.tries + 1, sentAt := s.clk } else x) })

/-- PEER_LOST (R456): its switch reports the port of device `msg.src` down or reset. -/
def execPeerLost (s : State) : Res := .next (s.losePeer s.msg.src)

/-- The lanes of a port. -/
def lanesOf (m : Nat) : List Nat := (List.range 4).filter (nbit m)

/-- R454: cc of a retrain. -/
def retrainCc : Nat := 180000

/-- LANE_FAILURE (R454, R479): lane `msg.addr` of port `msg.src` fails: the spare takes its place, or the port runs on its two best
lanes; the port retrains. -/
def execLaneFailure (s : State) : Res :=
  let j := s.msg.src
  let lane := s.msg.addr % 4
  let p := s.ports.getD j Port.reset
  let die := j / 4
  let (s1, n) := s.draw
  let good := (lanesOf p.lanes).filter (· != lane)
  let best := if good.length ≤ 2 then good else good.eraseIdx (Config.bestLanes n % good.length)
  .next (if 8 ≤ j then s
    else if !p.spareUsed then
      let s2 := { s1 with ports := modAt s1.ports j (fun x => { x with up := false, spareUsed := true, retrain := some (s.clk + retrainCc) }) }
      (s2.modPower die (fun q => { q with spares := q.spares &&& ~~~(1#32 <<< (4 + j % 4)) })).capacity die 3 1 0 (j * 16 + lane)
    else
      let s2 := { s1 with ports := modAt s1.ports j (fun x => { x with
        up := false, lanes := (best.map (fun i => 2 ^ i)).foldl (· + ·) 0, retrain := some (s.clk + retrainCc) }) }
      s2.capacity die 3 2 0 (j * 16 + lane))

/-- LANE_RETRAIN_DONE (R454): the port is up again. -/
def execLaneRetrainDone (port : Nat) (s : State) : Res :=
  .next { s with ports := modAt s.ports port (fun p =>
    if p.retrain.isSome then { p with up := p.en && p.lanes != 0 && !s.tripped, retrain := none } else p) }

/-- UALINK_PORT_UP (R374): an enabled port `msg.src` has trained. -/
def execUalinkPortUp (s : State) : Res :=
  .next { s with ports := modAt s.ports s.msg.src (fun p =>
    if p.en && !s.tripped && p.retrain.isNone then { p with up := true, lanes := if p.lanes = 0 then 15 else p.lanes } else p) }

/-- CXL_LINK_DOWN (R458). -/
def execCxlLinkDown (s : State) : Res := .next { s with cxlUp := false }

/-- CXL_LINK_UP (R458). -/
def execCxlLinkUp (s : State) : Res := .next (if s.tripped then s else { s with cxlUp := true })

end Sys2Proof.Machine
end

