-- ==== Sys2Proof/Machine/Host.lean ====
section
/-! DEFINITION. The host, the peers and the root of trust: CXL.mem, snoops, BARs, MSI-X, peer requests, reset and SPDM (spec 13, 19;
R136 to R138, R366 to R376, R435, R458, R460, R473 to R476). Each event reads `State.msg`. -/

namespace Sys2Proof.Machine

/-- R473, R474, R478: the device is not in state 3. In state 8 it serves only the configuration space, BOOTST and GET_VERSION; before, nothing. -/
def State.failed (s : State) : Bool := s.tripped || decide (s.bootStep < 5)

/-- R473: the reset sequence goes on. -/
def State.booting (s : State) : Bool := !s.tripped && decide (s.bootStep < 5)

/-! ## CXL.mem (R138, R369, R435, R460) -/

/-- R127, R138, R369: the IA of a host physical address in the window, which lies in region 0x0 or 0x1. A decoder whose size is above 512 GiB
gives no window (DESIGN CHOICE, log entry 17). -/
def State.windowIa (s : State) (hpa : Nat) (write : Bool) : Except MErr (State × Nat) :=
  if s.hdmBase ≤ hpa ∧ hpa < s.hdmBase + s.hdmSize ∧ s.hdmSize ≤ 2 ^ 39 then
    match s.iaWalk 10 (nbits s.cmroot.toNat 51 0) (hpa - s.hdmBase) write with
    | .error e => .error e
    | .ok (s1, ia) => if nbits ia 51 48 ≤ 1 ∧ iaOk ia = true then .ok (s1, ia) else .error .refused
  else .error .refused

/-- An answer of `n` bytes with poison. An error that belongs to no domain reaches the host only so. -/
def hostPoisoned (n : Nat) : Out := .hostData (List.replicate n 0#8) true

/-- R460: what a link's write of `n` bytes at an IA leaves: poisoned blocks where it came with a poison indication. -/
def State.linkPoison (s : State) (ia n : Nat) : State := if s.msg.poison then s.poisonAt ia n else s

/-- HOST_MEM_READ (R138, R369, R435, R458): `msg.len` bytes at `msg.addr`; a page that is not resident answers with poison. -/
def execHostMemRead (s : State) : Res :=
  let n := s.msg.len
  .next (if s.failed || !s.cxlUp then s
    else match s.windowIa s.msg.addr false with
      | .error _ => s.emit (hostPoisoned n)
      | .ok (s1, ia) =>
        match s1.iaRead ia n (n / 16 + 2) with
        | .error _ => s1.emit (hostPoisoned n)
        | .ok (s2, d, p) => s2.emit (.hostData d p))

/-- HOST_MEM_WRITE (R138, R369, R435, R460): performed at the home before its completion; a write to a page that is not resident is
lost. -/
def execHostMemWrite (s : State) : Res :=
  .next (if s.failed || !s.cxlUp then s
    else match s.windowIa s.msg.addr true with
      | .error _ => s.emit (.hostData [] true)
      | .ok (s1, ia) =>
        match s1.iaWrite 0 ia s.msg.data (s.msg.data.length / 16 + 2) with
        | .error _ => s1.emit (.hostData [] true)
        | .ok s2 => (s2.linkPoison ia s.msg.data.length).emit (.hostData [] false))

/-! ## CXL.cache snoops (R136, R368) -/

/-- R136: an L2 line of the host aperture that a host physical line backs. -/
def State.backedBy (s : State) (hpa : Nat) (l : Line) : Bool :=
  iaIsHost (l.tag * 128) && (match s.resolve (l.tag * 128) false with
    | .ok (_, .host a) => a / 128 == hpa / 128
    | _ => false)

/-- HOST_SNOOP (R368, R458, R460): a snoop that invalidates drops the L2 copies of the line on both dies; where the host writes the line, it
holds the new bytes from then on, poisoned or not. -/
def execHostSnoop (s : State) : Res :=
  let a := s.msg.addr
  .next (if s.failed then s
    else
      let s1 := { s with dies := Tbl.each s.dies (fun _ d => { d with l2 := d.l2.filter (fun l => !s.backedBy a l) }) }
      let s2 := if s.msg.write then { s1 with
          hostMem := (s.msg.data.zip (rangeFrom a s.msg.data.length)).foldl (fun m p => Tbl.put m p.2 p.1) s1.hostMem,
          hostPoison := s1.hostPoison.filter (fun b => !overlaps (64 * b) 64 a s.msg.data.length) ++
            (if s.msg.poison then rangeFrom (a / 64) ((a % 64 + s.msg.data.length + 63) / 64) else []) }
        else s1
      s2.emit (.snoopDone a))

/-! ## BARs (R364, R367, R372) -/

/-- R367: the MSI-X table: 16 bytes for each vector (address, data, control), and the pending bits at 0x2000. -/
def State.bar4Read (s : State) (off : Nat) : Nat :=
  let word := fun o =>
    if o < 1024 then
      if o % 16 = 12 then (if s.msixMask.getLsbD (o / 16) then 1 else 0) else (Tbl.getD s.msixTable (o / 4) 0#32).toNat
    else if o = 0x2000 then s.msixPend.toNat % 2 ^ 32
    else if o = 0x2004 then s.msixPend.toNat / 2 ^ 32
    else 0
  if s.msg.len = 8 then word off + 2 ^ 32 * word (off + 4) else word off

/-- R367, R372: one word of the MSI-X table; a cleared mask bit unmasks its vector. -/
def State.bar4Word (s : State) (o v : Nat) : State :=
  if 1024 ≤ o then s
  else if o % 16 = 12 then
    if nbit v 0 then { s with msixMask := s.msixMask ||| (1#64 <<< (o / 16)) }
    else State.dueNext { s with msg := { s.msg with src := o / 16 } } [.event .msixUnmask]
  else { s with msixTable := Tbl.put s.msixTable (o / 4) (BitVec.ofNat 32 v) }

def State.bar4Write (s : State) (off v : Nat) : State :=
  if s.msg.len = 8 then (s.bar4Word off (v % 2 ^ 32)).bar4Word (off + 4) (v / 2 ^ 32) else s.bar4Word off v

/-! ### BAR2 (R366, R367, R369; PRESUMED, log entry 17): the component registers as the CXL standard lays them out -/

/-- Offsets of the capability array and of the RAS, link and HDM decoder blocks. -/
def cxlArray : Nat := 0x1000
def cxlRas : Nat := 0x1100
def cxlLinkAt : Nat := 0x1180
def cxlHdm : Nat := 0x1200

/-- What a read-write word of the RAS and decoder blocks holds until the host writes it: the masks and the severity are all ones. -/
def cxlDefault (o : Nat) : Word :=
  if o = cxlRas + 4 ∨ o = cxlRas + 8 then 0x0001CFFF#32
  else if o = cxlRas + 16 then 0x0000007F#32
  else 0#32

/-- The word at an offset of BAR2: the array names the three blocks. -/
def State.bar2Word (s : State) (o : Nat) : Word :=
  if o = cxlArray then 0x03110001#32
  else if o = cxlArray + 4 then 0x10020002#32
  else if o = cxlArray + 8 then 0x18020004#32
  else if o = cxlArray + 12 then 0x20010005#32
  else if o = cxlHdm + 16 then BitVec.ofNat 32 (nbits s.hdmBase 31 28 * 2 ^ 28)
  else if o = cxlHdm + 20 then BitVec.ofNat 32 (s.hdmBase / 2 ^ 32)
  else if o = cxlHdm + 24 then BitVec.ofNat 32 (nbits s.hdmSize 31 28 * 2 ^ 28)
  else if o = cxlHdm + 28 then BitVec.ofNat 32 (s.hdmSize / 2 ^ 32)
  else if o ∈ [cxlLinkAt, cxlLinkAt + 4, cxlLinkAt + 24, cxlLinkAt + 28, cxlLinkAt + 32, cxlLinkAt + 36] then Config.cxlLink (o - cxlLinkAt) s.clk
  else Tbl.getD s.cxlRegs o (cxlDefault o)

/-- The read-write words of the three blocks. -/
def cxlWritable (o : Nat) : Bool :=
  o ∈ [cxlRas + 4, cxlRas + 8, cxlRas + 16, cxlRas + 20, cxlLinkAt + 8, cxlLinkAt + 12, cxlLinkAt + 16, cxlLinkAt + 20, cxlLinkAt + 40, cxlLinkAt + 44,
    cxlLinkAt + 48, cxlLinkAt + 52, cxlHdm + 4, cxlHdm + 32]

/-- A host write of a word of BAR2. The status words of the RAS block are cleared by ones and are never set: no event of the manual sets
one. -/
def State.bar2Put (s : State) (o v : Nat) : State :=
  if o = cxlHdm + 16 then { s with hdmBase := s.hdmBase / 2 ^ 32 * 2 ^ 32 + nbits v 31 28 * 2 ^ 28 }
  else if o = cxlHdm + 20 then { s with hdmBase := v * 2 ^ 32 + s.hdmBase % 2 ^ 32 }
  else if o = cxlHdm + 24 then { s with hdmSize := s.hdmSize / 2 ^ 32 * 2 ^ 32 + nbits v 31 28 * 2 ^ 28 }
  else if o = cxlHdm + 28 then { s with hdmSize := v * 2 ^ 32 + s.hdmSize % 2 ^ 32 }
  else if cxlWritable o then { s with cxlRegs := Tbl.put s.cxlRegs o (BitVec.ofNat 32 v) }
  else s

def State.bar2Read (s : State) (off : Nat) : Nat :=
  if s.msg.len = 8 then (s.bar2Word off).toNat + 2 ^ 32 * (s.bar2Word (off + 4)).toNat else (s.bar2Word off).toNat

def State.bar2Write (s : State) (off v : Nat) : State :=
  if s.msg.len = 8 then (s.bar2Put off (v % 2 ^ 32)).bar2Put (off + 4) (v / 2 ^ 32 % 2 ^ 32) else s.bar2Put off (v % 2 ^ 32)

/-! ### The configuration space (R367; PRESUMED, log entry 17) -/

/-- R367: a word of the configuration space: the register locator DVSEC, which places the component registers (block 1) at the start of BAR2;
every other word is a free value. -/
def cfgWord (o : Nat) : Word :=
  if o = 0x100 then 0x00010023#32
  else if o = 0x104 then 0x01401E98#32
  else if o = 0x108 then 0x00000008#32
  else if o = 0x10C then 0x00000102#32
  else if o = 0x110 then 0#32
  else Config.cfgSpace o

/-- R367: the number of the system register at an offset of BAR0. -/
def bar0Number (off : Nat) : Option Nat := if off % 8 = 0 ∧ 0x8000 ≤ off ∧ off < 0x20000 then some (off / 8) else none

/-- The value that the host reads at an offset of a BAR. -/
def State.barRead (s : State) (bar off : Nat) : Nat :=
  if bar = 0 then
    match bar0Number off with
    | some n => if s.failed && n != 0x3018 && n != 0x3098 then 0 else (s.sysRead .host n).getD 0
    | none => 0
  else if s.failed then 0
  else if bar = 2 then s.bar2Read off
  else if bar = 4 then s.bar4Read off
  else 0

/-- A host write at an offset of a BAR. -/
def State.barWrite (s : State) (bar off v : Nat) : State :=
  if s.failed then s
  else if bar = 0 then
    match bar0Number off with
    | some n => s.sysWrite .host n v
    | none => s
  else if bar = 2 then s.bar2Write off v
  else if bar = 4 then s.bar4Write off v
  else s

/-- `msg.op` of an access to the configuration space, where no BAR has that number. -/
def cfgOp : Nat := 7

/-- HOST_REGISTER_ACCESS (R363, R364, R367, R473): BAR `msg.op`, or the configuration space, offset `msg.addr`. Before the reset sequence has
ended, configuration requests are to be retried and BAR accesses are not decoded. -/
def execHostRegisterAccess (s : State) : Res :=
  .next (if s.booting then (if s.msg.op = cfgOp then s.emit .hostRetry else s)
    else if s.msg.op = cfgOp then
      (if s.msg.write then s else s.emit (.hostReg (BitVec.zeroExtend 64 (cfgWord s.msg.addr))))
    else if s.msg.write then s.barWrite s.msg.op s.msg.addr s.msg.val.toNat
    else s.emit (.hostReg (BitVec.ofNat 64 (s.barRead s.msg.op s.msg.addr))))

/-- MSIX_UNMASK (R372): vector `msg.src` is unmasked; a pending one sends one message. -/
def execMsixUnmask (s : State) : Res :=
  let v := s.msg.src
  let s1 := { s with msixMask := s.msixMask &&& ~~~(1#64 <<< v), msixPend := s.msixPend &&& ~~~(1#64 <<< v) }
  .next (if s.msixPend.getLsbD v then s1.emit (.msix v) else s1)

/-! ## Peers (R137, R214, R373, R376) -/

/-- R376: the pieces of a write at aligned 64-byte boundaries are all reduction writes. -/
def piecesOk (ia : Nat) : Nat → Nat → Bool
  | _, 0 => true
  | n, k + 1 =>
    if n = 0 then true
    else
      let m := min n (64 - ia % 64)
      redOk ia m && piecesOk (ia + m) (n - m) k

/-- PEER_READ (R137, R376, R435): `msg.len` bytes at peer offset `msg.addr`. -/
def execPeerRead (s : State) : Res :=
  let n := s.msg.len
  .next (if s.failed then s
    else match s.peerImport s.msg.addr false with
      | .error _ => s.emit (.peerRefused s.msg.src)
      | .ok (s1, ia) =>
        match s1.iaRead ia n (n / 16 + 2) with
        | .error _ => s1.emit (.peerRefused s.msg.src)
        | .ok (s2, d, p) => s2.emit (.peerData s.msg.src d p))

/-- R455: the answer to a write or an atomic of a peer that has been performed before. -/
def State.peerKnown (s : State) : Option Out :=
  (s.peerDone.find? (fun x => x.1 == s.msg.src && x.2.1 == s.msg.tag)).map (fun x => x.2.2)

/-- R455: a write or an atomic of a peer has been performed; its answer is kept for a retry. -/
def State.peerAnswer (s : State) (o : Out) : State :=
  State.emit { s with peerDone := s.peerDone ++ [(s.msg.src, s.msg.tag, o)] } o

/-- PEER_WRITE (R137, R214, R376, R455, R460): a store, or a reduction write where the target IA lies in region 0x2; a retry is only answered. -/
def execPeerWrite (s : State) : Res :=
  let d := s.msg.data
  .next (if s.failed then s
    else match s.peerKnown with
    | some o => s.emit o
    | none => match s.peerImport s.msg.addr true with
      | .error _ => s.emit (.peerRefused s.msg.src)
      | .ok (s1, ia) =>
        if nbits ia 51 48 == 2 && !piecesOk ia d.length (d.length / 16 + 2) then s.emit (.peerRefused s.msg.src)
        else match s1.iaWrite (dieOfStack (iaStack ia)) ia d (d.length / 16 + 2) with
          | .error _ => s.emit (.peerRefused s.msg.src)
          | .ok s2 => (s2.linkPoison ia d.length).peerAnswer (.peerData s.msg.src [] false))

/-- PEER_ATOMIC (R156, R304, R373, R376, R455): operation `msg.op` on a double or on one of its words; the old value is the answer, which a retry
is given again. -/
def execPeerAtomic (s : State) : Res :=
  let n := if s.msg.half = 0 then 8 else 4
  .next (if s.failed then s
    else match s.peerKnown with
    | some o => s.emit o
    | none => match s.peerImport (s.msg.addr + (s.msg.half - 1) * 4) true with
      | .error _ => s.emit (.peerRefused s.msg.src)
      | .ok (s1, ia) =>
        if nbits ia 51 48 == 2 || s.msg.addr % 8 != 0 || s.msg.len != 8 || decide (2 < s.msg.half) || decide (12 < s.msg.op) then
          s.emit (.peerRefused s.msg.src)
        else match s1.atomicHome (dieOfStack (iaStack ia)) ia n s.msg.op (s.msg.val.toNat % 2 ^ (8 * n)) (s.msg.cmp.toNat % 2 ^ (8 * n)) with
          | .error _ => s.emit (.peerRefused s.msg.src)
          | .ok (s2, d, p) => s2.peerAnswer (.peerData s.msg.src d p))

/-! ## Reset (R473, R474, R479) -/

/-- R474: the bytes of an image after its header. -/
def Image.rest (i : Image) : List Byte := i.flash.take i.length

/-- R474: the root accepts an image. -/
def State.accepts (s : State) (i : Image) : Bool :=
  Config.sm3 i.key == s.keyDigest && Config.sm2Verify i.key (Config.sm3 i.rest) i.sig && decide (s.svnFloor ≤ i.svn)

/-- R474: the slot that the root accepts, with its SVN. -/
def State.firmware (s : State) : Option (Nat × Nat) :=
  if s.accepts s.slotA then some (0, s.slotA.svn)
  else if s.accepts s.slotB then some (1, s.slotB.svn)
  else none

/-- R473 step 1, R479: what the fuses keep of repairs. -/
def keepRepairs (old new : State) : State :=
  let s1 := (List.range 2).foldl (fun s d => s.modPower d (fun p => { p with spares := (old.die d).power.spares })) new
  let s2 := (List.range 48).foldl (fun s c =>
    if (old.cluster c).physical = c % 24 then s else s.modCluster c (fun x => { x with physical := (old.cluster c).physical })) s1
  let s3 := (List.range 8).foldl (fun s k =>
    let o := old.stack k
    if o.retired.isEmpty && o.banksUsed = 0 && o.rowsUsed.isEmpty then s
    else s.modStack k (fun x => { x with retired := o.retired, rowsUsed := o.rowsUsed, banksUsed := o.banksUsed })) s2
  { s3 with
    reserveUsed := old.reserveUsed, removed := old.removed,
    ports := s3.ports.zipWith (fun p o => { p with spareUsed := o.spareUsed }) old.ports }

/-- R473: the boot state and what was booted, in the two dies. -/
def State.bootBoth (s : State) (st slot svn : Nat) : State :=
  (List.range 2).foldl (fun t d => t.modPower d (fun p => { p with bootst := st, bootSlot := slot, bootSvn := svn })) s

/-- R473: every field at its reset value; what is outside the device, the flash slots and the fuses stay. -/
def State.cleared (s : State) : State :=
  { State.reset with
    inbox := s.inbox, outbox := s.outbox, draws := s.draws, hostMem := s.hostMem, hostPoison := s.hostPoison, peerMem := s.peerMem,
    slotA := s.slotA, slotB := s.slotB, fuseIdx := s.fuseIdx, keyDigest := s.keyDigest, svnFloor := s.svnFloor }

/-- R473: the first temperature of a die, read in step 3; the allowance of the window that goes on is set anew from it. -/
def Power.firstReading (p : Power) (temp : Word) (clk : Nat) : Power := Power.startWindow (p.take temp clk)

/-- R473, R474: a step of the reset sequence ends. The fuses are loaded; the root accepts an image or the device stays down; firmware takes
the first temperature; memory and arrays are zero, as `State.reset` has them already; the device is ready, and a newer image raises the
floor. -/
def State.bootNext (s : State) : State :=
  let t := { s with bootStep := s.bootStep + 1 }
  let p := (s.die 0).power
  match s.bootStep with
  | 0 => State.bootBoth { t with devidx := s.fuseIdx } 1 0 0
  | 1 => match s.firmware with
    | some (slot, svn) => t.bootBoth 2 slot svn
    | none => State.bootBoth { t with tripped := true } 8 0 0
  | 2 => (List.range 2).foldl (fun t d => t.modPower d (fun p => p.firstReading (windowTemp d (s.clk / Config.windowCc)) s.clk)) t
  | 3 => t
  | _ => State.bootBoth { t with svnFloor := max s.svnFloor p.bootSvn } 3 p.bootSlot p.bootSvn

/-- R473: the bounds of the five steps after reset, in cc. -/
def bootBounds : List Nat := [1800000, 108000000, 1080000000, 1440000000, 3600000000]

/-- A cc of the reset sequence: the step that runs ends where a free value says so, and at its bound (DESIGN CHOICE, log entry 70). Once
temperatures are taken the power windows run (R478). -/
def State.bootTick (s : State) : State :=
  let t := if decide (bootBounds.getD s.bootStep 0 ≤ s.clk) || Config.bootDone s.clk s.bootStep then s.bootNext else s
  if t.bootStep < 3 ∨ t.tripped = true then t
  else { t with agenda := (if t.tooHot then [.event .thermalTrip] else []) ++
    (if t.clk % Config.windowCc = 0 then [.event .powerWindowStart] else []) }

/-- The reset sequence is over. Work that is placed in a machine that has not yet come so far (log entry 70) finds it here. -/
def State.booted (s : State) : State := if s.booting then State.bootBoth { s with bootStep := 5 } 3 0 0 else s

/-- RESET (R473, R474): the first cycle of the sequence; what the fuses say of repairs is loaded in its first step, before anything reads it. -/
def execResetDevice (s : State) : Res := .next (keepRepairs s s.cleared)

/-! ## SPDM (R475, R476) -/

/-- The response of the responder to the request `msg.data`, kept in the transcript. -/
def State.answer (s : State) (resp : List Byte) : State :=
  State.emit { s with spdm := { s.spdm with transcript := s.spdm.transcript ++ s.msg.data ++ resp } } (.spdm resp)

/-- R473, R474: a DOE request that is not served: in the reset sequence it is to be retried, as every configuration request is. -/
def State.unserved (s : State) : State := if s.booting then s.emit .hostRetry else s

/-- An ERROR response: unexpected request. -/
def spdmUnexpected : List Byte := [0x13#8, 0x7F#8, 0x04#8, 0#8]

/-- SPDM_GET_VERSION (R475): version 1.3; the connection begins anew. -/
def execSpdmGetVersion (s : State) : Res :=
  .next (if s.booting then s.unserved
    else State.answer { s with spdm := ⟨true, false, false, []⟩ } [0x10#8, 0x04#8, 0#8, 0#8, 0#8, 1#8, 0x00#8, 0x13#8])

/-- SPDM_GET_CAPABILITIES (R475): certificates, challenge and signed measurements; no key exchange. SPDM 1.3 gives the response 20 bytes. -/
def execSpdmGetCapabilities (s : State) : Res :=
  .next (if s.failed then s.unserved
    else if !s.spdm.version then s.emit (.spdm spdmUnexpected)
    else State.answer { s with spdm := { s.spdm with caps := true } }
      ([0x13#8, 0x61#8, 0#8, 0#8, 0#8] ++ leBytes 1 (Config.spdmSize 0) ++ leBytes 2 0 ++ leBytes 4 0x16 ++ leBytes 4 (Config.spdmSize 1) ++
        leBytes 4 (Config.spdmSize 2)))

/-- SPDM_NEGOTIATE_ALGORITHMS (R475): SM2_P256 and SM3_256 only. -/
def execSpdmNegotiateAlgorithms (s : State) : Res :=
  .next (if s.failed then s.unserved
    else if !s.spdm.caps then s.emit (.spdm spdmUnexpected)
    else State.answer { s with spdm := { s.spdm with algs := true } }
      ([0x13#8, 0x63#8, 0#8, 0#8] ++ leBytes 2 36 ++ leBytes 2 1 ++ leBytes 4 0x80 ++ leBytes 4 0x200 ++ leBytes 4 0x40 ++
        List.replicate 16 0#8))

/-- R474: the accepted image. -/
def State.image (s : State) : Image := if (s.die 0).power.bootSlot = 0 then s.slotA else s.slotB

/-- R475: the certificate chain of a slot: the alias key of slot 1 is derived from the digest of the accepted image. -/
def State.chain (s : State) (slot : Nat) : List Byte :=
  Config.certChain slot (if slot = 0 then [] else Config.sm3 s.image.rest)

/-- SPDM_GET_DIGESTS (R475): slots 0 and 1. -/
def execSpdmGetDigests (s : State) : Res :=
  .next (if s.failed then s.unserved
    else if !s.spdm.algs then s.emit (.spdm spdmUnexpected)
    else s.answer ([0x13#8, 0x01#8, 0x03#8, 0x03#8] ++ Config.sm3 (s.chain 0) ++ Config.sm3 (s.chain 1)))

/-- Byte `i` of the request. -/
def State.reqByte (s : State) (i : Nat) : Nat := (s.msg.data.getD i 0#8).toNat

/-- SPDM_GET_CERTIFICATE (R475): a part of the chain of a slot. -/
def execSpdmGetCertificate (s : State) : Res :=
  let slot := s.reqByte 2 % 16
  let off := s.reqByte 4 + 256 * s.reqByte 5
  let len := s.reqByte 6 + 256 * s.reqByte 7
  let c := s.chain slot
  let part := (c.drop off).take len
  .next (if s.failed then s.unserved
    else if !s.spdm.algs || decide (1 < slot) then s.emit (.spdm spdmUnexpected)
    else s.answer ([0x13#8, 0x02#8, BitVec.ofNat 8 slot, 0#8] ++ leBytes 2 part.length ++ leBytes 2 (c.length - off - part.length) ++ part))

/-- R476, R479, R480: the spares in use: the clusters', the lanes', the rows' and the banks'. -/
def State.repairBytes (s : State) : List Byte :=
  (List.range 2).flatMap (fun d => leBytes 4 (s.die d).power.spares.toNat) ++ s.reserveUsed.flatMap (leBytes 1) ++
    (List.range 8).flatMap (fun k => leBytes 4 ((Tbl.vals (s.stack k).rowsUsed).foldl (· + ·) 0) ++ leBytes 4 (s.stack k).banksUsed)

/-- R473, R476: the reserve and repair maps in fuses: which physical cluster serves each logical one, the clusters removed, the rows and banks
moved to spares, and the spares. -/
def State.fuseMaps (s : State) : List Byte :=
  (List.range 48).flatMap (fun c => leBytes 1 (s.cluster c).physical) ++ s.removed.flatMap (leBytes 1) ++
    (List.range 8).flatMap (fun k => (s.stack k).retired.flatMap (leBytes 8)) ++ s.repairBytes

/-- R476: the measurement at an index. -/
def State.measure (s : State) (i : Nat) : List Byte :=
  Config.sm3 (if i = 1 then Config.rootRom
    else if i = 2 then s.image.rest ++ leBytes 4 s.image.svn
    else if i = 3 then Config.microcode s.image.rest
    else if i = 4 then leBytes 4 s.fuseIdx.toNat ++ leBytes 4 s.svnFloor ++ s.fuseMaps
    else s.repairBytes)

/-- A signed response: the nonce, the body, and the signature over the transcript. -/
def State.signed (s : State) (slot : Nat) (head body : List Byte) : State :=
  let (s1, n) := s.draw
  let r := head ++ Config.spdmNonce n ++ body
  s1.answer (r ++ Config.sm2Sign slot (s1.spdm.transcript ++ s.msg.data ++ r))

/-- SPDM_CHALLENGE (R475): the slot's certificate digest and the digest of every measurement, signed. -/
def execSpdmChallenge (s : State) : Res :=
  let slot := s.reqByte 2 % 16
  .next (if s.failed then s.unserved
    else if !s.spdm.algs || decide (1 < slot) then s.emit (.spdm spdmUnexpected)
    else s.signed slot ([0x13#8, 0x03#8, BitVec.ofNat 8 slot, 0x03#8] ++ Config.sm3 (s.chain slot))
      (Config.sm3 ((List.range 5).flatMap (fun i => s.measure (i + 1))) ++ leBytes 2 0))

/-- R476: a measurement block. -/
def State.measureBlock (s : State) (i : Nat) : List Byte :=
  let m := s.measure i
  [BitVec.ofNat 8 i, 1#8] ++ leBytes 2 (m.length + 3) ++ [BitVec.ofNat 8 (i - 1)] ++ leBytes 2 m.length ++ m

/-- SPDM_GET_MEASUREMENTS (R475, R476): none of them (0), one, or all (255). -/
def execSpdmGetMeasurements (s : State) : Res :=
  let i := s.reqByte 3
  let is := if i = 0 then [] else if i = 255 then [1, 2, 3, 4, 5] else [i]
  let body := is.flatMap s.measureBlock
  let head := [0x13#8, 0x60#8, if i = 0 then 5#8 else 0#8, 0#8, BitVec.ofNat 8 is.length] ++ leBytes 3 body.length ++ body
  .next (if s.failed then s.unserved
    else if !s.spdm.algs || (i != 255 && decide (5 < i)) then s.emit (.spdm spdmUnexpected)
    else if s.reqByte 2 % 2 = 1 then s.signed 0 head (leBytes 2 0)
    else
      let (s1, n) := s.draw
      s1.answer (head ++ Config.spdmNonce n ++ leBytes 2 0))

end Sys2Proof.Machine
end

