-- ==== Sys2Proof/Machine/SysReg.lean ====
section
/-! DEFINITION. System registers: SYSRD, SYSWR, the write of FLAGS, and TRAPRET (spec 12, R362 to R365; R403, R404, R419). -/

namespace Sys2Proof.Machine

/-- R36, R364: core positions of the members of a cluster launch. -/
def State.ccores (s : State) (g : Workgroup) : Nat :=
  let cs := if g.csize ≤ 1 then [g.core] else g.gang.map (fun w => (s.wgrp w).core)
  ((List.range cs.length).map (fun m => (cs.getD m 0 % 4) * 4 ^ m)).foldl (· + ·) 0

/-- R364: the registers that every thread may read; none where the number is unallocated. -/
def State.userRead (s : State) (m : Member) (n : Nat) : Option Nat :=
  let g := s.wgrp m.wg
  let b := s.brd m.wg (m.braid s)
  let rh := g.stack.isSome
  let main := fun (x : Nat) => some (if rh then 0 else x)
  if n = 0x00 then some m.t
  else if n = 0x01 then some g.t
  else if n = 0x02 then main (g.rowOf m.t)
  else if n = 0x03 then main (m.t / g.w)
  else if n = 0x04 then some m.lane
  else if n = 0x05 then some (s.thr m.wg m.t).row
  else if n = 0x06 then main g.w
  else if n = 0x07 then main g.n
  else if n = 0x08 then main g.wgnum
  else if n = 0x09 then main g.grid
  else if n = 0x0A then main ((g.csize - 1) * 4 + g.member)
  else if n = 0x0B then main (s.ccores g)
  else if n = 0x0C then main g.core
  else if n = 0x0D then main g.args
  else if n = 0x0E then some g.asid
  else if n = 0x0F then main g.part
  else if n = 0x10 then main (g.scrUnits * 32)
  else if n = 0x11 then some (dieOf (g.coreOf m.t))
  else if n = 0x12 then some (s.devidx.toNat % 1024)
  else if n = 0x20 then some (g.stack.getD 0)
  else if n = 0x21 then some (if rh then m.t / 16 % 48 else 0)
  else if n = 0x22 then some (if rh then g.entry else 0)
  else if n = 0x40 then some b.flags.toNat
  else if n = 0x41 then some b.segb
  else if n = 0x44 then some b.fmask.toNat
  else if n = 0x80 then some (s.core (g.coreOf m.t)).leaveWait
  else if n = 0x81 then some g.charge
  else none

/-- R364, R419: the value that SYSRD of a number gives a thread. -/
def State.regValue (s : State) (m : Member) (n : Nat) : Option Nat :=
  if n < 0x1000 then s.userRead m n
  else if (s.thr m.wg m.t).priv && (s.wgrp m.wg).stack.isNone then s.sysRead (.part (s.wgrp m.wg).part) n
  else none

/-- R362, R364: SYSRD. -/
def sysrdWord (o : OpSys) (s : State) (c : Cur) (m : Member) : Lane State :=
  match s.regValue m o.num.toNat with
  | none => .error (0x1A, 0)
  | some v =>
    let dep := if o.num.toNat = 0x41 then (s.brd m.wg (m.braid s)).segbDep else 0
    let s1 := s.putReg c m o.d.toNat (BitVec.ofNat 32 v) 4 dep
    .ok (if sysWide o.num.toNat then s1.putReg c m (o.d.toNat + 1) (BitVec.ofNat 32 (v / 2 ^ 32)) 4 dep else s1)

/-- R362 to R364, R419: SYSWR by a thread. A write of SEGB lands at the end of the cycle, and so does the choice of the write of a wider
register that stands, which follows its release (R363). -/
def syswrWord (o : OpSys) (s : State) (c : Cur) (m : Member) : Lane State :=
  let n := o.num.toNat
  let k := if sysWide n then 2 else 1
  if n != 0x41 && (decide (n < 0x1000) || (s.regValue m n).isNone) then .error (0x1A, 0)
  else match s.regs m o.d.toNat k with
    | .error e => .error e
    | .ok ws =>
      let v := wordsVal ws
      .ok (s.atCycleEnd c.core (if n = 0x41 then .segb m.wg (m.braid s) m.lane (v % 2 ^ 57) (s.regsDep m o.d.toNat k)
        else .priv m.wg (m.braid s) m.t m.lane n v (s.pktPc c.core c.pkt) c.word c.pos))

/-- R106, R362: a write of FLAGS comes before the flags that other words raise in the cycle. -/
def flagsWord (o : OpD) (s : State) (c : Cur) (m : Member) : Lane State :=
  match s.regs m o.d.toNat 1 with
  | .error e => .error e
  | .ok ws => .ok (s.atCycleEnd c.core (.flagsSet m.wg (m.braid s) m.lane ((ws.headD 0#32).setWidth 5)))

/-- R404, R419: TRAPRET takes effect at the end of its packet, in privileged mode. -/
def trapretWord (s : State) (c : Cur) (m : Member) : Lane State :=
  if (s.thr m.wg m.t).priv then .ok (s.upd c m (fun x => { x with trapret := true })) else .error (0x1A, 0)

/-! ## The words -/

/-- R362, R364. -/
def execSysrd (h : Hdr) (o : OpSys) (s : State) : Res := .next (perLane wK h (Instr.sysrd h o).opns (sysrdWord o) s)

/-- R362 to R365. -/
def execSyswr (h : Hdr) (o : OpSys) (s : State) : Res := .next (perLane wKMain h (Instr.syswr h o).opns (syswrWord o) s)

/-- R106, R363. -/
def execFlagsWrite (h : Hdr) (o : OpD) (s : State) : Res :=
  .next (perLane wKMain h (Instr.flagsWrite h o).opns (flagsWord o) s)

/-- R404. -/
def execTrapret (h : Hdr) (s : State) : Res := .next (perLane wKMain h (Instr.trapret h).opns trapretWord s)

end Sys2Proof.Machine
end

