-- ==== Sys2Proof/Machine/Dispatch.lean ====
section
/-! DEFINITION. One arm per constructor of `Instr`: the direct call of its meaning. -/

namespace Sys2Proof.Machine

def exec (i : Instr) (s : State) : Host.Outcome State Fault Refusal :=
  match i with
  | .nop h => Sys2Proof.Machine.execNop h s
  | .br h o => Sys2Proof.Machine.execBr h o s
  | .call h o => Sys2Proof.Machine.execCall h o s
  | .brm h o => Sys2Proof.Machine.execBrm h o s
  | .jmpr h o => Sys2Proof.Machine.execJmpr h o s
  | .callr h o => Sys2Proof.Machine.execCallr h o s
  | .exit h => Sys2Proof.Machine.execExit h s
  | .lit32 h o => Sys2Proof.Machine.execLit32 h o s
  | .trap h o => Sys2Proof.Machine.execTrap h o s
  | .yieldTurn h => Sys2Proof.Machine.execYieldTurn h s
  | .hset h o => Sys2Proof.Machine.execHset h o s
  | .rejoin h o => Sys2Proof.Machine.execRejoin h o s
  | .bar h => Sys2Proof.Machine.execBar h s
  | .sleep h o => Sys2Proof.Machine.execSleep h o s
  | .waitge h o => Sys2Proof.Machine.execWaitge h o s
  | .waitp h o => Sys2Proof.Machine.execWaitp h o s
  | .iadd h o => Sys2Proof.Machine.execIadd h o s
  | .isub h o => Sys2Proof.Machine.execIsub h o s
  | .imul h o => Sys2Proof.Machine.execImul h o s
  | .imulhiI h o => Sys2Proof.Machine.execImulhiI h o s
  | .imulhiN h o => Sys2Proof.Machine.execImulhiN h o s
  | .imad h o => Sys2Proof.Machine.execImad h o s
  | .iminI h o => Sys2Proof.Machine.execIminI h o s
  | .imaxI h o => Sys2Proof.Machine.execImaxI h o s
  | .iminN h o => Sys2Proof.Machine.execIminN h o s
  | .imaxN h o => Sys2Proof.Machine.execImaxN h o s
  | .land h o => Sys2Proof.Machine.execLand h o s
  | .lor h o => Sys2Proof.Machine.execLor h o s
  | .lxor h o => Sys2Proof.Machine.execLxor h o s
  | .shl h o => Sys2Proof.Machine.execShl h o s
  | .shr h o => Sys2Proof.Machine.execShr h o s
  | .sar h o => Sys2Proof.Machine.execSar h o s
  | .iaddi h o => Sys2Proof.Machine.execIaddi h o s
  | .andi h o => Sys2Proof.Machine.execAndi h o s
  | .ori h o => Sys2Proof.Machine.execOri h o s
  | .xori h o => Sys2Proof.Machine.execXori h o s
  | .shli h o => Sys2Proof.Machine.execShli h o s
  | .shri h o => Sys2Proof.Machine.execShri h o s
  | .sari h o => Sys2Proof.Machine.execSari h o s
  | .movi h o => Sys2Proof.Machine.execMovi h o s
  | .iadd64 h o => Sys2Proof.Machine.execIadd64 h o s
  | .addx64 h o => Sys2Proof.Machine.execAddx64 h o s
  | .isetpI h o => Sys2Proof.Machine.execIsetpI h o s
  | .isetpN h o => Sys2Proof.Machine.execIsetpN h o s
  | .sel h o => Sys2Proof.Machine.execSel h o s
  | .plop h o => Sys2Proof.Machine.execPlop h o s
  | .p2v h o => Sys2Proof.Machine.execP2v h o s
  | .v2p h o => Sys2Proof.Machine.execV2p h o s
  | .popc h o => Sys2Proof.Machine.execPopc h o s
  | .clz h o => Sys2Proof.Machine.execClz h o s
  | .brev h o => Sys2Proof.Machine.execBrev h o s
  | .ctz h o => Sys2Proof.Machine.execCtz h o s
  | .lnot h o => Sys2Proof.Machine.execLnot h o s
  | .neg h o => Sys2Proof.Machine.execNeg h o s
  | .abs h o => Sys2Proof.Machine.execAbs h o s
  | .bswz h o => Sys2Proof.Machine.execBswz h o s
  | .fadd h o => Sys2Proof.Machine.execFadd h o s
  | .fsub h o => Sys2Proof.Machine.execFsub h o s
  | .fmul h o => Sys2Proof.Machine.execFmul h o s
  | .ffma h o => Sys2Proof.Machine.execFfma h o s
  | .fmin h o => Sys2Proof.Machine.execFmin h o s
  | .fmax h o => Sys2Proof.Machine.execFmax h o s
  | .fdiv h o => Sys2Proof.Machine.execFdiv h o s
  | .fsetp h o => Sys2Proof.Machine.execFsetp h o s
  | .fabs h o => Sys2Proof.Machine.execFabs h o s
  | .fneg h o => Sys2Proof.Machine.execFneg h o s
  | .ffloor h o => Sys2Proof.Machine.execFfloor h o s
  | .fceil h o => Sys2Proof.Machine.execFceil h o s
  | .ftrunc h o => Sys2Proof.Machine.execFtrunc h o s
  | .frint h o => Sys2Proof.Machine.execFrint h o s
  | .hadd2Bf16 h o => Sys2Proof.Machine.execHadd2Bf16 h o s
  | .hadd2F16 h o => Sys2Proof.Machine.execHadd2F16 h o s
  | .hmul2Bf16 h o => Sys2Proof.Machine.execHmul2Bf16 h o s
  | .hmul2F16 h o => Sys2Proof.Machine.execHmul2F16 h o s
  | .hfma2Bf16 h o => Sys2Proof.Machine.execHfma2Bf16 h o s
  | .hfma2F16 h o => Sys2Proof.Machine.execHfma2F16 h o s
  | .hminmax2Bf16 h o => Sys2Proof.Machine.execHminmax2Bf16 h o s
  | .hminmax2F16 h o => Sys2Proof.Machine.execHminmax2F16 h o s
  | .cvt h o => Sys2Proof.Machine.execCvt h o s
  | .gqcvtQ h o => Sys2Proof.Machine.execGqcvtQ h o s
  | .gqcvtF h o => Sys2Proof.Machine.execGqcvtF h o s
  | .rcp h o => Sys2Proof.Machine.execRcp h o s
  | .rsqrt h o => Sys2Proof.Machine.execRsqrt h o s
  | .sqrt h o => Sys2Proof.Machine.execSqrt h o s
  | .ex2 h o => Sys2Proof.Machine.execEx2 h o s
  | .lg2 h o => Sys2Proof.Machine.execLg2 h o s
  | .sin h o => Sys2Proof.Machine.execSin h o s
  | .cos h o => Sys2Proof.Machine.execCos h o s
  | .tanh h o => Sys2Proof.Machine.execTanh h o s
  | .shflIdx h o => Sys2Proof.Machine.execShflIdx h o s
  | .shflXor h o => Sys2Proof.Machine.execShflXor h o s
  | .shflUp h o => Sys2Proof.Machine.execShflUp h o s
  | .shflDn h o => Sys2Proof.Machine.execShflDn h o s
  | .voteAll h o => Sys2Proof.Machine.execVoteAll h o s
  | .voteAny h o => Sys2Proof.Machine.execVoteAny h o s
  | .voteBallot h o => Sys2Proof.Machine.execVoteBallot h o s
  | .voteEq h o => Sys2Proof.Machine.execVoteEq h o s
  | .reduxAdd h o => Sys2Proof.Machine.execReduxAdd h o s
  | .reduxMinI h o => Sys2Proof.Machine.execReduxMinI h o s
  | .reduxMaxI h o => Sys2Proof.Machine.execReduxMaxI h o s
  | .reduxMinN h o => Sys2Proof.Machine.execReduxMinN h o s
  | .reduxMaxN h o => Sys2Proof.Machine.execReduxMaxN h o s
  | .reduxAnd h o => Sys2Proof.Machine.execReduxAnd h o s
  | .reduxOr h o => Sys2Proof.Machine.execReduxOr h o s
  | .reduxXor h o => Sys2Proof.Machine.execReduxXor h o s
  | .reduxFmin h o => Sys2Proof.Machine.execReduxFmin h o s
  | .reduxFmax h o => Sys2Proof.Machine.execReduxFmax h o s
  | .hbfly h o => Sys2Proof.Machine.execHbfly h o s
  | .unpk h o => Sys2Proof.Machine.execUnpk h o s
  | .cbld h o => Sys2Proof.Machine.execCbld h o s
  | .qmap h o => Sys2Proof.Machine.execQmap h o s
  | .clkrd h o => Sys2Proof.Machine.execClkrd h o s
  | .ld8s h o => Sys2Proof.Machine.execLd8s h o s
  | .ld8z h o => Sys2Proof.Machine.execLd8z h o s
  | .ld16s h o => Sys2Proof.Machine.execLd16s h o s
  | .ld16z h o => Sys2Proof.Machine.execLd16z h o s
  | .ld32 h o => Sys2Proof.Machine.execLd32 h o s
  | .ld64 h o => Sys2Proof.Machine.execLd64 h o s
  | .ld128 h o => Sys2Proof.Machine.execLd128 h o s
  | .st8 h o => Sys2Proof.Machine.execSt8 h o s
  | .st16 h o => Sys2Proof.Machine.execSt16 h o s
  | .st32 h o => Sys2Proof.Machine.execSt32 h o s
  | .st64 h o => Sys2Proof.Machine.execSt64 h o s
  | .st128 h o => Sys2Proof.Machine.execSt128 h o s
  | .lds32 h o => Sys2Proof.Machine.execLds32 h o s
  | .lds64 h o => Sys2Proof.Machine.execLds64 h o s
  | .lds128 h o => Sys2Proof.Machine.execLds128 h o s
  | .sts32 h o => Sys2Proof.Machine.execSts32 h o s
  | .sts64 h o => Sys2Proof.Machine.execSts64 h o s
  | .sts128 h o => Sys2Proof.Machine.execSts128 h o s
  | .prefetch h o => Sys2Proof.Machine.execPrefetch h o s
  | .atom32Add h o => Sys2Proof.Machine.execAtom32Add h o s
  | .atom32And h o => Sys2Proof.Machine.execAtom32And h o s
  | .atom32Or h o => Sys2Proof.Machine.execAtom32Or h o s
  | .atom32Xor h o => Sys2Proof.Machine.execAtom32Xor h o s
  | .atom32MinI h o => Sys2Proof.Machine.execAtom32MinI h o s
  | .atom32MaxI h o => Sys2Proof.Machine.execAtom32MaxI h o s
  | .atom32MinN h o => Sys2Proof.Machine.execAtom32MinN h o s
  | .atom32MaxN h o => Sys2Proof.Machine.execAtom32MaxN h o s
  | .atom32Exch h o => Sys2Proof.Machine.execAtom32Exch h o s
  | .atom32Cas h o => Sys2Proof.Machine.execAtom32Cas h o s
  | .atom32Fadd h o => Sys2Proof.Machine.execAtom32Fadd h o s
  | .atom32Fmin h o => Sys2Proof.Machine.execAtom32Fmin h o s
  | .atom32Fmax h o => Sys2Proof.Machine.execAtom32Fmax h o s
  | .atom64Add h o => Sys2Proof.Machine.execAtom64Add h o s
  | .atom64And h o => Sys2Proof.Machine.execAtom64And h o s
  | .atom64Or h o => Sys2Proof.Machine.execAtom64Or h o s
  | .atom64Xor h o => Sys2Proof.Machine.execAtom64Xor h o s
  | .atom64MinI h o => Sys2Proof.Machine.execAtom64MinI h o s
  | .atom64MaxI h o => Sys2Proof.Machine.execAtom64MaxI h o s
  | .atom64MinN h o => Sys2Proof.Machine.execAtom64MinN h o s
  | .atom64MaxN h o => Sys2Proof.Machine.execAtom64MaxN h o s
  | .atom64Exch h o => Sys2Proof.Machine.execAtom64Exch h o s
  | .atom64Cas h o => Sys2Proof.Machine.execAtom64Cas h o s
  | .atoms32Add h o => Sys2Proof.Machine.execAtoms32Add h o s
  | .atoms32And h o => Sys2Proof.Machine.execAtoms32And h o s
  | .atoms32Or h o => Sys2Proof.Machine.execAtoms32Or h o s
  | .atoms32Xor h o => Sys2Proof.Machine.execAtoms32Xor h o s
  | .atoms32MinI h o => Sys2Proof.Machine.execAtoms32MinI h o s
  | .atoms32MaxI h o => Sys2Proof.Machine.execAtoms32MaxI h o s
  | .atoms32MinN h o => Sys2Proof.Machine.execAtoms32MinN h o s
  | .atoms32MaxN h o => Sys2Proof.Machine.execAtoms32MaxN h o s
  | .atoms32Exch h o => Sys2Proof.Machine.execAtoms32Exch h o s
  | .atoms32Cas h o => Sys2Proof.Machine.execAtoms32Cas h o s
  | .atoms32Fadd h o => Sys2Proof.Machine.execAtoms32Fadd h o s
  | .atoms32Fmin h o => Sys2Proof.Machine.execAtoms32Fmin h o s
  | .atoms32Fmax h o => Sys2Proof.Machine.execAtoms32Fmax h o s
  | .fenceAcq h o => Sys2Proof.Machine.execFenceAcq h o s
  | .fenceRel h o => Sys2Proof.Machine.execFenceRel h o s
  | .fenceFull h o => Sys2Proof.Machine.execFenceFull h o s
  | .qfence h o => Sys2Proof.Machine.execQfence h o s
  | .flush h o => Sys2Proof.Machine.execFlush h o s
  | .mxs h o => Sys2Proof.Machine.execMxs h o s
  | .smx h o => Sys2Proof.Machine.execSmx h o s
  | .mxrd h o => Sys2Proof.Machine.execMxrd h o s
  | .mxstat h o => Sys2Proof.Machine.execMxstat h o s
  | .cpbox h o => Sys2Proof.Machine.execCpbox h o s
  | .cplin h o => Sys2Proof.Machine.execCplin h o s
  | .stcfg h o => Sys2Proof.Machine.execStcfg h o s
  | .rtplan h o => Sys2Proof.Machine.execRtplan h o s
  | .rtscat h o => Sys2Proof.Machine.execRtscat h o s
  | .rtcomb h o => Sys2Proof.Machine.execRtcomb h o s
  | .nmcall h o => Sys2Proof.Machine.execNmcall h o s
  | .nmbkMac h o => Sys2Proof.Machine.execNmbkMac h o s
  | .nmbkBcst h o => Sys2Proof.Machine.execNmbkBcst h o s
  | .nmbkRdac h o => Sys2Proof.Machine.execNmbkRdac h o s
  | .nmbkLmac h o => Sys2Proof.Machine.execNmbkLmac h o s
  | .cntadd h o => Sys2Proof.Machine.execCntadd h o s
  | .sysrd h o => Sys2Proof.Machine.execSysrd h o s
  | .syswr h o => Sys2Proof.Machine.execSyswr h o s
  | .trapret h => Sys2Proof.Machine.execTrapret h s
  | .flagsWrite h o => Sys2Proof.Machine.execFlagsWrite h o s
  | .rrcommitCommit who => Sys2Proof.Machine.execRrcommitCommit who s
  | .rrcommitFetch who => Sys2Proof.Machine.execRrcommitFetch who s
  | .stinv who stack => Sys2Proof.Machine.execStinv who stack s
  | .nmcinv who stack => Sys2Proof.Machine.execNmcinv who stack s
  | .icinv who => Sys2Proof.Machine.execIcinv who s
  | .reload who part => Sys2Proof.Machine.execReload who part s
  | .kill who part asid => Sys2Proof.Machine.execKill who part asid s
  | .nmkickScrub who stack ia => Sys2Proof.Machine.execNmkickScrub who stack ia s
  | .nmkickMigrationCopy who stack ia => Sys2Proof.Machine.execNmkickMigrationCopy who stack ia s
  | .nmkickZero who stack ia => Sys2Proof.Machine.execNmkickZero who stack ia s
  | .portmapEnable who port val => Sys2Proof.Machine.execPortmapEnable who port val s
  | .issueTurn core => Sys2Proof.Machine.execIssueTurn core s
  | .rhizoidIssue stack pos => Sys2Proof.Machine.execRhizoidIssue stack pos s
  | .hitchDeadlock wg => Sys2Proof.Machine.execHitchDeadlock wg s
  | .waitgeReread wg t => Sys2Proof.Machine.execWaitgeReread wg t s
  | .waitpRead wg t => Sys2Proof.Machine.execWaitpRead wg t s
  | .storeDrain wg braid => Sys2Proof.Machine.execStoreDrain wg braid s
  | .storePerformHome core idx => Sys2Proof.Machine.execStorePerformHome core idx s
  | .loadReturn wg t seq => Sys2Proof.Machine.execLoadReturn wg t seq s
  | .fenceToken core idx => Sys2Proof.Machine.execFenceToken core idx s
  | .workgroupRetire wg => Sys2Proof.Machine.execWorkgroupRetire wg s
  | .leaveRequest die asker id => Sys2Proof.Machine.execLeaveRequest die asker id s
  | .matrixSelect cluster => Sys2Proof.Machine.execMatrixSelect cluster s
  | .matrixPass cluster => Sys2Proof.Machine.execMatrixPass cluster s
  | .tileClaimPass cluster tile => Sys2Proof.Machine.execTileClaimPass cluster tile s
  | .smxNormPass cluster => Sys2Proof.Machine.execSmxNormPass cluster s
  | .aliasBuild cluster => Sys2Proof.Machine.execAliasBuild cluster s
  | .smxSamplePass cluster => Sys2Proof.Machine.execSmxSamplePass cluster s
  | .copyBegin cluster queue => Sys2Proof.Machine.execCopyBegin cluster queue s
  | .copyChunk cluster queue => Sys2Proof.Machine.execCopyChunk cluster queue s
  | .copyComplete cluster queue => Sys2Proof.Machine.execCopyComplete cluster queue s
  | .splicePlanRun die queue => Sys2Proof.Machine.execSplicePlanRun die queue s
  | .spliceScatterRow die queue => Sys2Proof.Machine.execSpliceScatterRow die queue s
  | .spliceCombineRow die queue => Sys2Proof.Machine.execSpliceCombineRow die queue s
  | .spliceComplete die queue => Sys2Proof.Machine.execSpliceComplete die queue s
  | .callDispatch stack => Sys2Proof.Machine.execCallDispatch stack s
  | .blockComplete wg => Sys2Proof.Machine.execBlockComplete wg s
  | .bankCommandExecute stack pch => Sys2Proof.Machine.execBankCommandExecute stack pch s
  | .allbankWave stack => Sys2Proof.Machine.execAllbankWave stack s
  | .microcodeRowStep stack => Sys2Proof.Machine.execMicrocodeRowStep stack s
  | .microcodeKernelEnd stack => Sys2Proof.Machine.execMicrocodeKernelEnd stack s
  | .reductionAdd stack => Sys2Proof.Machine.execReductionAdd stack s
  | .graphDone part => Sys2Proof.Machine.execGraphDone part s
  | .asyncTrap wg t => Sys2Proof.Machine.execAsyncTrap wg t s
  | .workgroupFatal wg => Sys2Proof.Machine.execWorkgroupFatal wg s
  | .pageNotResident stack id => Sys2Proof.Machine.execPageNotResident stack id s
  | .peerRetry id => Sys2Proof.Machine.execPeerRetry id s
  | .laneRetrainDone port => Sys2Proof.Machine.execLaneRetrainDone port s
  | .clusterSubstitute cluster => Sys2Proof.Machine.execClusterSubstitute cluster s
  | .rowRetire stack row => Sys2Proof.Machine.execRowRetire stack row s
  | .hainv => Sys2Proof.Machine.execHainv s
  | .piinv => Sys2Proof.Machine.execPiinv s
  | .cminv => Sys2Proof.Machine.execCminv s
  | .engineRequestPass => Sys2Proof.Machine.execEngineRequestPass s
  | .sleepWake => Sys2Proof.Machine.execSleepWake s
  | .dispatchStep => Sys2Proof.Machine.execDispatchStep s
  | .launchComplete => Sys2Proof.Machine.execLaunchComplete s
  | .budgetPeriod => Sys2Proof.Machine.execBudgetPeriod s
  | .timeSliceEnd => Sys2Proof.Machine.execTimeSliceEnd s
  | .partitionSwap => Sys2Proof.Machine.execPartitionSwap s
  | .contextRestore => Sys2Proof.Machine.execContextRestore s
  | .pageEvict => Sys2Proof.Machine.execPageEvict s
  | .pageBringBack => Sys2Proof.Machine.execPageBringBack s
  | .powerWindowStart => Sys2Proof.Machine.execPowerWindowStart s
  | .leaveGrant => Sys2Proof.Machine.execLeaveGrant s
  | .thermalTrip => Sys2Proof.Machine.execThermalTrip s
  | .walkerNodeStep => Sys2Proof.Machine.execWalkerNodeStep s
  | .launchNodeRetry => Sys2Proof.Machine.execLaunchNodeRetry s
  | .graphArm => Sys2Proof.Machine.execGraphArm s
  | .regionFatal => Sys2Proof.Machine.execRegionFatal s
  | .counterAddFail => Sys2Proof.Machine.execCounterAddFail s
  | .uncorrectableError => Sys2Proof.Machine.execUncorrectableError s
  | .hostMemRead => Sys2Proof.Machine.execHostMemRead s
  | .hostMemWrite => Sys2Proof.Machine.execHostMemWrite s
  | .hostSnoop => Sys2Proof.Machine.execHostSnoop s
  | .hostRegisterAccess => Sys2Proof.Machine.execHostRegisterAccess s
  | .msixUnmask => Sys2Proof.Machine.execMsixUnmask s
  | .peerRead => Sys2Proof.Machine.execPeerRead s
  | .peerWrite => Sys2Proof.Machine.execPeerWrite s
  | .peerAtomic => Sys2Proof.Machine.execPeerAtomic s
  | .peerLost => Sys2Proof.Machine.execPeerLost s
  | .laneFailure => Sys2Proof.Machine.execLaneFailure s
  | .cxlLinkDown => Sys2Proof.Machine.execCxlLinkDown s
  | .resetDevice => Sys2Proof.Machine.execResetDevice s
  | .spdmGetVersion => Sys2Proof.Machine.execSpdmGetVersion s
  | .spdmGetCapabilities => Sys2Proof.Machine.execSpdmGetCapabilities s
  | .spdmNegotiateAlgorithms => Sys2Proof.Machine.execSpdmNegotiateAlgorithms s
  | .spdmGetDigests => Sys2Proof.Machine.execSpdmGetDigests s
  | .spdmGetCertificate => Sys2Proof.Machine.execSpdmGetCertificate s
  | .spdmChallenge => Sys2Proof.Machine.execSpdmChallenge s
  | .spdmGetMeasurements => Sys2Proof.Machine.execSpdmGetMeasurements s
  | .correctedError => Sys2Proof.Machine.execCorrectedError s
  | .ualinkPortUp => Sys2Proof.Machine.execUalinkPortUp s
  | .cxlLinkUp => Sys2Proof.Machine.execCxlLinkUp s

end Sys2Proof.Machine
end

