-- ==== Sys2Proof/Machine/Tick.lean ====
section
/-! DEFINITION. Time: when every act of a cc is done CLK advances, and the acts of the next cc fall due: those that the manual puts in
that cc, those whose bound has come, and, of those that may happen at any time, the ones that a free value picks (DESIGN CHOICE, log entry 1); and how
a packet comes to a core for `State.withFetchWord` (DESIGN CHOICE, log entry 2). -/

namespace Sys2Proof.Machine

/-! ## What needs no event -/

/-- The agents that hold a copy of the RRSEL window. -/
def allWho : List Who := .host :: (List.range 8).map Who.part

/-- R38: the gangs whose members have all retired free what they hold, once nothing of theirs is pending. -/
def State.freeGangs (s : State) : State :=
  (((Tbl.vals s.wgs).filter (fun g => g.retired && g.stack.isNone)).map Workgroup.gangIds).foldl State.freeGang s

/-- R149, R154: a core applies the notifications that the free choice gives it, and every one that is 900 cc old. -/
def State.takeNotes (s : State) : State :=
  { s with cores := Tbl.each s.cores (fun i c =>
      let n := Config.notesApplied s.clk i
      let upto := max (((c.notes.take n).map (fun x => x.1)).foldl max 0)
        (((c.notes.filter (fun x => decide (x.2.2 + 900 ≤ s.clk))).map (fun x => x.1)).foldl max 0)
      c.applyNotes upto) }

/-- R106: exception flags of results that are written back by now are set. -/
def Braid.takeFlags (b : Braid) (clk : Nat) : Braid :=
  { b with
    flags := (b.flagsDue.filter (fun x => decide (x.1 ≤ clk))).foldl (fun f x => f ||| x.2) b.flags,
    flagsDue := b.flagsDue.filter (fun x => !decide (x.1 ≤ clk)) }

/-- R106: the flags of every braid. -/
def State.writeFlags (s : State) : State := { s with braids := Tbl.each s.braids (fun _ b => if b.flagsDue.isEmpty then b else b.takeFlags s.clk) }

/-- R375: the peers to which something waits for a port. -/
def State.portWaiters (s : State) : List Nat :=
  ((((s.heldAdds.map HeldAdd.tr) ++ (Tbl.vals s.reqs).filterMap EReq.waiting).filter (fun w => decide (16 ≤ w))).map (· - 16) ++
    (s.peerReqs.filter (fun (r : PeerReq) => decide (portWait ≤ r.id))).map PeerReq.dev).eraseDups

/-- R375, R455, R456: what waits for peer `d` goes on: where a port can be used, what the free choice answers in this cc; where the peer is
lost, all. Requests try their access again, and increments are made. -/
def State.portResume (s : State) (d : Nat) : State :=
  let lost := s.lost.contains d
  if !(s.anyPort || lost) then s
  else
    let done := fun (r : PeerReq) => r.dev == d && decide (portWait ≤ r.id) && (lost || Config.peerAnswers s.clk r.id)
    let mine := s.peerReqs.filter done
    let engine := fun (r : PeerReq) => decide (r.id < portHeld)
    let s1 := mine.foldl (fun s r => s.retried r (((s.req (r.id - portWait)).map EReq.wg).getD 0)) { s with
      peerReqs := s.peerReqs.filter (fun r => !done r) }
    let s2 := (mine.filter engine).foldl (fun s r => s.modReq (r.id - portWait) (fun q => { q with
      waiting := none, opened := (d, r.tries - 1) :: q.opened })) s1
    let s3 := if lost then { s2 with reqs := Tbl.each s2.reqs (fun _ q => if q.waiting = some (16 + d) then { q with waiting := none } else q) } else s2
    match mine.find? (fun r => !engine r), lost with
    | none, false => s3
    | r, _ =>
      let held := s3.heldAdds.filter (fun h => h.tr == 16 + d)
      (held.foldl State.addAgain { s3 with
        heldAdds := s3.heldAdds.filter (fun h => h.tr != 16 + d), peerOpen := [(d, (r.map PeerReq.tries).getD 1 - 1)] }).gateShut

/-- R132: an L2 may write a dirty line back at any time; a free value picks. -/
def State.earlyBack (s : State) (die : Nat) : State :=
  match ((s.die die).l2.filter (fun l => !l.dirty.isEmpty))[Config.l2Back s.clk die]? with
  | some l => s.l2Clean die l.tag
  | none => s

/-- What goes on between the events of a cc: commits, invalidates and kills that have nothing left to wait for, releases, flags that are
written back, what waited for a port, lines that an L2 writes back, freed gangs, notifications. -/
def State.settle1 (s : State) : State :=
  let s1 := allWho.foldl State.settleWindow s
  let s2 := (List.range 8).foldl State.settleInv s1
  let s3 := (List.range 8).foldl State.killStep s2
  let s4 := s3.relSteps.writeFlags.markClusters
  ([0, 1].foldl State.earlyBack (s4.portWaiters.foldl State.portResume s4)).freeGangs.takeNotes

/-! ## The acts of a cc -/

/-- R43, R106, R335: the issue cycles of the turns in progress of the main dies, or of the base dies, that have nothing to wait for. -/
def State.turnActs (s : State) (base : Bool) : List Act :=
  s.cores.flatMap (fun c => match c.2.turn with
    | some t => if isRhizoid c.1 != base || s.turnWaits t then [] else t.cycleActs c.1
    | none => [])

/-- R39: the cores of the main dies with resident threads whose issue stage is free. -/
def State.mainIssue (s : State) : List Instr :=
  let gs := (Tbl.vals s.wgs).filter (fun g => !g.retired && !g.swapped && g.stack.isNone)
  ((sortBy id (gs.map (fun g => g.core)).eraseDups).filter (fun c => (s.core c).turn.isNone)).map Instr.issueTurn

/-- R203: the issue of the rhizoid cores of every stack that has a block. -/
def State.baseIssue (s : State) : List Instr :=
  let blocksOn := (((Tbl.vals s.wgs).filter (fun g => !g.retired && !g.swapped)).filterMap (fun g => g.stack)).eraseDups
  (sortBy id blocksOn).flatMap (fun k => (List.range 48).map (Instr.rhizoidIssue k))

/-- R263: a waiting thread's counter is to be read again: never read, its copy gone, or 1,024 cc after the last read. -/
def State.rereadDue (s : State) (x : Thread) (va : Nat) (last : Option Nat) : Bool :=
  match last with
  | none => true
  | some c =>
    let core := s.coreOfThread x.wg x.t
    decide (c + 1024 ≤ s.clk) || (match s.translate (s.waitAsid x.wg x.t) va .read with
      | .ok (ia, _) => match findLine (ia / 128) (s.core core).l1d with
        | some l => !l.live (s.core core) s.clk
        | none => true
      | .error _ => true)

/-- R262 to R264, R401: the waits of a thread that come to something now. -/
def State.waitActs (s : State) (x : Thread) : List Instr :=
  let of := fun (w : Wait) => match w with
    | .waitge va _ _ last => if s.rereadDue x va last then [Instr.waitgeReread x.wg x.t] else []
    | _ => []
  (match x.wait with
    | .waitp pr _ _ _ => if pr ≤ s.clk then [Instr.waitpRead x.wg x.t] else []
    | w => of w) ++
  (match x.held with
    | some h => if h.met then [] else of h.wait
    | none => [])

def State.sleeping (s : State) : Bool :=
  let due := fun (w : Wait) => match w with
    | .sleep k => decide (k ≤ s.clk)
    | _ => false
  s.threads.any (fun p => due p.2.wait || (match p.2.held with
    | some h => !h.met && due h.wait
    | none => false))

/-- R20: the workgroup is a near-memory block: its threads are those of rhizoid cores, whose accesses are acts of the base dies. -/
def State.onBase (s : State) (wg : Nat) : Bool := (s.wgrp wg).stack.isSome

/-- `age` cc have passed since the CLK `born`. -/
def State.past (s : State) (born age : Nat) : Bool := decide (born + age ≤ s.clk)

/-- The pending memory words of threads of the main dies, or of the base dies, and the heads of their braids' store queues, that are `age` cc
old. -/
def State.threadActs (s : State) (base : Bool) (age age' : Nat) : List Instr :=
  (s.threads.filter (fun p => s.onBase p.2.wg == base)).flatMap (fun p =>
    (p.2.mops.filter (fun m => s.past m.born age && m.logged.isNone)).map (fun m => Instr.loadReturn p.2.wg p.2.t m.seq)) ++
  (s.braids.filter (fun p => s.onBase p.2.wg == base && p.2.storeQ.any (fun e => s.past e.born age' && e.logged.isNone))).map
    (fun p => Instr.storeDrain p.2.wg p.2.idx)

/-- The stores of the cores that are on their way to their homes, reductions apart, and the fence tokens, that are `age` cc old; `more` places
beyond those taken now. -/
def State.homeActs (s : State) (age more : Nat) : List Instr :=
  s.cores.flatMap (fun c =>
    ((List.range (c.2.wstores.length + more)).filter (fun i => match c.2.wstores[i]? with
      | some w => s.past w.born age && !isAlias w.ia
      | none => true)).reverse.map (Instr.storePerformHome c.1) ++
    ((List.range (c.2.tokens.length + more)).filter (fun i => match c.2.tokens[i]? with
      | some k => s.past k.born age
      | none => true)).reverse.map (Instr.fenceToken c.1))

/-- R154: stores of the main dies issued so long ago that 2,000 cc would pass before they are at their homes. -/
def State.lateStores (s : State) : Nat :=
  s.braids.foldl (fun k p => k + (if s.onBase p.2.wg then 0 else (p.2.storeQ.filter (fun e => s.past e.born 1500 && e.logged.isNone)).length)) 0 +
  s.cores.foldl (fun k p => k + (p.2.wstores.filter (fun w => w.wg != 0 && s.past w.born 1500 && w.logged.isNone)).length) 0

/-- R154: where a store is late, everything before it goes on in this cc, in as many rounds as the stores and the memory words of threads that
are pending can need, however many releases stand between them. -/
def State.lateActs (s : State) : List Instr :=
  if s.lateStores = 0 then []
  else
    let words := s.threads.foldl (fun k p => k + p.2.mops.length) 0
    let queued := s.braids.foldl (fun k p => k + p.2.storeQ.length) 0
    let round := s.threadActs false 0 0 ++ s.homeActs 0 (words + queued)
    (List.replicate (2 * (s.lateStores + words + queued)) round).flatten

/-- R154: what has waited so long that a bound would come, on the main dies: pending memory words of a thread, queued stores, stores and
tokens on their way. -/
def State.storeActs (s : State) : List Instr := s.threadActs false 400 500 ++ s.homeActs 1000 0 ++ s.lateActs

/-- The events that the manual puts in this cc. DESIGN CHOICE (log entry 81): a request that entered a leave FIFO in a cc is granted in the
next cc at the earliest, because LEAVE_GRANT comes before the acts that ask in its own cc; one that enters in a window's last cc therefore sets
low_headroom (R73). DESIGN CHOICE (log entry 87): the step of a walker, one in 16 cc (R82), falls where CLK is a multiple of 16. -/
def State.dueEvents (s : State) : List Instr :=
  let anyPart := s.parts.any (fun p => p.2.rootRcb != 0#64 || p.2.resident)
  (if s.tooHot then [Instr.thermalTrip] else []) ++
  (if s.clk % Config.windowCc = 0 then [Instr.powerWindowStart] else []) ++
  (if s.dies.any (fun d => !d.2.power.fifo.isEmpty) then [Instr.leaveGrant] else []) ++
  (if s.formed.isEmpty && s.qfences.isEmpty then [] else [Instr.engineRequestPass]) ++
  (if s.sleeping then [Instr.sleepWake] else []) ++
  ((Tbl.vals s.threads).filter (fun x => !s.onBase x.wg)).flatMap s.waitActs ++
  (if anyPart then
    (if s.clk % Config.ccPerUs = 0 then [Instr.budgetPeriod] else []) ++ [Instr.timeSliceEnd, Instr.partitionSwap, Instr.contextRestore]
  else []) ++
  -- R480: a marked cluster is substituted at the first moment at which no partition is resident on its cores
  (s.clusters.filter (fun c => c.2.replace)).map (fun c => Instr.clusterSubstitute c.1) ++
  (if s.clk % 4 = 0 && s.parts.any (fun p => p.2.resident) then [Instr.dispatchStep] else []) ++
  (if s.clk % 16 = 0 && s.dies.any (fun d => !d.2.walkFifo.isEmpty || !d.2.walkCopy.isEmpty) then [Instr.walkerNodeStep] else []) ++
  ((Tbl.vals s.wgs).filter (fun g => g.stack.isNone && s.retirable g.id)).map (fun g => Instr.workgroupRetire g.id) ++
  (if (Tbl.vals s.launches).any Launch.done then [Instr.launchComplete] else []) ++
  (s.peerReqs.filter (fun r => decide (r.sentAt + retryCc ≤ s.clk))).map (fun r => Instr.peerRetry r.id) ++
  ((List.range 8).filter (fun j => match (s.ports.getD j Port.reset).retrain with
    | some t => decide (t ≤ s.clk)
    | none => false)).map Instr.laneRetrainDone ++
  s.storeActs

/-- R5, R20: what falls due on the base dies at an edge of the memory clock: waits, memory words and stores of rhizoid threads, and reduction
writes. -/
def State.baseDue (s : State) : List Instr :=
  ((Tbl.vals s.threads).filter (fun x => s.onBase x.wg)).flatMap s.waitActs ++ s.threadActs true 400 500 ++
  s.cores.flatMap (fun c => (c.2.wstores.filter (fun w => s.past w.born 1000 && isAlias w.ia)).map (fun w => Instr.reductionAdd (iaStack w.ia)))

/-- R5, R20, R201, R211 to R214: what the base dies may do at an edge of the memory clock: a free value picks of these. -/
def State.baseEvents (s : State) : List Instr :=
  s.threadActs true 0 0 ++
  ((s.cores.flatMap (fun c => (c.2.wstores.filter (fun w => isAlias w.ia)).map (fun w => iaStack w.ia))).eraseDups).map Instr.reductionAdd ++
  s.stackTbl.flatMap (fun k =>
    (if k.2.calls.isEmpty then [] else [Instr.callDispatch k.1]) ++
    (k.2.seqQ.filter (fun q => q.1 != heldKey)).map (fun q => Instr.bankCommandExecute k.1 q.1) ++
    (if k.2.allQ.isEmpty then [] else [Instr.allbankWave k.1]) ++
    (if k.2.kernels.isEmpty then [] else [Instr.microcodeRowStep k.1, Instr.microcodeKernelEnd k.1])) ++
  ((Tbl.vals s.wgs).filter (fun g => g.stack.isSome)).map (fun g => Instr.blockComplete g.id)

/-- The events that may happen on the main dies in this cc: of these a free value picks. -/
def State.freeEvents (s : State) : List Instr :=
  s.threadActs false 0 0 ++ s.homeActs 0 0 ++
  s.clusters.flatMap (fun c =>
    [Instr.matrixSelect c.1] ++ (if c.2.granted.isSome then [Instr.matrixPass c.1] else []) ++
    (if c.2.smx.isSome then [Instr.smxNormPass c.1, Instr.aliasBuild c.1, Instr.smxSamplePass c.1] else []) ++
    ((List.range 8).filter (fun q => !(c.2.copyQ.getD q []).isEmpty)).flatMap (fun q =>
      [Instr.copyBegin c.1 q, Instr.copyChunk c.1 q, Instr.copyComplete c.1 q])) ++
  s.dies.flatMap (fun d => ((List.range 4).filter (fun q => !(d.2.spliceQ.getD q []).isEmpty)).flatMap (fun q =>
    [Instr.splicePlanRun d.1 q, Instr.spliceScatterRow d.1 q, Instr.spliceCombineRow d.1 q, Instr.spliceComplete d.1 q])) ++
  (if s.parts.any (fun p => p.2.saveArea != 0#64) then [Instr.graphArm, Instr.pageEvict, Instr.pageBringBack] else []) ++
  (if s.dies.any (fun d => !d.2.waitNodes.isEmpty) then [Instr.launchNodeRetry] else []) ++
  ((List.range 8).filter (fun j => (s.ports.getD j Port.reset).retrain.isSome)).map Instr.laneRetrainDone

/-- Those of a list that a free value picks, in the order picked: all of them, or those at its indices. -/
def pickedOf (pick : Option (List Nat)) (l : List Instr) : List Instr :=
  match pick with
  | none => l
  | some is => is.filterMap (fun i => l[i]?)

/-- R5: the acts of the base dies at an edge of the memory clock. -/
def State.baseActs (s : State) : List Act :=
  s.baseDue.map Act.event ++ s.turnActs true ++ s.baseIssue.map Act.event ++ (pickedOf (Config.basePick s.clk) s.baseEvents).map Act.event

/-- The acts of the main dies in a cc. -/
def State.mainActs (s : State) : List Act :=
  s.dueEvents.map Act.event ++ s.turnActs false ++ s.mainIssue.map Act.event ++ (pickedOf (Config.asyncPick s.clk) s.freeEvents).map Act.event

/-- R5: the acts of the cc, after those that are due already. An edge at the start of the cc sees what the main dies do in it; an edge in the
middle of the cc before comes first, and what it does the main dies see in this cc. -/
def State.addActs (s : State) : State :=
  let base := if onEdge s.clk then s.baseActs else []
  { s with agenda := s.agenda ++ (if s.clk % 3 = 2 then base ++ s.mainActs else s.mainActs ++ base) }

/-- The next cc. A device that has tripped or failed to boot does nothing more until a reset; one in its reset sequence does only that. -/
def State.tick (s : State) : State :=
  let s0 := { s with clk := s.clk + 1 }
  if s.tripped then s0 else if s.booting then s0.bootTick else s0.settle1.addActs

/-! ## A packet for `withFetchWord` -/

/-- The word that a core is to execute: its packet's word with the words after it (R216). -/
def State.wordNow (s : State) (core pkt pos : Nat) : Option (Cur × Except DecErr Instr) :=
  match (s.turnOf core).bind (fun t => t.pkts[pkt]?) with
  | none => none
  | some p =>
    let w := wordAt p.words pos
    some (⟨core, pkt, pos, w⟩, decodeWord w (wordAt p.words (pos + 1)) (wordAt p.words (pos + 2)))

/-- The instruction that bits numbered as the opcode table numbers them hold, as the three words of a packet. -/
def tableWords (nbits w : Nat) : List Word :=
  let w := w % 2 ^ nbits
  [BitVec.ofNat 32 w, BitVec.ofNat 32 (w / 2 ^ 32), BitVec.ofNat 32 (w / 2 ^ 64)]

/-- A workgroup of one thread, with 112 registers and a row of its core, for `withFetchWord`. -/
def loadedWg (core : Nat) (stack : Option Nat) : Workgroup :=
  { Workgroup.blank with
    id := 1, core := core, stack := stack, t := 1, w := if stack.isSome then 16 else 8, n := 112, rows := [0],
    grid := 0x0000000100010001, gang := [1], scrUnits := 32, hitch := List.replicate 192 (Hitch.launch 0#64 1),
    streams := List.replicate 8 Stream.blank }

def loadedThread : Thread := { Thread.blank with wg := 1, lastTurn := 1 }

def loadedBraid (lanes : BitVec 64) : Braid :=
  { Braid.blank with wg := 1, hitch := List.replicate 12 (Hitch.launch lanes 0) }

/-- The packet `ws` in the instruction buffer of a core, with the one thread of `loadedWg` in its group. -/
def loadedTurn (ws : List Word) : Turn :=
  ⟨1, 0, [⟨0, ws, (illegalAt ws).isSome, [Member.new loadedThread]⟩], [], [], []⟩

/-- A launch of one thread whose first packet is `ws`, fetched by core `core` and about to execute its first word, on a device whose reset
sequence is over. -/
def State.withPacket (s : State) (core : Nat) (stack : Option Nat) (ws : List Word) : State :=
  let u := s.booted
  { u with
    agenda := .word core 0 0 :: (((loadedTurn ws).cycleActs core).filter (· != .word core 0 0) ++ u.agenda),
    wgs := Tbl.put u.wgs 1 (loadedWg core stack),
    threads := Tbl.put u.threads (tkey 1 0) loadedThread,
    braids := Tbl.put u.braids (bkey 1 0) (loadedBraid 1#64),
    cores := Tbl.put u.cores core { u.core core with turn := some (loadedTurn ws), turns := 1 } }

end Sys2Proof.Machine
end

