-- ==== Sys2Proof/Machine/Step.lean ====
section
/-! DEFINITION. One step: the next act that is due; with none due, the next input from outside; with none, the next cc. -/

namespace Sys2Proof.Machine

/-- One word of a group: the decoded instruction is executed by every member (R216, R398), unless it is held back (R335). -/
def stepWord (core pkt pos : Nat) (s : State) : Host.Outcome State Fault Refusal :=
  if s.holdsWord core pkt pos then .next (s.holdWord core pkt pos)
  else
    match (s.freeWord core pkt pos).wordNow core pkt pos with
    | none => .next (s.freeWord core pkt pos)
    | some (c, .error _) => .next { badWord { s.freeWord core pkt pos with cur := some c } with cur := none }
    | some (c, .ok i) =>
      match exec i { s.freeWord core pkt pos with cur := some c } with
      | .next t => .next { t with cur := none }
      | .fault f => .fault f
      | .refused r => .refused r

/-- One act. -/
def stepAct (a : Act) (s : State) : Host.Outcome State Fault Refusal :=
  match a with
  | .event i => exec i s
  | .word core pkt pos => stepWord core pkt pos s
  | .cycleEnd core => .next (s.endCycle core)
  | .packetEnd core pkt => .next (s.endPacket core pkt)
  | .turnEnd core => .next (s.endTurn core)

/-- The first input from outside that is due, with the others. -/
def firstDue (clk : Nat) : List (Nat × Instr × Msg) → Option ((Instr × Msg) × List (Nat × Instr × Msg))
  | [] => none
  | x :: r =>
    if x.1 ≤ clk then some (x.2, r)
    else match firstDue clk r with
      | some (y, r') => some (y, x :: r')
      | none => none

/-- One step of the machine. -/
def step (s : State) : Host.Outcome State Fault Refusal :=
  match s.agenda with
  | a :: r => stepAct a { s with agenda := r }
  | [] =>
    match firstDue s.clk s.inbox with
    | some (x, r) => .next { s with inbox := r, msg := x.2, agenda := [.event x.1] }
    | none => .next s.tick

/-- The instruction whose bits are `w`, in the instruction buffer of a core, about to execute: a bank command (major 0x7F)
on a rhizoid core, every other word on core 0. -/
def State.withFetchWord (s : State) (nbits w : Nat) : State :=
  let ws := tableWords nbits w
  if majorOf (wordAt ws 0) = 0x7F then s.withPacket 192 (some 0) ws else s.withPacket 0 none ws

end Sys2Proof.Machine
end

