-- ==== Sys2Proof/Safety.lean ====
section
/-! DEFINITION. The terms that claims use: well-formed memories, a word in progress and who executes it, what it reads, what
it writes and what it leaves alone. -/

namespace Sys2Proof.Machine

/-! ## Memory -/

/-- A memory is in its canonical form: addresses strictly rising, no entry equal to the zero that an unlisted address
reads as. -/
def Memory.wf (m : Mem) : Bool := Tbl.wf 0#8 m

/-- The memories are in their canonical form: DRAM and the scratchpad of every core; and the bytes of host memory and of the peers that have
been written, whose addresses rise strictly. -/
def memsOk (dram : Mem) (cores : Tbl Core) (hostMem peerMem : Mem) : Bool :=
  Memory.wf dram && cores.all (fun p => Memory.wf p.2.scratch) && Tbl.sorted hostMem && Tbl.sorted peerMem

/-- The memories of a state are in their canonical form. Every operation keeps it (`Sys2Proof.Laws.MemOk`). -/
def State.memOk (s : State) : Bool := memsOk s.dram s.cores s.hostMem s.peerMem

/-- A step goes on: it neither faults nor refuses. -/
def Goes (s : State) : Prop := ∃ t, step s = .next t

/-! ## A word in progress -/

/-- The thread that a member stands for. -/
def Member.key (m : Member) : Nat := tkey m.wg m.t

/-- The members of the packet whose word is in progress. -/
def State.group (s : State) (c : Cur) : List Member := s.members c.core c.pkt

/-- A word is being executed: every member of its packet is a resident thread, none stands twice, and no two are on one home
lane (R41). -/
structure Issuing (s : State) (c : Cur) : Prop where
  cur : s.cur = some c
  nodup : ((s.group c).map Member.key).Nodup
  lanes : ((s.group c).map Member.lane).Nodup
  resident : ∀ m ∈ s.group c, (Tbl.get? s.threads m.key).isSome = true

/-- R225, R398, R404: the member tries the word: it is not skipped, no field of the word fails, and its guard is true. -/
def tries (i : Instr) (s : State) (c : Cur) (m : Member) : Bool :=
  !m.skip.getLsbD c.pos &&
  (fieldCause i.kind i.header i.opns c.core (s.wgrp m.wg).n (s.thr m.wg m.t).priv (i.signs && m.guard i.header)).isNone &&
  (!i.kind.guarded || m.guard i.header)

/-- R221, R416: an operand field of the word names a latch of the member's thread whose entry is not valid. -/
def Member.stale (m : Member) (s : State) (i : Instr) : Bool := i.opns.any (Opn.stale (s.thr m.wg m.t).latch)

/-- R225, R398, R404, R416: the member executes the word: it tries it, and every latch that the word reads is valid. -/
def acts (i : Instr) (s : State) (c : Cur) (m : Member) : Bool := tries i s c m && !m.stale s i

/-- The members that execute the word, in ascending place. -/
def State.doers (s : State) (c : Cur) (i : Instr) : List Member := (s.group c).filter (acts i s c)

/-- The members that try the word, in ascending place. -/
def State.triers (s : State) (c : Cur) (i : Instr) : List Member := (s.group c).filter (tries i s c)

/-- The packet has one thread, and it executes the word. -/
structure Alone (i : Instr) (s : State) (c : Cur) (m : Member) : Prop where
  cur : s.cur = some c
  group : s.group c = [m]
  resident : (Tbl.get? s.threads m.key).isSome = true
  acts : acts i s c m = true

/-- What the packet in progress holds of a thread. -/
def State.memberOf (s : State) (c : Cur) (k : Nat) : Option Member := (s.group c).find? (fun x => x.key == k)

/-- The fault that a word notes for a member, in the words of R398. -/
def State.noted (s : State) (c : Cur) (cause info : Nat) : Async := ⟨cause, info, s.pktPc c.core c.pkt, c.word, c.pos, s.clk⟩

/-! ## What a word reads and writes -/

/-- R219, R221, R416, R459: what a register or latch code gives a member, with the CLK from which it is there: none for a port, for
a latch entry that is not valid and for a register whose entry is uncorrectable. -/
def State.plain (s : State) (m : Member) (a : BitVec 7) : Option (Word × Nat) :=
  if a.toNat < 112 then (if s.badReg m a.toNat then none else some (m.reg a.toNat, 0))
  else if a.toNat < 124 then none
  else ((s.thr m.wg m.t).latch.getD (a.toNat - 124) none).map (fun l => (l.v, l.ready))

/-- Two registers from `a` are readable. -/
def State.plainPair (s : State) (m : Member) (a : Nat) : Prop := s.badReg m a = false ∧ s.badReg m (a + 1) = false

/-- The double in the pair at `a` (R3). -/
def Member.pair (m : Member) (a : Nat) : Dword := dwordOf (m.reg a) (m.reg (a + 1))

/-- No operand field of the word names a port (R219, R220). -/
def portless (i : Instr) : Bool := !(i.opns.any Opn.port?)

/-- R221 to R224, R248: the thread has taken one 32-bit result: it is pushed; register D holds it unless N is set, and is clear
from `ready` on (`Thread.setReg`); and nothing else of the thread changes. -/
def Took (s t : State) (m : Member) (n : Bool) (d : Nat) (v : Word) (ready : Nat) : Prop :=
  ∃ dep, t.thr m.wg m.t =
    (let x := { s.thr m.wg m.t with latch := pushLatch (s.thr m.wg m.t).latch (some ⟨v, ready, dep⟩) }
     if n then x else x.setReg d v ready dep)

/-- R221: the same of a 64-bit result, low word pushed first, to the pair at D. -/
def TookPair (s t : State) (m : Member) (n : Bool) (d : Nat) (v : Dword) (ready : Nat) : Prop :=
  ∃ dep, t.thr m.wg m.t =
    (let x := { s.thr m.wg m.t with
       latch := pushLatch (pushLatch (s.thr m.wg m.t).latch (some ⟨dlo v, ready, dep⟩)) (some ⟨dhi v, ready, dep⟩) }
     if n then x else (x.setReg d (dlo v) ready dep).setReg (d + 1) (dhi v) ready dep)

/-- R222: the thread's register D has been written by a word that pushes nothing. -/
def TookReg (s t : State) (m : Member) (d : Nat) (v : Word) (ready : Nat) : Prop :=
  t.thr m.wg m.t = (s.thr m.wg m.t).setReg d v ready 0

/-- The effects that land at the end of the core's issue cycle. -/
def State.landing (s : State) (core : Nat) : List CycAct :=
  match s.turnOf core with
  | some t => t.acts
  | none => []

/-- R106, R400: the flags that a thread raises in user mode are to reach its braid at `ready`. -/
def Raised (s t : State) (c : Cur) (m : Member) (f : Num.Flags) (ready : Nat) : Prop :=
  (s.thr m.wg m.t).priv = false → f ≠ 0#5 → .flags m.wg (m.braid s) ready f ∈ t.landing c.core

/-- R224, R248: a predicate result: it is to land, the scoreboard holds the predicate until `ready`, and nothing else of the thread
changes. -/
def TookPred (s t : State) (c : Cur) (m : Member) (i : Nat) (v : Bool) (ready : Nat) : Prop :=
  .pred m.wg m.t i v ∈ t.landing c.core ∧
  ∃ dep, t.thr m.wg m.t = { s.thr m.wg m.t with
    busy := Tbl.put (s.thr m.wg m.t).busy (predKey i) (laterOf (Tbl.get? (s.thr m.wg m.t).busy (predKey i)) ready),
    dep := Tbl.set (s.thr m.wg m.t).dep 0 (predKey i) dep }

/-! ## What a word leaves alone -/

/-- From `s` to `t` nothing has changed but what the threads with keys `K` hold and, on the core of the word, what the packet in
progress holds of them and what is to land at the end of the cycle: no byte of memory, no queued store, no port, no special
register, no flag or hitch register, nothing of any other thread or unit. -/
structure LanesOnly (c : Cur) (K : Nat → Prop) (s t : State) : Prop where
  rest : { t with threads := s.threads, cores := s.cores } = s
  thread : ∀ k, ¬ K k → Tbl.get? t.threads k = Tbl.get? s.threads k
  stay : ∀ k, (Tbl.get? t.threads k).isSome = (Tbl.get? s.threads k).isSome
  core : ∀ k, { t.core k with turn := (s.core k).turn } = s.core k
  turn : ∀ k, k ≠ c.core → t.turnOf k = s.turnOf k
  keys : (t.group c).map Member.key = (s.group c).map Member.key
  member : ∀ (i : Nat) (m : Member), (s.group c)[i]? = some m → ¬ K m.key → (t.group c)[i]? = some m
  pc : t.pktPc c.core c.pkt = s.pktPc c.core c.pkt
  lands : s.landing c.core <+: t.landing c.core

/-! ## What the manual says each word computes -/

/-- A word of two sources: N, D, A, B, latency and result. -/
structure Two where
  n : Bool
  d : BitVec 7
  a : BitVec 7
  b : BitVec 7
  lat : Nat
  f : Word → Word → Word

/-- R265: the integer words of two sources, as R265 states their results. -/
def intTwo : Instr → Option Two
  | .iadd _ o => some ⟨o.n, o.d, o.a, o.b, 4, fun x y => BitVec.ofNat 32 (x.toNat + y.toNat)⟩
  | .isub _ o => some ⟨o.n, o.d, o.a, o.b, 4, fun x y => BitVec.ofInt 32 (x.toInt - y.toInt)⟩
  | .imul _ o => some ⟨o.n, o.d, o.a, o.b, 6, fun x y => BitVec.ofNat 32 (x.toNat * y.toNat)⟩
  | .imulhiI _ o => some ⟨o.n, o.d, o.a, o.b, 6, fun x y => (x.signExtend 64 * y.signExtend 64).extractLsb' 32 32⟩
  | .imulhiN _ o => some ⟨o.n, o.d, o.a, o.b, 6, fun x y => (x.setWidth 64 * y.setWidth 64).extractLsb' 32 32⟩
  | .iminI _ o => some ⟨o.n, o.d, o.a, o.b, 4, fun x y => if x.slt y then x else y⟩
  | .imaxI _ o => some ⟨o.n, o.d, o.a, o.b, 4, fun x y => if x.slt y then y else x⟩
  | .iminN _ o => some ⟨o.n, o.d, o.a, o.b, 4, fun x y => if x.ult y then x else y⟩
  | .imaxN _ o => some ⟨o.n, o.d, o.a, o.b, 4, fun x y => if x.ult y then y else x⟩
  | .land _ o => some ⟨o.n, o.d, o.a, o.b, 4, fun x y => x &&& y⟩
  | .lor _ o => some ⟨o.n, o.d, o.a, o.b, 4, fun x y => x ||| y⟩
  | .lxor _ o => some ⟨o.n, o.d, o.a, o.b, 4, fun x y => x ^^^ y⟩
  | .shl _ o => some ⟨o.n, o.d, o.a, o.b, 4, fun x y => BitVec.ofNat 32 (x.toNat * 2 ^ y.toNat)⟩
  | .shr _ o => some ⟨o.n, o.d, o.a, o.b, 4, fun x y => BitVec.ofNat 32 (x.toNat / 2 ^ y.toNat)⟩
  | .sar _ o => some ⟨o.n, o.d, o.a, o.b, 4, fun x y => BitVec.ofInt 32 (x.toInt / 2 ^ y.toNat)⟩
  | _ => none

/-- A word of one source: N, D, A, latency and result. -/
structure One where
  n : Bool
  d : BitVec 7
  a : BitVec 7
  lat : Nat
  f : Word → Word

/-- R267, R269: the integer words of one source, some with a constant in the word. -/
def intOne : Instr → Option One
  | .iaddi _ o => some ⟨o.n, o.d, o.a, 4, fun x => BitVec.ofInt 32 (x.toInt + o.imm.toInt)⟩
  | .andi _ o => some ⟨o.n, o.d, o.a, 4, fun x => x &&& BitVec.ofNat 32 o.imm.toNat⟩
  | .ori _ o => some ⟨o.n, o.d, o.a, 4, fun x => x ||| BitVec.ofNat 32 o.imm.toNat⟩
  | .xori _ o => some ⟨o.n, o.d, o.a, 4, fun x => x ^^^ BitVec.ofNat 32 o.imm.toNat⟩
  | .shli _ o => some ⟨o.n, o.d, o.a, 4, fun x => BitVec.ofNat 32 (x.toNat * 2 ^ o.amt.toNat)⟩
  | .shri _ o => some ⟨o.n, o.d, o.a, 4, fun x => BitVec.ofNat 32 (x.toNat / 2 ^ o.amt.toNat)⟩
  | .sari _ o => some ⟨o.n, o.d, o.a, 4, fun x => BitVec.ofInt 32 (x.toInt / 2 ^ o.amt.toNat)⟩
  | .popc _ o => some ⟨o.n, o.d, o.a, 4, fun x => BitVec.ofNat 32 (((List.range 32).filter (fun k => x.getLsbD k)).length)⟩
  | .clz _ o => some ⟨o.n, o.d, o.a, 4, fun x => BitVec.ofNat 32 (((List.range 32).takeWhile (fun k => !x.getLsbD (31 - k))).length)⟩
  | .brev _ o => some ⟨o.n, o.d, o.a, 4, fun x => x.reverse⟩
  | .ctz _ o => some ⟨o.n, o.d, o.a, 4, fun x => BitVec.ofNat 32 (((List.range 32).takeWhile (fun k => !x.getLsbD k)).length)⟩
  | .lnot _ o => some ⟨o.n, o.d, o.a, 4, fun x => BitVec.ofNat 32 (2 ^ 32 - 1 - x.toNat)⟩
  | .neg _ o => some ⟨o.n, o.d, o.a, 4, fun x => BitVec.ofInt 32 (-x.toInt)⟩
  | .abs _ o => some ⟨o.n, o.d, o.a, 4, fun x => BitVec.ofNat 32 x.toInt.natAbs⟩
  | _ => none

/-- R270: byte `i` of BSWZ: field `f` of the selector names a byte of the pool of A and B and a mode. -/
def swizzled (x y sel : Word) (i : Nat) : Byte :=
  let byte := ((y ++ x : BitVec 64) >>> (8 * ((sel >>> (5 * i)).toNat % 8))).setWidth 8
  match (sel >>> (5 * i)).toNat / 8 % 4 with
  | 0 => byte
  | 1 => 0x00#8
  | 2 => if byte.msb then 0xFF#8 else 0x00#8
  | _ => 0xFF#8

/-- A word of two sources and register D: N, D, A, B, latency and result. -/
structure Three where
  n : Bool
  d : BitVec 7
  a : BitVec 7
  b : BitVec 7
  lat : Nat
  f : Word → Word → Word → Word

/-- R266, R270. -/
def intThree : Instr → Option Three
  | .imad _ o => some ⟨o.n, o.d, o.a, o.b, 6, fun x y z => BitVec.ofNat 32 (x.toNat * y.toNat + z.toNat)⟩
  | .bswz _ o => some ⟨o.n, o.d, o.a, o.b, 4,
      fun x y sel => swizzled x y sel 3 ++ swizzled x y sel 2 ++ swizzled x y sel 1 ++ swizzled x y sel 0⟩
  | _ => none

/-- A compare: pD, A, B and what it tests. -/
structure Cmp where
  pd : Nat
  a : BitVec 7
  b : BitVec 7
  f : Word → Word → Bool

/-- R271, R279: the compares; LE, LT and EQ of floating-point values are false where either is a NaN, NE is true. -/
def compares : Instr → Option Cmp
  | .isetpI _ o => some ⟨o.pd.toNat, o.a, o.b, fun x y =>
      match o.cond.toNat with
      | 0 => x == y
      | 1 => x != y
      | 2 => x.slt y
      | _ => x.sle y⟩
  | .isetpN _ o => some ⟨o.pd.toNat, o.a, o.b, fun x y =>
      match o.cond.toNat with
      | 0 => x == y
      | 1 => x != y
      | 2 => x.ult y
      | _ => x.ule y⟩
  | .fsetp _ o => some ⟨o.pd.toNat, o.a, o.b, fun x y =>
      let u := Num.decode Num.f32 x.toNat
      let v := Num.decode Num.f32 y.toNat
      let ordered := !u.isNan && !v.isNan
      match o.cond.toNat with
      | 0 => ordered && Num.cmp u v == .eq
      | 1 => !(ordered && Num.cmp u v == .eq)
      | 2 => ordered && Num.cmp u v == .lt
      | _ => ordered && Num.cmp u v != .gt⟩
  | _ => none

/-! ## What a rounding gives (R88, R89, R98, R103 to R105), stated on real numbers -/

/-- The value is the finite number `x`. -/
def Num.Val.Is (v : Num.Val) (x : ℝ) : Prop :=
  match v with
  | .fin s m e => x = (if s then -1 else 1) * (m : ℝ) * (2 : ℝ) ^ e
  | _ => False

/-- The formats of R88. -/
def fpFormats : List Num.Fmt := [Num.f32, Num.bf16, Num.f16, Num.e4m3, Num.e5m2]

/-- The encodings of an infinity (for E4M3 of 448, R98) and of a zero of a sign. -/
def Num.Fmt.infOf (f : Num.Fmt) (s : Bool) : Nat := Num.putSign f s (f.infBits.getD f.maxBits)
def Num.Fmt.zeroOf (f : Num.Fmt) (s : Bool) : Nat := Num.putSign f s 0

/-- R98: `2 ^ q` is the quantum of the format at `x`: its spacing at the magnitude of `x`, with no upper bound on the exponent. -/
def Num.Fmt.Quantum (f : Num.Fmt) (x : ℝ) (q : Int) : Prop :=
  f.qmin ≤ q ∧ |x| < (2 : ℝ) ^ (q + f.p) ∧ (q = f.qmin ∨ (2 : ℝ) ^ (q + f.p - 1) ≤ |x|)

/-- R98: `n` quanta are nearest to `|x|`, ties to even. -/
def Nearest (x : ℝ) (q : Int) (n : Nat) : Prop :=
  |(|x|) - n * (2 : ℝ) ^ q| ≤ (2 : ℝ) ^ q / 2 ∧ (|(|x|) - n * (2 : ℝ) ^ q| = (2 : ℝ) ^ q / 2 → n % 2 = 0)

/-- R284: `n` quanta are the last not above `|x|`. -/
def CutOff (x : ℝ) (q : Int) (n : Nat) : Prop := n * (2 : ℝ) ^ q ≤ |x| ∧ |x| < (n + 1) * (2 : ℝ) ^ q

/-- R105: the flags of a result of magnitude `y` in range for the exact `x`: inexact where they differ, and underflow where besides the
result is below the least normal number. -/
def RoundFlags (f : Num.Fmt) (x y : ℝ) (fl : Num.Flags) : Prop :=
  fl.getLsbD 4 = false ∧ fl.getLsbD 3 = false ∧ fl.getLsbD 2 = false ∧ (fl.getLsbD 0 = true ↔ y ≠ |x|) ∧ (fl.getLsbD 1 = true → y ≠ |x|) ∧
  (y ≠ |x| → y < (2 : ℝ) ^ (f.qmin + f.p - 1) → fl.getLsbD 1 = true) ∧ ((2 : ℝ) ^ (f.qmin + f.p - 1) < y → fl.getLsbD 1 = false)

/-- The encoding `r` is of `n` quanta with the sign of `x`. -/
def Num.Fmt.Holds (f : Num.Fmt) (x : ℝ) (q : Int) (n : Nat) (r : Nat) : Prop :=
  r < 2 ^ f.width ∧ (∀ s, (s = true ↔ x < 0) → (Num.decode f r).neg = s ∧ (Num.decode f r).Is ((if s then -1 else 1) * n * (2 : ℝ) ^ q))

/-- R98, R103, R105: result and flags are one rounding of the nonzero real `x` to nearest even. -/
def Rounded (f : Num.Fmt) (x : ℝ) (o : Nat × Num.Flags) : Prop :=
  ∃ q n, f.Quantum x q ∧ Nearest x q n ∧ ∀ top, (Num.decode f f.maxBits).Is top →
    (top < n * (2 : ℝ) ^ q → ∀ s, (s = true ↔ x < 0) → o = (if f.sat then Num.putSign f s f.maxBits else f.infOf s, Num.fOverflow ||| Num.fInexact)) ∧
    (n * (2 : ℝ) ^ q ≤ top → f.Holds x q n o.1 ∧ RoundFlags f x (n * (2 : ℝ) ^ q) o.2)

/-- R284: the same toward zero: the largest finite magnitude where `x` rounded to nearest lies beyond it. -/
def Truncated (f : Num.Fmt) (x : ℝ) (o : Nat × Num.Flags) : Prop :=
  ∃ q n k, f.Quantum x q ∧ Nearest x q n ∧ CutOff x q k ∧ ∀ top, (Num.decode f f.maxBits).Is top →
    (top < n * (2 : ℝ) ^ q → ∀ s, (s = true ↔ x < 0) → o = (Num.putSign f s f.maxBits, Num.fOverflow ||| Num.fInexact)) ∧
    (n * (2 : ℝ) ^ q ≤ top → f.Holds x q k o.1 ∧ RoundFlags f x (k * (2 : ℝ) ^ q) o.2)

/-- R98, R284: the integer nearest to `x`, ties to even, or the one toward zero. -/
def IntOf (rz : Bool) (x : ℝ) (z : Int) : Prop :=
  if rz then |(z : ℝ)| ≤ |x| ∧ |x - z| < 1 ∧ 0 ≤ x * z else |x - z| ≤ 1 / 2 ∧ (|x - z| = 1 / 2 → z % 2 = 0)

/-- R98, R284: the conversion of the real `x` to integers from `lo` to `hi`: saturation gives an end of the range with invalid alone, and any
other change raises inexact alone. -/
def IntegerOf (lo hi : Int) (rz : Bool) (x : ℝ) (r : Int) (fl : Num.Flags) : Prop :=
  ∃ z, IntOf rz x z ∧ (z < lo → r = lo ∧ fl = Num.fInvalid) ∧ (hi < z → r = hi ∧ fl = Num.fInvalid) ∧
    (lo ≤ z → z ≤ hi → r = z ∧ ((z : ℝ) = x → fl = 0#5) ∧ ((z : ℝ) ≠ x → fl = Num.fInexact))

/-- R98, R284: the same of a value: a NaN gives 0 and an infinity an end of the range, each with invalid alone. -/
def ToInteger (lo hi : Int) (rz : Bool) (v : Num.Val) (r : Int) (fl : Num.Flags) : Prop :=
  (v = .nan → r = 0 ∧ fl = Num.fInvalid) ∧ (∀ s, v = .inf s → r = (if s then lo else hi) ∧ fl = Num.fInvalid) ∧
  ∀ x, v.Is x → IntegerOf lo hi rz x r fl

/-- The value is a finite number. -/
def Num.Val.IsFin (v : Num.Val) : Prop := ∃ s m e, v = .fin s m e

/-- R103 to R105, R277: result and flags are the sum of two values. -/
structure SumOf (f : Num.Fmt) (u v : Num.Val) (o : Nat × Num.Flags) : Prop where
  nan : u = .nan ∨ v = .nan → o = (f.nanBits, 0#5)
  infs : ∀ s t, u = .inf s → v = .inf t → o = if s = t then (f.infOf s, 0#5) else (f.nanBits, Num.fInvalid)
  infL : ∀ s, u = .inf s → v.IsFin → o = (f.infOf s, 0#5)
  infR : ∀ s, v = .inf s → u.IsFin → o = (f.infOf s, 0#5)
  zero : ∀ x, u.Is x → v.Is (-x) → o = (f.zeroOf (u.neg && v.neg), 0#5)
  round : ∀ x y, u.Is x → v.Is y → x + y ≠ 0 → Rounded f (x + y) o

/-- R103 to R105, R277: the product. -/
structure ProductOf (f : Num.Fmt) (u v : Num.Val) (o : Nat × Num.Flags) : Prop where
  nan : u = .nan ∨ v = .nan → o = (f.nanBits, 0#5)
  infZero : (u.isInf = true ∧ v.isZero = true) ∨ (u.isZero = true ∧ v.isInf = true) → o = (f.nanBits, Num.fInvalid)
  inf : (u.isInf = true ∧ v.isZero = false ∧ v ≠ .nan) ∨ (v.isInf = true ∧ u.isZero = false ∧ u ≠ .nan) → o = (f.infOf (u.neg != v.neg), 0#5)
  zero : u.IsFin → v.IsFin → (u.isZero = true ∨ v.isZero = true) → o = (f.zeroOf (u.neg != v.neg), 0#5)
  round : ∀ x y, u.Is x → v.Is y → x * y ≠ 0 → Rounded f (x * y) o

/-- R103 to R105, R277, R287: the quotient. -/
structure QuotientOf (f : Num.Fmt) (u v : Num.Val) (o : Nat × Num.Flags) : Prop where
  nan : u = .nan ∨ v = .nan → o = (f.nanBits, 0#5)
  invalid : (u.isInf = true ∧ v.isInf = true) ∨ (u.isZero = true ∧ v.isZero = true) → o = (f.nanBits, Num.fInvalid)
  inf : u.isInf = true → v.IsFin → o = (f.infOf (u.neg != v.neg), 0#5)
  byZero : u.IsFin → u.isZero = false → v.isZero = true → o = (f.infOf (u.neg != v.neg), Num.fDivZero)
  zero : (u.IsFin ∧ v.isInf = true) ∨ (u.isZero = true ∧ v.IsFin ∧ v.isZero = false) → o = (f.zeroOf (u.neg != v.neg), 0#5)
  round : ∀ x y, u.Is x → v.Is y → x ≠ 0 → y ≠ 0 → Rounded f (x / y) o

/-- R103 to R105, R278: the product of two values plus a third, rounded once. -/
structure FmaOf (f : Num.Fmt) (u v w : Num.Val) (o : Nat × Num.Flags) : Prop where
  infZero : (u.isInf = true ∧ v.isZero = true) ∨ (u.isZero = true ∧ v.isInf = true) → o = (f.nanBits, Num.fInvalid)
  nan : u = .nan ∨ v = .nan ∨ (w = .nan ∧ (u.isInf = true → v.isZero = false) ∧ (u.isZero = true → v.isInf = false)) → o = (f.nanBits, 0#5)
  infSum : ∀ s, ((u.isInf = true ∧ v.isZero = false ∧ v ≠ .nan) ∨ (v.isInf = true ∧ u.isZero = false ∧ u ≠ .nan)) → w = .inf s →
    o = if (u.neg != v.neg) = s then (f.infOf s, 0#5) else (f.nanBits, Num.fInvalid)
  infProduct : ((u.isInf = true ∧ v.isZero = false ∧ v ≠ .nan) ∨ (v.isInf = true ∧ u.isZero = false ∧ u ≠ .nan)) → w.IsFin →
    o = (f.infOf (u.neg != v.neg), 0#5)
  inf : ∀ s, u.IsFin → v.IsFin → w = .inf s → o = (f.infOf s, 0#5)
  zero : ∀ x y, u.Is x → v.Is y → w.Is (-(x * y)) → o = (f.zeroOf ((u.isZero || v.isZero) && (u.neg != v.neg) && w.neg), 0#5)
  round : ∀ x y z, u.Is x → v.Is y → w.Is z → x * y + z ≠ 0 → Rounded f (x * y + z) o

/-- Below, of values that are no NaN. -/
def Num.Val.Below (u v : Num.Val) : Prop :=
  (u = .inf true ∧ v ≠ .inf true) ∨ (v = .inf false ∧ u ≠ .inf false) ∨ ∃ x y, u.Is x ∧ v.Is y ∧ x < y

/-- R104, R277: result `r` is the lesser (where `hi`, the greater) of the encodings `a` and `b`, its bits unchanged. -/
structure PickedOf (f : Num.Fmt) (hi : Bool) (a b : Nat) (r : Nat) : Prop where
  bothNan : Num.decode f a = .nan → Num.decode f b = .nan → r = f.nanBits
  left : Num.decode f a ≠ .nan → Num.decode f b = .nan → r = a
  right : Num.decode f a = .nan → Num.decode f b ≠ .nan → r = b
  zeros : (Num.decode f a).isZero = true → (Num.decode f b).isZero = true →
    r = f.zeroOf (if hi then (Num.decode f a).neg && (Num.decode f b).neg else (Num.decode f a).neg || (Num.decode f b).neg)
  below : Num.decode f a ≠ .nan → Num.decode f b ≠ .nan → (Num.decode f a).Below (Num.decode f b) → r = if hi then b else a
  above : Num.decode f a ≠ .nan → Num.decode f b ≠ .nan → (Num.decode f b).Below (Num.decode f a) → r = if hi then a else b
  same : Num.decode f a ≠ .nan → a = b → r = a

/-- Element `i` of a packed register (R281). -/
def half (w : Word) (i : Nat) : Nat := w.toNat / 2 ^ (16 * i) % 2 ^ 16

/-- R283, R284: what a conversion to a floating format gives. -/
structure ToFloat (f : Num.Fmt) (rz : Bool) (v : Num.Val) (o : Nat × Num.Flags) : Prop where
  nan : v = .nan → o = (f.nanBits, 0#5)
  inf : ∀ s, v = .inf s → o = (f.infOf s, if f.infBits = none then Num.fInexact else 0#5)
  zero : v.IsFin → v.isZero = true → o = (f.zeroOf v.neg, 0#5)
  round : ∀ x, v.Is x → x ≠ 0 → if rz then Truncated f x o else Rounded f x o

/-- R280: result `r` of an F32 word `a` under a rounding to integers, where `P x z` says which integer `z` it is of a finite `x`. -/
structure Integral (P : ℝ → Int → Prop) (a r : Word) : Prop where
  nan : Num.decode Num.f32 a.toNat = .nan → r = 0x7FC00000#32
  same : (Num.decode Num.f32 a.toNat).isInf = true ∨ (Num.decode Num.f32 a.toNat).isZero = true → r = a
  fin : ∀ x, (Num.decode Num.f32 a.toNat).Is x → ∃ z : Int, P x z ∧ (Num.decode Num.f32 r.toNat).Is z ∧
    (Num.decode Num.f32 r.toNat).neg = (Num.decode Num.f32 a.toNat).neg

/-- R283: the value that CVT reads under a source code. -/
def cvtSource (src : Nat) (a : Word) : Num.Val :=
  match src with
  | 0 => Num.decode Num.f32 a.toNat
  | 1 => Num.decode Num.bf16 (a.extractLsb' 0 16).toNat
  | 2 => Num.decode Num.f16 (a.extractLsb' 0 16).toNat
  | 3 => Num.decode Num.e4m3 (a.extractLsb' 0 8).toNat
  | 4 => Num.decode Num.e5m2 (a.extractLsb' 0 8).toNat
  | 5 => Num.ofI a.toInt
  | 6 => Num.ofI a.toNat
  | _ => Num.ofI (a.extractLsb' 0 8).toInt

/-- R103 to R105, R287, R288: a correctly rounded special function of a positive number `y`, its result. -/
def RoundedWord (x : ℝ) (o : Word × Num.Flags) : Prop := Rounded Num.f32 x (o.1.toNat, o.2)

/-- R294: the BF16 code `h` that UNPK gives for element code `x` of a format. -/
structure UnpackedTo (book : List (BitVec 16)) (fmt x h : Nat) : Prop where
  book : fmt = 8 → h = (book.getD x 0#16).toNat
  float : ∀ f, (fmt = 4 ∧ f = Num.e4m3) ∨ (fmt = 5 ∧ f = Num.e5m2) →
    (Num.decode f x = .nan → h = 0x7FC0) ∧ (∀ s, Num.decode f x = .inf s → h = if s then 0xFF80 else 0x7F80) ∧
    ∀ y, (Num.decode f x).Is y → (Num.decode Num.bf16 h).Is y ∧ (Num.decode Num.bf16 h).neg = (Num.decode f x).neg
  int : fmt = 6 ∨ fmt = 7 → (Num.decode Num.bf16 h).Is ((sextNat x (if fmt = 6 then 8 else 4) : Int) : ℝ)

/-! ## The floating-point words -/

/-- A floating-point word of one source: N, D, A, latency, result and flags. -/
structure FOne where
  n : Bool
  d : BitVec 7
  a : BitVec 7
  lat : Nat
  f : Word → Word × Num.Flags

/-- R280, R283, R284, R287, R288. -/
def fpOne : Instr → Option FOne
  | .fabs _ o => some ⟨o.n, o.d, o.a, 4, fun x => (if (Num.decode Num.f32 x.toNat).isNan then 0x7FC00000#32 else x &&& 0x7FFFFFFF#32, 0#5)⟩
  | .fneg _ o => some ⟨o.n, o.d, o.a, 4, fun x => (if (Num.decode Num.f32 x.toNat).isNan then 0x7FC00000#32 else x ^^^ 0x80000000#32, 0#5)⟩
  | .ffloor _ o => some ⟨o.n, o.d, o.a, 4, roundF 0⟩
  | .fceil _ o => some ⟨o.n, o.d, o.a, 4, roundF 1⟩
  | .ftrunc _ o => some ⟨o.n, o.d, o.a, 4, roundF 2⟩
  | .frint _ o => some ⟨o.n, o.d, o.a, 4, roundF 3⟩
  | .cvt _ o => some ⟨o.n, o.d, o.a, 4, fun x => cvtOut o.dst o.rz (cvtIn o.src x)⟩
  | .rcp _ o => some ⟨o.n, o.d, o.a, 16, sfuRcp⟩
  | .rsqrt _ o => some ⟨o.n, o.d, o.a, 16, sfuRsqrt⟩
  | .sqrt _ o => some ⟨o.n, o.d, o.a, 16, sfuSqrt⟩
  | .ex2 _ o => some ⟨o.n, o.d, o.a, 20, sfuEx2⟩
  | .lg2 _ o => some ⟨o.n, o.d, o.a, 20, sfuLg2⟩
  | .sin _ o => some ⟨o.n, o.d, o.a, 20, sfuTrig 5 false⟩
  | .cos _ o => some ⟨o.n, o.d, o.a, 20, sfuTrig 6 true⟩
  | .tanh _ o => some ⟨o.n, o.d, o.a, 20, sfuTanh⟩
  | _ => none

/-- A floating-point word of two sources. -/
structure FTwo where
  n : Bool
  d : BitVec 7
  a : BitVec 7
  b : BitVec 7
  lat : Nat
  f : Word → Word → Word × Num.Flags

/-- R277, R281: one rounding of the exact result of each value, or of each half (R103). -/
def fpTwo : Instr → Option FTwo
  | .fadd _ o => some ⟨o.n, o.d, o.a, o.b, 4, w2 (fAdd Num.f32)⟩
  | .fsub _ o => some ⟨o.n, o.d, o.a, o.b, 4, w2 (fSub Num.f32)⟩
  | .fmul _ o => some ⟨o.n, o.d, o.a, o.b, 4, w2 (fMul Num.f32)⟩
  | .fmin _ o => some ⟨o.n, o.d, o.a, o.b, 4, w2 (fMin Num.f32)⟩
  | .fmax _ o => some ⟨o.n, o.d, o.a, o.b, 4, w2 (fMax Num.f32)⟩
  | .fdiv _ o => some ⟨o.n, o.d, o.a, o.b, 24, w2 (fDivide Num.f32)⟩
  | .hadd2Bf16 _ o => some ⟨o.n, o.d, o.a, o.b, 4, halves2 (fAdd Num.bf16)⟩
  | .hadd2F16 _ o => some ⟨o.n, o.d, o.a, o.b, 4, halves2 (fAdd Num.f16)⟩
  | .hmul2Bf16 _ o => some ⟨o.n, o.d, o.a, o.b, 4, halves2 (fMul Num.bf16)⟩
  | .hmul2F16 _ o => some ⟨o.n, o.d, o.a, o.b, 4, halves2 (fMul Num.f16)⟩
  | _ => none

/-- A floating-point word of two sources and register D. -/
structure FThree where
  n : Bool
  d : BitVec 7
  a : BitVec 7
  b : BitVec 7
  lat : Nat
  f : Word → Word → Word → Word × Num.Flags

/-- R278, R281: one rounding of the exact A times B plus D. -/
def fpThree : Instr → Option FThree
  | .ffma _ o => some ⟨o.n, o.d, o.a, o.b, 4, fun x y z =>
      (BitVec.ofNat 32 (fFma Num.f32 x.toNat y.toNat z.toNat).1, (fFma Num.f32 x.toNat y.toNat z.toNat).2)⟩
  | .hfma2Bf16 _ o => some ⟨o.n, o.d, o.a, o.b, 4, halves3 (fFma Num.bf16)⟩
  | .hfma2F16 _ o => some ⟨o.n, o.d, o.a, o.b, 4, halves3 (fFma Num.f16)⟩
  | _ => none

/-- A word of two sources and a pair for its result. -/
structure FPair where
  n : Bool
  d : BitVec 7
  a : BitVec 7
  b : BitVec 7
  lat : Nat
  f : Word → Word → Dword × Num.Flags

/-- R282, R286. -/
def fpPair : Instr → Option FPair
  | .hminmax2Bf16 _ o => some ⟨o.n, o.d, o.a, o.b, 4, fun x y =>
      ((halves2 (fMax Num.bf16) x y).1 ++ (halves2 (fMin Num.bf16) x y).1, 0#5)⟩
  | .hminmax2F16 _ o => some ⟨o.n, o.d, o.a, o.b, 4, fun x y =>
      ((halves2 (fMax Num.f16) x y).1 ++ (halves2 (fMin Num.f16) x y).1, 0#5)⟩
  | .gqcvtQ _ o => some ⟨o.n, o.d, o.a, o.b, 6, gqcvtQ⟩
  | _ => none

/-- The words that act on registers, latches, predicates and flags alone. -/
def registerWord (i : Instr) : Bool :=
  (intTwo i).isSome || (intOne i).isSome || (intThree i).isSome || (compares i).isSome || (fpOne i).isSome || (fpTwo i).isSome ||
  (fpThree i).isSome || (fpPair i).isSome ||
  match i with
  | .sel .. | .plop .. | .p2v .. | .v2p .. | .movi .. | .lit32 .. | .clkrd .. | .iadd64 .. | .addx64 .. | .gqcvtF .. | .unpk ..
  | .br .. | .call .. | .brm .. | .jmpr .. | .callr .. | .exit .. | .trap .. | .yieldTurn .. | .sleep .. | .waitge .. | .waitp ..
  | .sysrd .. | .flagsWrite .. | .trapret .. => true
  | _ => false

/-! ## Sets, packets and the words that use them -/

/-- What a member reads from the operand that a code names (R289: its own). -/
def State.val (s : State) (m : Member) (a : BitVec 7) : Word := ((s.plain m a).map Prod.fst).getD 0#32

/-- The CLK from which it is there. -/
def State.rdy (s : State) (m : Member) (a : BitVec 7) : Nat := ((s.plain m a).map Prod.snd).getD 0

/-- R46: the co-issue set of a word about member `m`: the threads of its braid that execute the word. -/
def State.setOf (s : State) (c : Cur) (i : Instr) (m : Member) : List Member :=
  (s.doers c i).filter (fun q => q.wg == m.wg && q.braid s == m.braid s)

/-- Every thread that executes the word can read the operand. -/
def State.allPlain (s : State) (c : Cur) (i : Instr) (a : BitVec 7) : Prop := ∀ q ∈ s.doers c i, (s.plain q a).isSome = true

/-- The latest CLK from which the operand of a set is there. -/
def State.setRdy (s : State) (l : List Member) (a : BitVec 7) : Nat := (l.map (fun q => s.rdy q a)).foldl max 0

/-- R289: the thread of a set at a lane of the braid, which lanes beyond W do not have. -/
def State.atBraidLane (s : State) (m : Member) (l : List Member) (k : Nat) : Option Member :=
  if k < (s.wgrp m.wg).w then l.find? (fun q => q.braidLane s == k) else none

/-- R290: the shuffles: operands, and the source lane of lane `l` for lane operand `k`. -/
def shuffles : Instr → Option (OpRR × (Nat → Nat → Option Nat))
  | .shflIdx _ o => some (o, fun _ k => some k)
  | .shflXor _ o => some (o, fun l k => some (Nat.xor l k))
  | .shflUp _ o => some (o, fun l k => if k ≤ l then some (l - k) else none)
  | .shflDn _ o => some (o, fun l k => some (l + k))
  | _ => none

/-- R104, R292: the least (where `hi`, the greatest) of a list of F32 words: NaNs give way, and are canonical where there is nothing else; a zero is
-0 (where `hi`, +0) where the list has one. -/
def Extreme (hi : Bool) (l : List Word) (r : Word) : Prop :=
  ((∀ v ∈ l, Num.d32 v = .nan) → r = 0x7FC00000#32) ∧
  ((∃ v ∈ l, Num.d32 v ≠ .nan) → r ∈ l ∧ Num.d32 r ≠ .nan ∧
    ∀ v ∈ l, Num.d32 v ≠ .nan → ¬ (if hi then (Num.d32 r).Below (Num.d32 v) else (Num.d32 v).Below (Num.d32 r)) ∧
      ((Num.d32 v).isZero = true → (Num.d32 r).isZero = true → (Num.d32 v).neg = !hi → (Num.d32 r).neg = !hi))

/-- R292: the reductions: operands, and what is true of the result of a list of values. FMIN and FMAX go by R104. -/
def reduces : Instr → Option (OpRF × (List Word → Word → Prop))
  | .reduxAdd _ o => some (o, fun l r => r = BitVec.ofNat 32 (l.map BitVec.toNat).sum)
  | .reduxMinI _ o => some (o, fun l r => r ∈ l ∧ ∀ v ∈ l, r.toInt ≤ v.toInt)
  | .reduxMaxI _ o => some (o, fun l r => r ∈ l ∧ ∀ v ∈ l, v.toInt ≤ r.toInt)
  | .reduxMinN _ o => some (o, fun l r => r ∈ l ∧ ∀ v ∈ l, r.toNat ≤ v.toNat)
  | .reduxMaxN _ o => some (o, fun l r => r ∈ l ∧ ∀ v ∈ l, v.toNat ≤ r.toNat)
  | .reduxAnd _ o => some (o, fun l r => ∀ k, k < 32 → (r.getLsbD k = true ↔ ∀ v ∈ l, v.getLsbD k = true))
  | .reduxOr _ o => some (o, fun l r => ∀ k, k < 32 → (r.getLsbD k = true ↔ ∃ v ∈ l, v.getLsbD k = true))
  | .reduxXor _ o => some (o, fun l r => ∀ k, k < 32 → r.getLsbD k = decide ((l.filter (fun v => v.getLsbD k)).length % 2 = 1))
  | .reduxFmin _ o => some (o, Extreme false)
  | .reduxFmax _ o => some (o, Extreme true)
  | _ => none

/-- What the packet in progress holds of a member has become `f` of it, and the thread itself has not changed. -/
def Marked (s t : State) (c : Cur) (m : Member) (f : Member → Member) : Prop :=
  t.memberOf c m.key = some (f m) ∧ t.thr m.wg m.t = s.thr m.wg m.t

/-- R398: the word has faulted in the thread; the thread itself has not changed. INFO 0, for a cause whose INFO R431 does not list, is the model's
deduction (log entry 26). -/
def Faulted (s t : State) (c : Cur) (m : Member) (cause info : Nat) : Prop :=
  Marked s t c m (fun x => x.addFault c.pos (s.noted c cause info))

/-- R230, R428: the thread goes to packet `x`, or faults where that is no packet number. -/
def Sent (s t : State) (c : Cur) (m : Member) (x : Int) : Prop :=
  if 0 ≤ x ∧ x < (2 : Int) ^ 53 then t.memberOf c m.key = some { m with target := some x.toNat } else
    Faulted s t c m 0x1D 0

/-- R230: the link to the packet after `pc` stands in the pair at `d`. -/
def Linked (s t : State) (m : Member) (d pc ready : Nat) : Prop :=
  t.thr m.wg m.t = ((s.thr m.wg m.t).setReg d (BitVec.ofNat 32 (pc + 1)) ready 0).setReg (d + 1)
    (BitVec.ofNat 32 ((pc + 1) / 2 ^ 32)) ready 0

/-- R231: pair `k` of a BRM: its predicate and its offset. -/
def brmPair (o : OpBrm) (k : Nat) : BitVec 5 × BitVec 16 :=
  match k with
  | 0 => (o.p0, o.o0)
  | 1 => (o.p1, o.o1)
  | 2 => (o.p2, o.o2)
  | _ => (o.p3, o.o3)

/-- R231: the predicate of a pair held when the packet began. -/
def Member.holds (m : Member) (p : BitVec 5 × BitVec 16) : Bool := p.1 == 0#5 || m.p0.getLsbD p.1.toNat

/-! ## Memory words -/

/-- R300: the loads: operands, size in bytes and whether the value is sign-extended. -/
def loads : Instr → Option (OpMA × Nat × Bool)
  | .ld8s _ o => some (o, 1, true)
  | .ld8z _ o => some (o, 1, false)
  | .ld16s _ o => some (o, 2, true)
  | .ld16z _ o => some (o, 2, false)
  | .ld32 _ o => some (o, 4, false)
  | .ld64 _ o => some (o, 8, false)
  | .ld128 _ o => some (o, 16, false)
  | _ => none

/-- R301: the stores: operands and size in bytes. -/
def stores : Instr → Option (OpMA × Nat)
  | .st8 _ o => some (o, 1)
  | .st16 _ o => some (o, 2)
  | .st32 _ o => some (o, 4)
  | .st64 _ o => some (o, 8)
  | .st128 _ o => some (o, 16)
  | _ => none

/-- R302: the scratchpad loads. -/
def scrLoads : Instr → Option (OpS × Nat)
  | .lds32 _ o => some (o, 4)
  | .lds64 _ o => some (o, 8)
  | .lds128 _ o => some (o, 16)
  | _ => none

/-- R302: the scratchpad stores. -/
def scrStores : Instr → Option (OpS × Nat)
  | .sts32 _ o => some (o, 4)
  | .sts64 _ o => some (o, 8)
  | .sts128 _ o => some (o, 16)
  | _ => none

/-- R234, R304: the atomics on memory: operands, operation code and size in bytes. -/
def atomics : Instr → Option (OpAT × Nat × Nat)
  | .atom32Add _ o => some (o, 0, 4)
  | .atom32And _ o => some (o, 1, 4)
  | .atom32Or _ o => some (o, 2, 4)
  | .atom32Xor _ o => some (o, 3, 4)
  | .atom32MinI _ o => some (o, 4, 4)
  | .atom32MaxI _ o => some (o, 5, 4)
  | .atom32MinN _ o => some (o, 6, 4)
  | .atom32MaxN _ o => some (o, 7, 4)
  | .atom32Exch _ o => some (o, 8, 4)
  | .atom32Cas _ o => some (o, 9, 4)
  | .atom32Fadd _ o => some (o, 10, 4)
  | .atom32Fmin _ o => some (o, 11, 4)
  | .atom32Fmax _ o => some (o, 12, 4)
  | .atom64Add _ o => some (o, 0, 8)
  | .atom64And _ o => some (o, 1, 8)
  | .atom64Or _ o => some (o, 2, 8)
  | .atom64Xor _ o => some (o, 3, 8)
  | .atom64MinI _ o => some (o, 4, 8)
  | .atom64MaxI _ o => some (o, 5, 8)
  | .atom64MinN _ o => some (o, 6, 8)
  | .atom64MaxN _ o => some (o, 7, 8)
  | .atom64Exch _ o => some (o, 8, 8)
  | .atom64Cas _ o => some (o, 9, 8)
  | _ => none

/-- R234, R304: the atomics on the scratchpad: operands and operation code. -/
def scrAtomics : Instr → Option (OpATS × Nat)
  | .atoms32Add _ o => some (o, 0)
  | .atoms32And _ o => some (o, 1)
  | .atoms32Or _ o => some (o, 2)
  | .atoms32Xor _ o => some (o, 3)
  | .atoms32MinI _ o => some (o, 4)
  | .atoms32MaxI _ o => some (o, 5)
  | .atoms32MinN _ o => some (o, 6)
  | .atoms32MaxN _ o => some (o, 7)
  | .atoms32Exch _ o => some (o, 8)
  | .atoms32Cas _ o => some (o, 9)
  | .atoms32Fadd _ o => some (o, 10)
  | .atoms32Fmin _ o => some (o, 11)
  | .atoms32Fmax _ o => some (o, 12)
  | _ => none

/-- R306: the fences: kind and scope. -/
def fences : Instr → Option (Nat × OpScope)
  | .fenceAcq _ o => some (0, o)
  | .fenceRel _ o => some (1, o)
  | .fenceFull _ o => some (2, o)
  | _ => none

/-- R234: the operand of an atomic and, for CAS, the value it compares with: CAS compares with the first register or pair of D and
writes the next. -/
def Member.atomArgs (m : Member) (d op size : Nat) : Nat × Nat :=
  let one := fun r => if size = 4 then (m.reg r).toNat else (m.pair r).toNat
  if op = 9 then (one (d + size / 4), one d) else (one d, 0)

/-- A memory word that a thread has issued: what it does, where, and what the word says of it. `seq` orders it among all accesses and
`word` is one number for all lanes of its word. -/
structure Pending where
  kind : MKind
  va : Nat
  ia : Nat
  pol : Nat
  hint : Nat
  scope : Nat
  core : Nat
  addr : Nat
  asid : Nat
  deriving DecidableEq, Repr

/-- The thread has a new memory word pending and holds its destination registers until it is delivered; no memory has changed. -/
def Pends (s t : State) (c : Cur) (m : Member) (held : List Nat) (p : Pending) : Prop :=
  ∃ q word dep n, s.seq ≤ q ∧ t =
    State.modThr { s with seq := n } m.wg m.t (fun x => held.foldl Thread.holdReg { x with mops := x.mops ++
      [{ MOp.mk0 p.kind p.va p.ia p.pol p.asid (s.pktPc c.core c.pkt) c.word c.pos with
          seq := q, word := word, hint := p.hint, scope := p.scope, core := p.core, addr := p.addr, dep := dep,
          grp := s.issueGrp ((s.wgrp m.wg).coreOf m.t), born := s.clk }] })

/-- The thread has a new memory word pending under stamp `q` and holds its destination registers. -/
def PendedAt (s t : State) (c : Cur) (m : Member) (held : List Nat) (p : Pending) (q : Nat) : Prop :=
  ∃ word dep, t.thr m.wg m.t = held.foldl Thread.holdReg { s.thr m.wg m.t with mops := (s.thr m.wg m.t).mops ++
    [{ MOp.mk0 p.kind p.va p.ia p.pol p.asid (s.pktPc c.core c.pkt) c.word c.pos with
        seq := q, word := word, hint := p.hint, scope := p.scope, core := p.core, addr := p.addr, dep := dep,
        grp := s.issueGrp ((s.wgrp m.wg).coreOf m.t), born := s.clk }] }

/-- R44, R141: a memory word acts on the members `l` in ascending place. Each passes or fails its check at its own stamp, in that order, no two
that pass at one; `good` and `bad` say what then holds of it. -/
def EachLane {α : Type} (s : State) (l : List Member) (check : State → Member → Except (Nat × Nat) α) (good : Member → Nat → α → Prop)
    (bad : Member → Nat × Nat → Prop) : Prop :=
  ∃ stamp : Nat → Nat, (∀ m ∈ l, s.seq ≤ stamp m.key) ∧
    l.Pairwise (fun a b => stamp a.key < stamp b.key ∨ (stamp a.key = stamp b.key ∧ (check { s with seq := stamp a.key } a).isOk = false)) ∧
    ∀ m ∈ l, match check { s with seq := stamp m.key } m with
      | .ok x => good m (stamp m.key) x
      | .error e => bad m e

/-- The keys of the threads of the packet. -/
def State.inGroup (s : State) (c : Cur) (k : Nat) : Prop := k ∈ (s.group c).map Member.key

/-- R146: the braid has a new store at the end of its queue; no memory has changed. -/
def Queues (s t : State) (c : Cur) (m : Member) (e : SEntry) : Prop :=
  t = State.modBrd { s with seq := s.seq + 1 } m.wg (m.braid s) (fun b => { b with storeQ := b.storeQ ++
    [{ e with
        seq := s.seq, t := m.t, pc := s.pktPc c.core c.pkt, raw := c.word, wpos := c.pos, born := s.clk, grp := s.issueGrp c.core,
        logged := none, replay := false, lseq := 0, trap := none }] })

/-- Several registers are readable. -/
def State.readable (s : State) (m : Member) (a n : Nat) : Prop := ∀ r, a ≤ r → r < a + n → s.badReg m r = false

/-- The little-endian bytes of a store of registers from `d`: 1, 2 or 4 bytes of one, or 8 or 16 bytes of two or four (R3, R301). -/
def Member.bytes (m : Member) (d size : Nat) : List Byte :=
  leBytes size (if size ≤ 4 then (m.reg d).toNat else if size = 8 then (m.pair d).toNat else
    (m.pair d).toNat + 2 ^ 64 * (m.pair (d + 2)).toNat)

/-! ## Hitch registers and engine commands -/

/-- A thread's record stands under its own key, and the record of hN that it shares is there. -/
structure Sharing (s : State) (wg t n : Nat) : Prop where
  wgOf : (s.thr wg t).wg = wg
  tOf : (s.thr wg t).t = t
  here : (Tbl.get? s.threads (tkey wg t)).isSome = true
  braid : n < 12 → (Tbl.get? s.braids (bkey wg ((s.wgrp wg).braidOf t))).isSome = true ∧
    n < (s.brd wg ((s.wgrp wg).braidOf t)).hitch.length
  group : 12 ≤ n → (Tbl.get? s.wgs wg).isSome = true ∧ (s.wgrp wg).hitchIx t n < (s.wgrp wg).hitch.length

/-- R50, R51: a register with one more signature, by a thread of home lane `lane`, of round kind `k`. -/
def Hitch.signed (h : Hitch) (n lane : Nat) (k : HKind) : Hitch :=
  { h with
    arrived := if n < 12 then h.arrived ||| (1#64 <<< lane) else h.arrived,
    count := if n < 12 then h.count else h.count + 1, kind := k }

/-- R48, R51: the signatures are those the register waits for. -/
def Hitch.full (h : Hitch) (n : Nat) : Prop := if n < 12 then h.arrived &&& h.members = h.members else h.expected ≤ h.count

/-- R48: the register has no open round. -/
def Hitch.closed (h : Hitch) : Prop := h.kind = .none ∧ h.arrived = 0#64 ∧ h.count = 0 ∧ h.cap = none

/-- R52: the signed commands: opcode, hitch register, descriptor, tile or queue, and promise pair. -/
def engines : Instr → Option (EngOp × Nat × Nat × Nat × Option Nat)
  | .mxs _ o => some (.mxs, o.hitch.toNat, o.a.toNat, o.q.toNat, none)
  | .smx _ o => some (.smx, o.hitch.toNat, o.a.toNat, o.q.toNat, none)
  | .cpbox _ o => some (.cpbox, o.hitch.toNat, o.a.toNat, o.q.toNat, some o.d.toNat)
  | .cplin _ o => some (.cplin, o.hitch.toNat, o.a.toNat, o.q.toNat, some o.d.toNat)
  | .rtplan _ o => some (.rtplan, o.hitch.toNat, o.a.toNat, o.q.toNat, some o.d.toNat)
  | .rtscat _ o => some (.rtscat, o.hitch.toNat, o.a.toNat, o.q.toNat, some o.d.toNat)
  | .rtcomb _ o => some (.rtcomb, o.hitch.toNat, o.a.toNat, o.q.toNat, some o.d.toNat)
  | .nmcall _ o => some (.nmcall, o.hitch.toNat, o.a.toNat, 0, none)
  | _ => none

/-- R359: the bank commands: what the word says, its address pair and its register D. -/
def bankWords : Instr → Option (BankOp × Nat × Nat)
  | .nmbkMac _ o => some (⟨1, o.all, o.clr, o.fb, 0⟩, o.a.toNat, 0)
  | .nmbkBcst _ o => some (⟨2, o.all, false, false, 0⟩, o.a.toNat, o.d.toNat)
  | .nmbkRdac _ o => some (⟨3, false, o.clr, o.fb, 0⟩, o.a.toNat, o.d.toNat)
  | .nmbkLmac _ o => some (⟨4, false, o.clr, true, o.tb.toNat⟩, o.a.toNat, 0)
  | _ => none

/-- The members that execute the word are of one braid of one workgroup, whose records of hN are there; each is at the home lane that its thread
has, and no signature of theirs is recorded. -/
structure OneBraid (i : Instr) (s : State) (c : Cur) (n wg b : Nat) : Prop where
  low : n < 12
  some : s.doers c i ≠ []
  here : ∀ m ∈ s.doers c i, m.wg = wg ∧ m.braid s = b ∧ Sharing s m.wg m.t n
  lane : ∀ m ∈ s.doers c i, m.lane = (s.thr m.wg m.t).lane ∧ m.lane < 64
  free : ∀ m ∈ s.doers c i, ((s.brd wg b).hitch.getD n (Hitch.launch 0#64 0)).arrived.getLsbD m.lane = false

/-- The home lanes of members. -/
def lanesMask (l : List Member) : BitVec 64 := l.foldl (fun x m => x ||| (1#64 <<< m.lane)) 0#64

/-- R421: what lets a thread sign a round of kind `k`. -/
def MaySign (h : Hitch) (x : Thread) (n : Nat) (k : HKind) : Prop :=
  x.sig.getLsbD n = false ∧ (n < 12 → h.members.getLsbD x.lane = true) ∧ (h.kind = .none ∨ h.kind = k) ∧ (12 ≤ n → h.count < h.expected)

/-- R48, R123: range register `k` of an address space. -/
def State.rangeAt (s : State) (asid k : Nat) : BitVec 192 := Tbl.getD s.ranges (asid * 16 + k) 0#192

/-- R123: a range register holds a unit of 64 KiB: it is valid and the unit lies from its base to its limit. -/
def covers (r : BitVec 192) (u : Nat) : Prop :=
  r.getLsbD 0 = true ∧ (r.extractLsb 56 16).toNat ≤ u ∧ u ≤ (r.extractLsb 104 64).toNat

/-- R296: the binding of a port of a member's braid. -/
def State.portOf (s : State) (m : Member) (q : Nat) : Binding := (s.brd m.wg (m.braid s)).ports.getD q .unbound

/-- Every field of the thread but its latch, registers, their scoreboard and dependences is as before. -/
def SameThread (x y : Thread) : Prop := { x with latch := y.latch, v := y.v, busy := y.busy, covered := y.covered, dep := y.dep } = y

/-- The words of the co-issue sets and tables that act on registers, latches, predicates and what lands at the end of a cycle alone. -/
def setWord (i : Instr) : Bool :=
  (shuffles i).isSome || (reduces i).isSome ||
  match i with
  | .voteAll .. | .voteAny .. | .voteBallot .. | .voteEq .. | .hbfly .. | .cbld .. | .mxstat .. | .stcfg .. | .qfence .. => true
  | _ => false

/-- What a word may make due at the end of its cycle. -/
def mayLand (i : Instr) : CycAct → Bool
  | .pred .. => (compares i).isSome || match i with
    | .plop .. | .v2p .. | .voteAll .. | .voteAny .. | .voteEq .. => true
    | _ => false
  | .flags .. => (fpOne i).isSome || (fpTwo i).isSome || (fpThree i).isSome || (fpPair i).isSome || match i with
    | .gqcvtF .. | .hbfly .. => true
    | _ => false
  | .flagsSet .. => match i with
    | .flagsWrite .. => true
    | _ => false
  | .code .. => match i with
    | .cbld .. => true
    | _ => false
  | .stcfg .. => match i with
    | .stcfg .. => true
    | _ => false
  | .qfence .. => match i with
    | .qfence .. => true
    | _ => false
  | .segb .. => false
  | .bind .. => false
  | .priv .. => false

/-- The registers that a word on registers may write. -/
def written (i : Instr) : List Nat :=
  match i with
  | .call .. => [6, 7]
  | .callr _ o => [o.d.toNat, o.d.toNat + 1]
  | .lit32 _ o => [o.d.toNat]
  | .mxstat _ o => [o.d.toNat, o.d.toNat + 1, o.d.toNat + 2, o.d.toNat + 3]
  | .sysrd _ o => if sysWide o.num.toNat then [o.d.toNat, o.d.toNat + 1] else [o.d.toNat]
  | .imad _ o => if o.n then [] else [o.d.toNat]
  | .bswz _ o => if o.n then [] else [o.d.toNat]
  | .ffma _ o => if o.n then [] else [o.d.toNat]
  | .hfma2Bf16 _ o => if o.n then [] else [o.d.toNat]
  | .hfma2F16 _ o => if o.n then [] else [o.d.toNat]
  | _ => i.opns.flatMap (fun x => match x with
    | .dst false d => [d.toNat]
    | .dpair false d => [d.toNat, d.toNat + 1]
    | _ => [])

/-- The key of the thread that an effect at the end of a cycle changes. -/
def CycAct.thread : CycAct → Option Nat
  | .pred wg t _ _ => some (tkey wg t)
  | .priv wg _ t _ _ _ _ _ _ => some (tkey wg t)
  | _ => none

/-- R209, R210, R359: the command that an NMBK word of one thread issues: its stamp, its thread, and the fields of its command word. -/
structure IssuedAs (s : State) (m : Member) (o : BankOp) (d ia spa : Nat) (b : BankCmd) : Prop where
  seq : b.seq = s.seq
  wg : b.wg = m.wg
  t : b.t = m.t
  ia : b.ia = ia
  opc : b.opc = o.opc
  all : b.all = o.all
  clr : b.clr = o.clr
  bf : b.bf = o.fb
  tbank : b.tbank = o.tb
  row : b.row = spaRow spa
  bg : o.opc ≠ 2 → b.bg = spaBg spa
  bank : o.opc ≠ 2 → (o.opc = 3 → o.fb = false) → b.bank = spaBank spa
  col : o.opc ≠ 2 → b.col = spaCol spa
  dests : b.dests = [(m.lane % 16, m.t, d)]
  bcast : o.opc = 2 → b.bcast = [(m.lane % 16, m.reg d)]

/-! ## The end of a packet -/

/-- The act that is due is the end of a packet of one thread, which its workgroup is not keeping from it. -/
structure Ending (s : State) (core pkt : Nat) (p : Packet) (m : Member) : Prop where
  due : s.agenda.head? = some (.packetEnd core pkt)
  packet : (s.turnOf core).bind (fun t => t.pkts[pkt]?) = some p
  one : p.members = [m]
  good : p.bad = false
  here : (Tbl.get? s.threads (tkey m.wg m.t)).isSome = true
  wgHere : (Tbl.get? s.wgs m.wg).isSome = true
  live : (s.wgrp m.wg).ended = none ∧ (s.wgrp m.wg).retired = false ∧ (s.wgrp m.wg).stopping = false
  free : (s.thr m.wg m.t).bound = none
  calm : (s.thr m.wg m.t).async = []

/-- R402: the doubles of a frame that a thread's stores write. -/
def frameDoubles (l : List Byte) : List Nat := (List.range 16).map (fun i => leVal ((l.drop (8 * i)).take 8))

/-! ## Events -/

/-- Every thread's record stands once, under its own key. -/
structure State.Coherent (s : State) : Prop where
  own : ∀ p ∈ s.threads, p.1 = tkey p.2.wg p.2.t
  once : (s.threads.map Prod.fst).Nodup

/-- R405: a partition keeps no fault queue: a record of its domains goes nowhere. -/
def State.noQueue (s : State) (part : Nat) : Prop := (s.part part).fqtab.toNat % 2 ^ 52 = 0

/-- R480: the slots of a die's capacity ring, and whether all are taken. -/
def State.ringSlots (s : State) (die : Nat) : Nat := 2 ^ ((s.die die).power.capring.toNat / 2 ^ 52 % 16)
def State.ringFull (s : State) (die : Nat) : Prop :=
  ((s.die die).power.captail.toNat + 2 ^ 32 - (s.die die).power.caphead.toNat) % 2 ^ 32 = s.ringSlots die

/-- R132, R149: the home of a device IA holds these bytes, within one line, from it on. -/
def State.HoldsAt (s : State) (ia : Nat) (data : List Byte) : Prop :=
  ∃ l, findLine (ia / 128) (s.die (dieOfStack (iaStack ia))).l2 = some l ∧ ∀ j, j < data.length → Tbl.get? l.data (ia % 128 + j) = data[j]?

/-- An IA of device memory with a multiple of `n` bytes below it. -/
def DevIa (ia n : Nat) : Prop := nbits ia 51 48 ≤ 1 ∧ ia < 2 ^ 52 ∧ ia % n = 0

/-- R372: vector `v` is raised: a message leaves, or its pending bit is set where it is masked. -/
def State.raises (s t : State) (v : Nat) : Prop :=
  (s.msixMask.getLsbD v = false → .msix v ∈ t.outbox) ∧ (s.msixMask.getLsbD v = true → t.msixPend.getLsbD v = true)

/-- R369: there is one workgroup, of the main die, and no launch, request or save area holds more of it. -/
structure OneWg (s : State) (w : Nat) (g : Workgroup) : Prop where
  only : s.wgs = [(w, g)]
  id : g.id = w
  main : g.stack = none
  runs : g.retired = false ∧ g.stopping = false
  noLaunch : s.launches = []
  noReq : s.reqs = []
  noArea : (s.part g.part).saveArea = 0#64

/-- R437: no access, store, counter increment or request waits for translator `tr`. -/
def State.noneLogged (s : State) (tr : Nat) : Prop :=
  (∀ p ∈ s.threads, ∀ m ∈ p.2.mops, m.logged ≠ some tr) ∧ (∀ p ∈ s.braids, ∀ e ∈ p.2.storeQ, e.logged ≠ some tr) ∧
  (∀ p ∈ s.cores, ∀ w ∈ p.2.wstores, w.logged ≠ some tr) ∧ (∀ h ∈ s.heldAdds, h.tr ≠ tr)

/-- R130, R209: word `i` of the 64-byte block at a column of a row of a bank. -/
def State.bankWord (s : State) (k pch bg bank row col i : Nat) : Nat :=
  leVal (s.dramRead (dkey k (rowSpa pch bg bank row + 64 * col) + 4 * i) 4)

/-- R209: accumulator word `i` of a bank after a MAC. -/
def State.macSum (s : State) (k : Nat) (b : BankCmd) (pch bg bank i : Nat) : Word :=
  let d := s.bankWord k pch bg bank b.row b.col i
  let w := (Tbl.getD (s.stack k).bcast (16 * pch + i) 0#32).toNat
  Num.passElem (if b.clr then .fin false 0 0 else Num.d32 (Tbl.getD (s.stack k).acc (accKey pch bg bank + i) 0#32))
    (if b.bf then [Num.mul (Num.decode Num.bf16 (d % 2 ^ 16)) (Num.decode Num.bf16 (w % 2 ^ 16)),
        Num.mul (Num.decode Num.bf16 (d / 2 ^ 16)) (Num.decode Num.bf16 (w / 2 ^ 16))]
      else [Num.mul (Num.decode Num.f32 d) (Num.decode Num.f32 w)])

/-- R209: the entry of table `n % 64` that 4-bit index `n` of the weight block names. -/
def State.lutEntry (s : State) (k : Nat) (b : BankCmd) (n : Nat) : Nat :=
  let x := leVal (s.dramRead (dkey k (rowSpa b.pch b.bg b.bank b.row + 64 * b.col) + n / 2) 1)
  let c := (if n % 2 = 0 then x else x / 16) % 16
  leVal (s.dramRead (dkey k (rowSpa b.pch b.bg b.tbank b.row) + 32 * (n % 64) + 2 * c) 2)

/-- R209: lane `j` of the lookup accumulator of a bank group after an LMAC. -/
def State.lutSum (s : State) (k : Nat) (b : BankCmd) (j : Nat) : Word :=
  Num.passElem (if b.clr then .fin false 0 0 else Num.d32 (Tbl.getD (s.stack k).lut (lutKey b.pch b.bg + j) 0#32))
    ((List.range 8).map (fun i => Num.decode Num.bf16 (s.lutEntry k b (8 * j + i))))

/-- R213: the kicks: the kind of kernel, the stack and the address of the argument block. -/
def kicks : Instr → Option (Nat × Nat × Nat)
  | .nmkickScrub _ k ia => some (1, k, ia)
  | .nmkickMigrationCopy _ k ia => some (2, k, ia)
  | .nmkickZero _ k ia => some (3, k, ia)
  | _ => none

/-- What the device sends is one more thing to the outside world. -/
def State.sends (s t : State) (o : Out) : Prop := t.outbox = s.outbox ++ [o]

end Sys2Proof.Machine
end

