-- ==== Sys2Proof/Certificates/Slice0/Obligations.lean ====
section
/-! DEFINITION. The statements for the provers. -/


open Sys2Proof Sys2Proof.Machine

/-! ## Words on registers -/

/-- R265, R248, R221, R224: every integer word of two sources writes the result that R265 states for the values its sources had, in
every thread that executes it, and raises no flag. R266, R270: IMAD and BSWZ read register D as well, whatever N is. -/
def Obligations.IntegerTwoSource : Prop :=
  (∀ i x, intTwo i = some x → ∀ s c, Issuing s c → portless i = true →
    ∃ t, exec i s = .next t ∧ t.landing c.core = s.landing c.core ∧ ∀ m ∈ s.doers c i, ∀ p q, s.plain m x.a = some p → s.plain m x.b = some q →
      Took s t m x.n x.d.toNat (x.f p.1 q.1) (readyAt c.core (max s.clk (max p.2 q.2)) x.lat)) ∧
  (∀ i x, intThree i = some x → x.d.toNat < 112 → ∀ s c, Issuing s c → portless i = true →
    ∃ t, exec i s = .next t ∧ t.landing c.core = s.landing c.core ∧ ∀ m ∈ s.doers c i, ∀ p q r, s.plain m x.a = some p → s.plain m x.b = some q → s.plain m x.d = some r →
      Took s t m x.n x.d.toNat (x.f p.1 q.1 r.1) (readyAt c.core (max s.clk (max p.2 q.2)) x.lat))

/-- R267, R269, R248: every integer word of one source. -/
def Obligations.IntegerOneSource : Prop :=
  ∀ i x, intOne i = some x → ∀ s c, Issuing s c → portless i = true →
    ∃ t, exec i s = .next t ∧ ∀ m ∈ s.doers c i, ∀ p, s.plain m x.a = some p →
      Took s t m x.n x.d.toNat (x.f p.1) (readyAt c.core (max s.clk p.2) x.lat)

/-- R268: IADD64 adds two pairs, ADDX64 a pair and a signed 32-bit offset; the low word is pushed first. -/
def Obligations.IntegerPair : Prop :=
  ∀ h o s c, Issuing s c →
    (∃ t, exec (.iadd64 h o) s = .next t ∧ ∀ m ∈ s.doers c (.iadd64 h o), s.plainPair m o.a.toNat → s.plainPair m o.b.toNat →
      TookPair s t m o.n o.d.toNat (BitVec.ofNat 64 ((m.pair o.a.toNat).toNat + (m.pair o.b.toNat).toNat)) (readyAt c.core s.clk 5)) ∧
    (portless (.addx64 h o) = true → ∃ t, exec (.addx64 h o) s = .next t ∧
      ∀ m ∈ s.doers c (.addx64 h o), ∀ q, s.plainPair m o.a.toNat → s.plain m o.b = some q →
        TookPair s t m o.n o.d.toNat (BitVec.ofInt 64 ((m.pair o.a.toNat).toInt + q.1.toInt)) (readyAt c.core (max s.clk q.2) 5))

/-- R267, R274, R298, R256: MOVI, P2V, CLKRD and LIT32 write a value that needs no register: the constant of the word, the 32
predicates with p0 true, CLK at issue, and the data word. LIT32 pushes no latch. R272, R229: SEL takes A where the predicate that its guard
field selects is true, else B; it is never guarded. -/
def Obligations.ConstantWords : Prop :=
  (∀ h o s c, Issuing s c → portless (.movi h o) = true → ∃ t, exec (.movi h o) s = .next t ∧ ∀ m ∈ s.doers c (.movi h o),
    Took s t m o.n o.d.toNat (BitVec.ofInt 32 o.imm.toInt) (readyAt c.core s.clk 2)) ∧
  (∀ h o s c, Issuing s c → portless (.p2v h o) = true → ∃ t, exec (.p2v h o) s = .next t ∧ ∀ m ∈ s.doers c (.p2v h o),
    Took s t m o.n o.d.toNat (m.ps ||| 1#32) (readyAt c.core s.clk 3)) ∧
  (∀ h o s c, Issuing s c → ∃ t, exec (.clkrd h o) s = .next t ∧ ∀ m ∈ s.doers c (.clkrd h o),
    TookPair s t m false o.d.toNat (BitVec.ofNat 64 s.clk) (readyAt c.core s.clk 4)) ∧
  (∀ h o s c, Issuing s c → ∃ t, exec (.lit32 h o) s = .next t ∧ ∀ m ∈ s.doers c (.lit32 h o),
    TookReg s t m o.d.toNat o.k (readyAt c.core s.clk 2)) ∧
  (∀ h o s c, Issuing s c → portless (.sel h o) = true →
    ∃ t, exec (.sel h o) s = .next t ∧ ∀ m ∈ s.doers c (.sel h o), ∀ p q, s.plain m o.a = some p → s.plain m o.b = some q →
      Took s t m o.n o.d.toNat (if h.g = 0#2 ∨ m.ps.getLsbD h.g.toNat = true then p.1 else q.1)
        (readyAt c.core (max s.clk (max p.2 q.2)) 4))

/-- R271, R279: the compares put their outcome into predicate pD at the end of the cycle, and push nothing. R273, R274: PLOP looks pA and
pB up in its table; V2P takes predicates 1 to 31 from a register. Neither pushes a latch. -/
def Obligations.CompareWords : Prop :=
  (∀ i x, compares i = some x → ∀ s c, Issuing s c → portless i = true →
    ∃ t, exec i s = .next t ∧ ∀ m ∈ s.doers c i, ∀ p q, s.plain m x.a = some p → s.plain m x.b = some q →
      TookPred s t c m x.pd (x.f p.1 q.1) (readyAt c.core (max s.clk (max p.2 q.2)) 2)) ∧
  (∀ h o s c, Issuing s c → ∃ t, exec (.plop h o) s = .next t ∧ ∀ m ∈ s.doers c (.plop h o),
    TookPred s t c m o.pd.toNat
      (o.tbl.getLsbD ((if m.ps.getLsbD o.pa.toNat then 2 else 0) + (if m.ps.getLsbD o.pb.toNat then 1 else 0))) (readyAt c.core s.clk 2)) ∧
  (∀ h o s c, Issuing s c → portless (.v2p h o) = true → ∃ t, exec (.v2p h o) s = .next t ∧
    ∀ m ∈ s.doers c (.v2p h o), ∀ p, s.plain m o.a = some p →
      (∀ k, 1 ≤ k → k ≤ 31 → .pred m.wg m.t k (p.1.getLsbD k) ∈ t.landing c.core ∧
        Tbl.get? (t.thr m.wg m.t).busy (predKey k) =
          some (laterOf (Tbl.get? (s.thr m.wg m.t).busy (predKey k)) (readyAt c.core (max s.clk p.2) 2))) ∧
      { t.thr m.wg m.t with busy := (s.thr m.wg m.t).busy, dep := (s.thr m.wg m.t).dep } = s.thr m.wg m.t)

/-- R280, R283, R284, R287, R288: floating-point words of one source write one result, and their flags are raised in the
braid. What the results are: the roundings to integers of FUNARY; the conversions of CVT, each format and integer with its NaN, infinities,
zeros, saturation and rounding; RCP, RSQRT and SQRT correctly rounded, with the special cases of R104 and R288; and the special and the exact
cases of EX2, LG2, SIN, COS and TANH. The other results of these five lie within the accuracy of R287 and are the model's free choice (log
entry 4): nothing is said of them but that they raise inexact. -/
def Obligations.FloatOneSource : Prop :=
  (∀ i x, fpOne i = some x → ∀ s c, Issuing s c → portless i = true →
    ∃ t, exec i s = .next t ∧ ∀ m ∈ s.doers c i, ∀ p, s.plain m x.a = some p →
      Took s t m x.n x.d.toNat (x.f p.1).1 (readyAt c.core (max s.clk p.2) x.lat) ∧
        Raised s t c m (x.f p.1).2 (readyAt c.core (max s.clk p.2) x.lat)) ∧
  (∀ a : Word, Integral (fun x z => z = ⌊x⌋) a (roundF 0 a).1 ∧ Integral (fun x z => z = ⌈x⌉) a (roundF 1 a).1 ∧
    Integral (IntOf true) a (roundF 2 a).1 ∧ Integral (IntOf false) a (roundF 3 a).1 ∧ (∀ k, k < 3 → (roundF k a).2 = 0#5) ∧
    (roundF 3 a).2 = if (Num.d32 a).isNan = true ∨ (roundF 3 a).1 = a then 0#5 else Num.fInexact) ∧
  (∀ (src dst : BitVec 3) rz (a : Word), let r := cvtOut dst rz (cvtIn src a)
    (∀ f, fpFormats[dst.toNat]? = some f → ToFloat f rz (cvtSource src.toNat a) (r.1.toNat, r.2)) ∧
    (∀ lo hi : Int, (dst = 5#3 ∧ lo = -2 ^ 31 ∧ hi = 2 ^ 31 - 1) ∨ (dst = 6#3 ∧ lo = 0 ∧ hi = 2 ^ 32 - 1) ∨ (dst = 7#3 ∧ lo = -127 ∧ hi = 127) →
      ∃ z, ToInteger lo hi rz (cvtSource src.toNat a) z r.2 ∧ r.1 = BitVec.ofInt 32 z)) ∧
  (∀ a : Word, let u := Num.d32 a
    QuotientOf Num.f32 (Num.ofI 1) u ((sfuRcp a).1.toNat, (sfuRcp a).2) ∧
    (∀ i, i ∈ [sfuRcp, sfuRsqrt, sfuSqrt, sfuEx2, sfuLg2, sfuTrig 5 false, sfuTrig 6 true, sfuTanh] → u = .nan → i a = (0x7FC00000#32, 0#5)) ∧
    (∀ i, i ∈ [sfuRsqrt, sfuSqrt, sfuLg2] → (u = .inf true ∨ ∃ x, u.Is x ∧ x < 0) → i a = (0x7FC00000#32, Num.fInvalid)) ∧
    (∀ s, u = .inf s → sfuTrig 5 false a = (0x7FC00000#32, Num.fInvalid) ∧ sfuTrig 6 true a = (0x7FC00000#32, Num.fInvalid) ∧
      sfuEx2 a = (if s then 0#32 else 0x7F800000#32, 0#5) ∧ sfuTanh a = (if s then 0xBF800000#32 else 0x3F800000#32, 0#5)) ∧
    (u = .inf false → sfuRsqrt a = (0#32, 0#5) ∧ sfuSqrt a = (0x7F800000#32, 0#5) ∧ sfuLg2 a = (0x7F800000#32, 0#5)) ∧
    (u.isZero = true → sfuRsqrt a = (BitVec.ofNat 32 (Num.f32.infOf u.neg), Num.fDivZero) ∧ sfuSqrt a = (a, 0#5) ∧ sfuLg2 a = (0xFF800000#32, Num.fDivZero) ∧
      sfuTrig 5 false a = (a, 0#5) ∧ sfuTrig 6 true a = (0x3F800000#32, 0#5) ∧ sfuTanh a = (a, 0#5)) ∧
    (∀ x, u.Is x → 0 < x → RoundedWord (1 / Real.sqrt x) (sfuRsqrt a) ∧ RoundedWord (Real.sqrt x) (sfuSqrt a)) ∧
    (∀ x, u.Is x →
      (128 ≤ x → sfuEx2 a = (0x7F800000#32, Num.fOverflow ||| Num.fInexact)) ∧ (x < -150 → sfuEx2 a = (0#32, Num.fUnderflow ||| Num.fInexact)) ∧
      (∀ n : Int, x = n → -149 ≤ n → n < 128 → (Num.d32 (sfuEx2 a).1).Is ((2 : ℝ) ^ n) ∧ (sfuEx2 a).2 = 0#5) ∧
      ((∀ n : Int, -149 ≤ n → x ≠ n) → (sfuEx2 a).2.getLsbD 0 = true) ∧
      (∀ n : Int, x = (2 : ℝ) ^ n → (Num.d32 (sfuLg2 a).1).Is n ∧ (sfuLg2 a).2 = 0#5) ∧
      (0 < x → (∀ n : Int, x ≠ (2 : ℝ) ^ n) → (sfuLg2 a).2.getLsbD 0 = true) ∧
      (x ≠ 0 → (sfuTrig 5 false a).2.getLsbD 0 = true ∧ (sfuTrig 6 true a).2.getLsbD 0 = true ∧ (sfuTanh a).2.getLsbD 0 = true) ∧
      (x ≠ 0 → |x| < (2 : ℝ) ^ (-12 : Int) → sfuTanh a = (a, if (a &&& 0x7FFFFFFF#32).toNat < 0x00800000 then Num.fInexact ||| Num.fUnderflow else Num.fInexact)) ∧
      (9.5 ≤ |x| → sfuTanh a = (if u.neg then 0xBF800000#32 else 0x3F800000#32, Num.fInexact))))

/-- R277, R281: floating-point words of two sources. R278, R281: FFMA and HFMA2 read register D as well. The results are those of R89, R98,
R103, R104 and R105 for each format: one rounding of the exact sum, difference, product, quotient or product plus addend, with its flags, its
zeros, infinities and NaNs; the minimum and the maximum keep the bits of the operand they choose; and the packed words act on each half. -/
def Obligations.FloatTwoSource : Prop :=
  (∀ i x, fpTwo i = some x → ∀ s c, Issuing s c → portless i = true →
    ∃ t, exec i s = .next t ∧ ∀ m ∈ s.doers c i, ∀ p q, s.plain m x.a = some p → s.plain m x.b = some q →
      Took s t m x.n x.d.toNat (x.f p.1 q.1).1 (readyAt c.core (max s.clk (max p.2 q.2)) x.lat) ∧
        Raised s t c m (x.f p.1 q.1).2 (readyAt c.core (max s.clk (max p.2 q.2)) x.lat)) ∧
  (∀ i x, fpThree i = some x → x.d.toNat < 112 → ∀ s c, Issuing s c → portless i = true →
    ∃ t, exec i s = .next t ∧ ∀ m ∈ s.doers c i, ∀ p q r, s.plain m x.a = some p → s.plain m x.b = some q → s.plain m x.d = some r →
      Took s t m x.n x.d.toNat (x.f p.1 q.1 r.1).1 (readyAt c.core (max s.clk (max p.2 q.2)) x.lat) ∧
        Raised s t c m (x.f p.1 q.1 r.1).2 (readyAt c.core (max s.clk (max p.2 q.2)) x.lat)) ∧
  (∀ f, f ∈ [Num.f32, Num.bf16, Num.f16] → ∀ a b d, a < 2 ^ f.width → b < 2 ^ f.width → d < 2 ^ f.width →
    let u := Num.decode f a
    let v := Num.decode f b
    SumOf f u v (fAdd f a b) ∧ SumOf f u v.negate (fSub f a b) ∧ ProductOf f u v (fMul f a b) ∧ QuotientOf f u v (fDivide f a b) ∧
    FmaOf f u v (Num.decode f d) (fFma f a b d) ∧ PickedOf f false a b (fMin f a b).1 ∧ PickedOf f true a b (fMax f a b).1 ∧
    (fMin f a b).2 = 0#5 ∧ (fMax f a b).2 = 0#5) ∧
  (∀ f, f ∈ [Num.bf16, Num.f16] → ∀ a b d : Word, ∀ i, i < 2 →
    half (halves2 (fAdd f) a b).1 i = (fAdd f (half a i) (half b i)).1 ∧ half (halves2 (fMul f) a b).1 i = (fMul f (half a i) (half b i)).1 ∧
    half (halves3 (fFma f) a b d).1 i = (fFma f (half a i) (half b i) (half d i)).1 ∧
    (halves2 (fAdd f) a b).2 = (fAdd f (half a 0) (half b 0)).2 ||| (fAdd f (half a 1) (half b 1)).2 ∧
    (halves2 (fMul f) a b).2 = (fMul f (half a 0) (half b 0)).2 ||| (fMul f (half a 1) (half b 1)).2 ∧
    (halves3 (fFma f) a b d).2 = (fFma f (half a 0) (half b 0) (half d 0)).2 ||| (fFma f (half a 1) (half b 1) (half d 1)).2)

/-- R282, R286: HMINMAX2 writes the minima to the even register and the maxima to the odd one, each half the operand that R104 chooses, and
raises no flag; GQCVT.Q writes the 64-bit integer nearest to the value times the power of two, saturated, or 0 of a NaN or an infinity; GQCVT.F
reads one and rounds once. -/
def Obligations.FloatPair : Prop :=
  (∀ i x, fpPair i = some x → ∀ s c, Issuing s c → portless i = true →
    ∃ t, exec i s = .next t ∧ ∀ m ∈ s.doers c i, ∀ p q, s.plain m x.a = some p → s.plain m x.b = some q →
      TookPair s t m x.n x.d.toNat (x.f p.1 q.1).1 (readyAt c.core (max s.clk (max p.2 q.2)) x.lat) ∧
        Raised s t c m (x.f p.1 q.1).2 (readyAt c.core (max s.clk (max p.2 q.2)) x.lat)) ∧
  (∀ h o s c, Issuing s c → portless (.gqcvtF h o) = true → ∃ t, exec (.gqcvtF h o) s = .next t ∧
    ∀ m ∈ s.doers c (.gqcvtF h o), ∀ q, s.plainPair m o.a.toNat → s.plain m o.b = some q →
      Took s t m o.n o.d.toNat (gqcvtF (m.pair o.a.toNat) q.1).1 (readyAt c.core (max s.clk q.2) 6) ∧
      Raised s t c m (gqcvtF (m.pair o.a.toNat) q.1).2 (readyAt c.core (max s.clk q.2) 6)) ∧
  (∀ f, f ∈ [Num.bf16, Num.f16] → ∀ (a b : Word) i, i < 2 →
    PickedOf f false (half a i) (half b i) (half (halves2 (fMin f) a b).1 i) ∧ PickedOf f true (half a i) (half b i) (half (halves2 (fMax f) a b).1 i)) ∧
  (∀ a b : Word, let σ := (b.extractLsb' 0 9).toInt
    (¬ (Num.d32 a).IsFin → gqcvtQ a b = (0#64, Num.fInvalid)) ∧
    (∀ x, (Num.d32 a).Is x → ∃ z, IntegerOf (-2 ^ 63) (2 ^ 63 - 1) false (x * (2 : ℝ) ^ σ) z (gqcvtQ a b).2 ∧ (gqcvtQ a b).1 = BitVec.ofInt 64 z)) ∧
  (∀ (a : Dword) (b : Word), let σ := (b.extractLsb' 0 9).toInt
    (a = 0#64 → gqcvtF a b = (0#32, 0#5)) ∧ (a ≠ 0#64 → RoundedWord ((a.toInt : ℝ) * (2 : ℝ) ^ (-σ)) (gqcvtF a b)))

/-! ## Words over co-issue sets -/

/-- R289, R290: a shuffle gives every thread the value of the thread of its set at the source lane, and its own where that lane is
beyond W or has no thread of the set; no flag is raised. -/
def Obligations.Shuffles : Prop :=
  ∀ i o f, shuffles i = some (o, f) → ∀ s c, Issuing s c → portless i = true → s.allPlain c i o.a → s.allPlain c i o.b →
    ∃ t, exec i s = .next t ∧ t.landing c.core = s.landing c.core ∧ ∀ m ∈ s.doers c i,
      Took s t m o.n o.d.toNat
        (match (f (m.braidLane s) ((s.val m o.b).toNat % 64)).bind (s.atBraidLane m (s.setOf c i m)) with
          | some q => s.val q o.a
          | none => s.val m o.a)
        (readyAt c.core (max s.clk (max (s.setRdy (s.setOf c i m) o.a) (s.rdy m o.b))) 6)

/-- R291: the votes. ALL, ANY and EQ write a predicate and push nothing; BALLOT writes the mask of home lanes. None raises a
flag. -/
def Obligations.Votes : Prop :=
  (∀ h o s c, Issuing s c → ∃ t, exec (.voteAll h o) s = .next t ∧
    (∀ a ∈ t.landing c.core, a ∈ s.landing c.core ∨ ∃ w k i v, a = .pred w k i v) ∧ ∀ m ∈ s.doers c (.voteAll h o),
    TookPred s t c m o.pd.toNat ((s.setOf c (.voteAll h o) m).all (fun q => q.ps.getLsbD o.ps.toNat)) (readyAt c.core s.clk 4)) ∧
  (∀ h o s c, Issuing s c → ∃ t, exec (.voteAny h o) s = .next t ∧
    (∀ a ∈ t.landing c.core, a ∈ s.landing c.core ∨ ∃ w k i v, a = .pred w k i v) ∧ ∀ m ∈ s.doers c (.voteAny h o),
    TookPred s t c m o.pd.toNat ((s.setOf c (.voteAny h o) m).any (fun q => q.ps.getLsbD o.ps.toNat)) (readyAt c.core s.clk 4)) ∧
  (∀ h o s c, Issuing s c → ∃ t, exec (.voteBallot h o) s = .next t ∧ t.landing c.core = s.landing c.core ∧
    ∀ m ∈ s.doers c (.voteBallot h o), ∃ v,
    (∀ k, k < 64 → v.getLsbD k = (s.setOf c (.voteBallot h o) m).any (fun q => q.lane == k && q.ps.getLsbD o.ps.toNat)) ∧
    TookPair s t m false o.d.toNat v (readyAt c.core s.clk 4)) ∧
  (∀ h o s c, Issuing s c → s.allPlain c (.voteEq h o) o.a → ∃ t, exec (.voteEq h o) s = .next t ∧
    (∀ a ∈ t.landing c.core, a ∈ s.landing c.core ∨ ∃ w k i v, a = .pred w k i v) ∧ ∀ m ∈ s.doers c (.voteEq h o),
    TookPred s t c m o.pd.toNat ((s.setOf c (.voteEq h o) m).all (fun q => s.val q o.a == s.val m o.a))
      (readyAt c.core (max s.clk (s.setRdy (s.setOf c (.voteEq h o) m) o.a)) 4))

/-- R292: a reduction gives every thread of the set the reduction of the values of all of them; FMIN and FMAX by R104, whatever the order. -/
def Obligations.Reductions : Prop :=
  ∀ i o f, reduces i = some (o, f) → ∀ s c, Issuing s c → portless i = true → s.allPlain c i o.a →
    ∃ t, exec i s = .next t ∧ ∀ m ∈ s.doers c i, ∃ v, f ((s.setOf c i m).map (fun q => s.val q o.a)) v ∧
      Took s t m o.n o.d.toNat v (readyAt c.core (max s.clk (s.setRdy (s.setOf c i m) o.a)) 8)

/-- R293: a butterfly stage: the partner is at lane l ^ (1 << s); the lane whose bit s is 0 takes the rounded sum and the other the
rounded difference, with the values and flags of R103 to R105, and raises its flags; without a partner a thread keeps its own value. -/
def Obligations.Butterfly : Prop :=
  (∀ a b : Word, SumOf Num.f32 (Num.d32 a) (Num.d32 b) ((w2 (fAdd Num.f32) a b).1.toNat, (w2 (fAdd Num.f32) a b).2) ∧
    SumOf Num.f32 (Num.d32 a) (Num.d32 b).negate ((w2 (fSub Num.f32) a b).1.toNat, (w2 (fSub Num.f32) a b).2)) ∧
  ∀ h o s c, Issuing s c → portless (.hbfly h o) = true → s.allPlain c (.hbfly h o) o.a →
    ∃ t, exec (.hbfly h o) s = .next t ∧ ∀ m ∈ s.doers c (.hbfly h o),
      match s.atBraidLane m (s.setOf c (.hbfly h o) m) (Nat.xor (m.braidLane s) (2 ^ o.stage.toNat)) with
      | none => Took s t m o.n o.d.toNat (s.val m o.a) (readyAt c.core (max s.clk (s.setRdy (s.setOf c (.hbfly h o) m) o.a)) 6)
      | some q =>
        let r := if m.braidLane s / 2 ^ o.stage.toNat % 2 = 0 then w2 (fAdd Num.f32) (s.val m o.a) (s.val q o.a) else
          w2 (fSub Num.f32) (s.val q o.a) (s.val m o.a)
        Took s t m o.n o.d.toNat r.1 (readyAt c.core (max s.clk (s.setRdy (s.setOf c (.hbfly h o) m) o.a)) 6) ∧
        Raised s t c m r.2 (readyAt c.core (max s.clk (s.setRdy (s.setOf c (.hbfly h o) m) o.a)) 6)

/-- R294, R295, R296, R418: UNPK writes two decoded elements, each exact: a NaN canonical, an infinity and the sign of a zero kept, a codebook
entry with its bits unchanged; CBLD pushes its source and writes codebook entries 2l and 2l + 1 from
lanes 0 to 7 at the end of the cycle; QMAP pushes its source and binds the port, or binds nothing where a thread's word is malformed (INFO 0 of its
0x19 is the model's deduction, log entry 26). -/
def Obligations.TablesAndPorts : Prop :=
  (∀ h o s c, Issuing s c → portless (.unpk h o) = true → ∃ t, exec (.unpk h o) s = .next t ∧
    ∀ m ∈ s.doers c (.unpk h o), ∀ p, s.plain m o.a = some p →
      Took s t m o.n o.d.toNat (unpkW (s.brd m.wg (m.braid s)).codebook o.fmt.toNat o.pair.toNat p.1)
        (readyAt c.core (max s.clk p.2) 4)) ∧
  (∀ (book : List Half) fmt pair (a : Word) i, 4 ≤ fmt → fmt ≤ 8 → pair < (if fmt < 7 then 2 else 4) → i < 2 →
    let w := if fmt < 7 then 8 else 4
    UnpackedTo book fmt (a.toNat / 2 ^ (w * (2 * pair + i)) % 2 ^ w) (half (unpkW book fmt pair a) i)) ∧
  (∀ h o s c, Issuing s c → s.allPlain c (.cbld h o) o.a → ∃ t, exec (.cbld h o) s = .next t ∧ ∀ m ∈ s.doers c (.cbld h o),
    Took s t m true 0 (s.val m o.a) (readyAt c.core (max s.clk (s.rdy m o.a)) 4) ∧
    (m.braidLane s < 8 →
      .code m.wg (m.braid s) (2 * m.braidLane s) ((s.val m o.a).extractLsb' 0 16) ∈ t.landing c.core ∧
      .code m.wg (m.braid s) (2 * m.braidLane s + 1) ((s.val m o.a).extractLsb' 16 16) ∈ t.landing c.core)) ∧
  (∀ h o s c, Issuing s c → s.allPlain c (.qmap h o) o.a → ∃ t, exec (.qmap h o) s = .next t ∧ ∀ m ∈ s.doers c (.qmap h o),
    match bindingOf (s.val m o.a).toNat with
    | none => Faulted s t c m 0x19 0 ∧ t.landing c.core = s.landing c.core
    | some b => Took s t m true 0 (s.val m o.a) (readyAt c.core (max s.clk (s.rdy m o.a)) 2) ∧
      ((∀ q ∈ s.doers c (.qmap h o), (bindingOf (s.val q o.a).toNat).isSome = true) →
        .bind m.wg (m.braid s) (o.d.toNat - 112) m.lane b ∈ t.landing c.core))

/-! ## Control transfer, exceptions of words and waits -/

/-- R230, R231, R252, R253, R254, R428: the branches set the thread's next packet, the calls link the packet after their own with
latency 2, BRM takes the first pair that holds, and a target that is no packet number faults; that its INFO is 0 is the model's deduction (log
entry 26). -/
def Obligations.ControlTransfer : Prop :=
  (∀ h o s c, Issuing s c → ∃ t, exec (.br h o) s = .next t ∧ ∀ m ∈ s.doers c (.br h o),
    Sent s t c m ((s.pktPc c.core c.pkt : Int) + o.off.toInt) ∧ t.thr m.wg m.t = s.thr m.wg m.t) ∧
  (∀ h o s c, Issuing s c → ∃ t, exec (.call h o) s = .next t ∧ ∀ m ∈ s.doers c (.call h o),
    Sent s t c m ((s.pktPc c.core c.pkt : Int) + o.off.toInt) ∧
    (0 ≤ (s.pktPc c.core c.pkt : Int) + o.off.toInt → (s.pktPc c.core c.pkt : Int) + o.off.toInt < 2 ^ 53 →
      Linked s t m 6 (s.pktPc c.core c.pkt) (readyAt c.core s.clk 2))) ∧
  (∀ h o s c, Issuing s c → ∃ t, exec (.brm h o) s = .next t ∧ ∀ m ∈ s.doers c (.brm h o), t.thr m.wg m.t = s.thr m.wg m.t ∧
    (∀ k, k ≤ o.cnt.toNat → m.holds (brmPair o k) = true → (∀ j, j < k → m.holds (brmPair o j) = false) →
      Sent s t c m ((s.pktPc c.core c.pkt : Int) + (brmPair o k).2.toInt)) ∧
    ((∀ k, k ≤ o.cnt.toNat → m.holds (brmPair o k) = false) → t.memberOf c m.key = some m)) ∧
  (∀ h o s c, Issuing s c → ∃ t, exec (.jmpr h o) s = .next t ∧ ∀ m ∈ s.doers c (.jmpr h o), s.plainPair m o.a.toNat →
    Sent s t c m ((m.pair o.a.toNat).toNat : Int) ∧ t.thr m.wg m.t = s.thr m.wg m.t) ∧
  (∀ h o s c, Issuing s c → ∃ t, exec (.callr h o) s = .next t ∧ ∀ m ∈ s.doers c (.callr h o), s.plainPair m o.a.toNat →
    Sent s t c m ((m.pair o.a.toNat).toNat : Int) ∧
    ((m.pair o.a.toNat).toNat < 2 ^ 53 → Linked s t m o.d.toNat (s.pktPc c.core c.pkt) (readyAt c.core s.clk 2)))

/-- R251, R255, R257, R258, R262, R263, R264: NOP has no effect; EXIT, YIELD and the waits are marked for the end of their packet,
SLEEP with the absolute time at which it wakes; TRAP raises cause 0x01. INFO 0 is the model's deduction (log entry 26). -/
def Obligations.PacketWords : Prop :=
  (∀ h s, exec (.nop h) s = .next s) ∧
  (∀ h s c, Issuing s c → ∃ t, exec (.exit h) s = .next t ∧ ∀ m ∈ s.doers c (.exit h), Marked s t c m (fun x => { x with exit := true })) ∧
  (∀ h s c, Issuing s c → ∃ t, exec (.yieldTurn h) s = .next t ∧
    ∀ m ∈ s.doers c (.yieldTurn h), Marked s t c m (fun x => { x with yielded := true })) ∧
  (∀ h o s c, Issuing s c → ∃ t, exec (.trap h o) s = .next t ∧ ∀ m ∈ s.doers c (.trap h o), Faulted s t c m 0x01 0) ∧
  (∀ h o s c, Issuing s c → ∃ t, exec (.sleep h o) s = .next t ∧ ∀ m ∈ s.doers c (.sleep h o),
    if s.badReg m o.a.toNat = true then Faulted s t c m 0x62 o.a.toNat else
      Marked s t c m (fun x => { x with wait := some (.sleep (s.clk + (m.reg o.a.toNat).toNat)), waitPos := c.pos })) ∧
  (∀ h o s c, Issuing s c → ∃ t, exec (.waitge h o) s = .next t ∧ ∀ m ∈ s.doers c (.waitge h o), ∀ u,
    s.plainPair m o.a.toNat → s.plainPair m (o.a.toNat + 2) → s.counterIa m (m.pair o.a.toNat).toNat = .ok u →
      Marked s t c m (fun x => { x with
        wait := some (.waitge (m.pair o.a.toNat).toNat (m.pair (o.a.toNat + 2)).toNat o.scope.toNat none), waitPos := c.pos })) ∧
  (∀ h o s c, Issuing s c → ∃ t, exec (.waitp h o) s = .next t ∧ ∀ m ∈ s.doers c (.waitp h o), ∀ u,
    s.plainPair m o.a.toNat → s.plainPair m (o.a.toNat + 2) → s.plainPair m o.d.toNat →
    s.counterIa m (m.pair o.a.toNat).toNat = .ok u →
      Marked s t c m (fun x => { x with
        wait := some (.waitp (m.pair o.d.toNat).toNat (m.pair o.a.toNat).toNat (m.pair (o.a.toNat + 2)).toNat o.scope.toNat),
        waitPos := c.pos }))

/-! ## Memory words -/

/-- R122, R123, R432: the checks of an access in order: alignment, then the lowest range register of the address space that holds the
address, its permission, and the region of the IA; the IA is the range's offset plus the distance from its base. -/
def Obligations.Translation : Prop :=
  ∀ (s : State) asid va size k,
    (va % size ≠ 0 → s.checkVa asid va size k = .error 0x43) ∧
    (va % size = 0 → (∀ j, j < 16 → ¬ covers (s.rangeAt asid j) (va / 65536)) → s.checkVa asid va size k = .error 0x41) ∧
    (va % size = 0 → ∀ i, i < 16 → covers (s.rangeAt asid i) (va / 65536) → (∀ j, j < i → ¬ covers (s.rangeAt asid j) (va / 65536)) →
      let r := s.rangeAt asid i
      let ia := ((r.extractLsb 179 144).toNat * 65536 + (va - (r.extractLsb 56 16).toNat * 65536)) % 2 ^ 52
      s.checkVa asid va size k =
        if (match k with
          | .read => r.getLsbD 1
          | .write => r.getLsbD 2
          | .atomic => r.getLsbD 1 && r.getLsbD 2
          | .fetch => r.getLsbD 3) = false then .error 0x42
        else if iaOk ia = false then .error 0x45
        else .ok (ia, (r.extractLsb 5 4).toNat))

/-- R44, R299, R300, R302, R433: a load that passes its checks is pending in its thread, which holds its destination registers; one that
does not faults with the cause of the check. Of a word that several threads execute the same holds of each, in ascending place, and nothing
else changes. INFO 0 of 0x21 is the model's deduction (log entry 26). -/
def Obligations.LoadWords : Prop :=
  (∀ i o size sg, loads i = some (o, size, sg) → ∀ s c m, Alone i s c m →
    (∀ va ia pol, s.memCheck c m o.w o.a (o.off.toNat * size) size .read false true = .ok (va, ia, pol) →
      ∃ t, exec i s = .next t ∧ Pends s t c m (rangeFrom o.d.toNat (max 1 (size / 4)))
        ⟨.load o.d.toNat size sg, va, ia, pol, o.hint.toNat, 0, c.core, 0, s.asidOf m.wg m.t⟩) ∧
    (∀ e, s.memCheck c m o.w o.a (o.off.toNat * size) size .read false true = .error e →
      ∃ t, exec i s = .next t ∧ Faulted s t c m e.1 e.2)) ∧
  (∀ i o size, scrLoads i = some (o, size) → ∀ s c m, Alone i s c m → s.readable m o.a.toNat 1 →
    ∀ addr, addr = (m.reg o.a.toNat).toNat + o.off.toNat * size →
      match (if addr < 2 ^ 32 then s.resolveScratch (s.wgrp m.wg) addr size else none) with
      | some (core, p) => ∃ t, exec i s = .next t ∧ Pends s t c m (rangeFrom o.d.toNat (size / 4)) ⟨.lds o.d.toNat size, addr, 0, 0, 0, 0, core, p, 0⟩
      | none => ∃ t, exec i s = .next t ∧ Faulted s t c m 0x21 0) ∧
  (∀ i o size sg, loads i = some (o, size, sg) → ∀ s c, Issuing s c →
    ∃ t, exec i s = .next t ∧ LanesOnly c (s.inGroup c) { s with seq := t.seq } t ∧
      EachLane s (s.doers c i) (fun u m => u.memCheck c m o.w o.a (o.off.toNat * size) size .read false true)
        (fun m q x => PendedAt s t c m (rangeFrom o.d.toNat (max 1 (size / 4)))
          ⟨.load o.d.toNat size sg, x.1, x.2.1, x.2.2, o.hint.toNat, 0, c.core, 0, s.asidOf m.wg m.t⟩ q)
        (fun m e => Faulted s t c m e.1 e.2)) ∧
  (∀ i o size, scrLoads i = some (o, size) → ∀ s c, Issuing s c →
    ∃ t, exec i s = .next t ∧ LanesOnly c (s.inGroup c) { s with seq := t.seq } t ∧
      EachLane s (s.doers c i) (fun u m => u.scrAt m o.a (o.off.toNat * size) size)
        (fun m q x => PendedAt s t c m (rangeFrom o.d.toNat (size / 4)) ⟨.lds o.d.toNat size, x.1, 0, 0, 0, 0, x.2.1, x.2.2, 0⟩ q)
        (fun m e => Faulted s t c m e.1 e.2))

/-- R44, R146, R299, R301, R302: a store that passes its checks is at the end of its braid's queue with the bytes of its registers, and
memory is as before; one that does not faults with the cause of the check. Of a word that several threads execute, each braid's queue takes its
threads' stores in ascending place. -/
def Obligations.StoreWords : Prop :=
  (∀ i o size, stores i = some (o, size) → ∀ s c m, Alone i s c m →
    (∀ va ia pol, s.memCheck c m o.w o.a (o.off.toNat * size) size .write (decide (size < 8)) false = .ok (va, ia, pol) →
      s.readable m o.d.toNat (max 1 (size / 4)) → ∃ t, exec i s = .next t ∧
        Queues s t c m ⟨0, s.asidOf m.wg m.t, 0, false, c.core, 0, va, ia, pol, o.hint.toNat, m.bytes o.d.toNat size, 0, 0#32, none, false, 0, 0, 0, 0, none⟩) ∧
    (∀ e, s.memCheck c m o.w o.a (o.off.toNat * size) size .write (decide (size < 8)) false = .error e →
      ∃ t, exec i s = .next t ∧ Faulted s t c m e.1 e.2)) ∧
  (∀ i o size, scrStores i = some (o, size) → ∀ s c m, Alone i s c m → s.readable m o.a.toNat 1 → s.readable m o.d.toNat (size / 4) →
    ∀ addr, addr = (m.reg o.a.toNat).toNat + o.off.toNat * size →
      match (if addr < 2 ^ 32 then s.resolveScratch (s.wgrp m.wg) addr size else none) with
      | some (core, p) => ∃ t, exec i s = .next t ∧
        Queues s t c m ⟨0, 0, 0, true, core, p, addr, 0, 0, 0, m.bytes o.d.toNat size, 0, 0#32, none, false, 0, 0, 0, 0, none⟩
      | none => ∃ t, exec i s = .next t ∧ Faulted s t c m 0x21 0) ∧
  (∀ i o size, stores i = some (o, size) → ∀ s c, Issuing s c → (∀ m ∈ s.doers c i, s.readable m o.d.toNat (max 1 (size / 4)) ∧
      (Tbl.get? s.braids (bkey m.wg (m.braid s))).isSome = true) →
    ∃ t, exec i s = .next t ∧ LanesOnly c (s.inGroup c) { s with seq := t.seq, braids := t.braids } t ∧
      EachLane s (s.doers c i) (fun u m => u.memCheck c m o.w o.a (o.off.toNat * size) size .write (decide (size < 8)) false)
        (fun m q x => t.thr m.wg m.t = s.thr m.wg m.t ∧ ∃ before after, (t.brd m.wg (m.braid s)).storeQ = (s.brd m.wg (m.braid s)).storeQ ++
          before ++ [⟨q, s.asidOf m.wg m.t, m.t, false, c.core, 0, x.1, x.2.1, x.2.2, o.hint.toNat, m.bytes o.d.toNat size,
            s.pktPc c.core c.pkt, c.word, none, false, s.clk, c.pos, s.issueGrp c.core, 0, none⟩] ++ after ∧
          (∀ e ∈ before, e.seq < q) ∧ ∀ e ∈ after, q < e.seq)
        (fun m e => Faulted s t c m e.1 e.2)) ∧
  (∀ i o size, scrStores i = some (o, size) → ∀ s c, Issuing s c → (∀ m ∈ s.doers c i, s.readable m o.d.toNat (size / 4) ∧
      (Tbl.get? s.braids (bkey m.wg (m.braid s))).isSome = true) →
    ∃ t, exec i s = .next t ∧ LanesOnly c (s.inGroup c) { s with seq := t.seq, braids := t.braids } t ∧
      EachLane s (s.doers c i) (fun u m => u.scrAt m o.a (o.off.toNat * size) size)
        (fun m q x => t.thr m.wg m.t = s.thr m.wg m.t ∧ ∃ before after, (t.brd m.wg (m.braid s)).storeQ = (s.brd m.wg (m.braid s)).storeQ ++
          before ++ [⟨q, 0, m.t, true, x.2.1, x.2.2, x.1, 0, 0, 0, m.bytes o.d.toNat size,
            s.pktPc c.core c.pkt, c.word, none, false, s.clk, c.pos, s.issueGrp c.core, 0, none⟩] ++ after ∧
          (∀ e ∈ before, e.seq < q) ∧ ∀ e ∈ after, q < e.seq)
        (fun m e => Faulted s t c m e.1 e.2))

/-- R141, R234, R304, R305, R433: an atomic that passes its checks is pending with its operand (and, for CAS, its compare value), and its
thread holds the registers that take the old value. Of a word that several threads execute the same holds of each, in ascending place. -/
def Obligations.AtomicWords : Prop :=
  (∀ i o op size, atomics i = some (o, op, size) → ∀ s c m, Alone i s c m →
    s.readable m o.d.toNat (if op = 9 then size / 2 else size / 4) → ∀ va ia pol,
    State.memCheck { s with seq := s.seq + 1 } c m o.w o.a 0 size .atomic true true = .ok (va, ia, pol) →
      ∃ t, exec i s = .next t ∧ Pends s t c m (rangeFrom o.d.toNat (size / 4))
        ⟨.atom op size o.d.toNat (m.atomArgs o.d.toNat op size).1 (m.atomArgs o.d.toNat op size).2, va, ia, pol, 0, o.scope.toNat, c.core, 0,
          s.asidOf m.wg m.t⟩) ∧
  (∀ i o op, scrAtomics i = some (o, op) → ∀ s c m, Alone i s c m → s.readable m o.a.toNat 1 →
    s.readable m o.d.toNat (if op = 9 then 2 else 1) →
    match s.resolveScratch (s.wgrp m.wg) (m.reg o.a.toNat).toNat 4 with
    | some (core, p) => ∃ t, exec i s = .next t ∧ Pends s t c m [o.d.toNat]
      ⟨.atoms op o.d.toNat (m.atomArgs o.d.toNat op 4).1 (m.atomArgs o.d.toNat op 4).2, (m.reg o.a.toNat).toNat, 0, 0, 0, o.scope.toNat, core,
        p, 0⟩
    | none => ∃ t, exec i s = .next t ∧ Faulted s t c m 0x21 0) ∧
  (∀ i o op size, atomics i = some (o, op, size) → ∀ s c, Issuing s c →
    (∀ m ∈ s.doers c i, s.readable m o.d.toNat (if op = 9 then size / 2 else size / 4)) →
    ∃ t, exec i s = .next t ∧ LanesOnly c (s.inGroup c) { s with seq := t.seq } t ∧
      EachLane s (s.doers c i) (fun u m => u.memCheck c m o.w o.a 0 size .atomic true true)
        (fun m q x => PendedAt s t c m (rangeFrom o.d.toNat (size / 4))
          ⟨.atom op size o.d.toNat (m.atomArgs o.d.toNat op size).1 (m.atomArgs o.d.toNat op size).2, x.1, x.2.1, x.2.2, 0, o.scope.toNat, c.core, 0,
            s.asidOf m.wg m.t⟩ q)
        (fun m e => Faulted s t c m e.1 e.2)) ∧
  (∀ i o op, scrAtomics i = some (o, op) → ∀ s c, Issuing s c → (∀ m ∈ s.doers c i, s.readable m o.d.toNat (if op = 9 then 2 else 1)) →
    ∃ t, exec i s = .next t ∧ LanesOnly c (s.inGroup c) { s with seq := t.seq } t ∧
      EachLane s (s.doers c i) (fun u m => u.scrAt m o.a 0 4)
        (fun m q x => PendedAt s t c m [o.d.toNat]
          ⟨.atoms op o.d.toNat (m.atomArgs o.d.toNat op 4).1 (m.atomArgs o.d.toNat op 4).2, x.1, 0, 0, 0, o.scope.toNat, x.2.1, x.2.2, 0⟩ q)
        (fun m e => Faulted s t c m e.1 e.2))

/-- R141, R306, R308, R361: FENCE, FLUSH of a range that can be read throughout, and CNTADD are pending memory words of their thread, which
holds no register for them; a FLUSH of no bytes has no effect. R303: a PREFETCH of an address that an access would fault on does nothing; any
other is a pending memory word that holds no register. Of a word that several threads execute the same holds of each, in ascending place. -/
def Obligations.OrderingWords : Prop :=
  (∀ i kind o, fences i = some (kind, o) → ∀ s c m, Alone i s c m →
    ∃ t, exec i s = .next t ∧ Pends s t c m [] ⟨.fence kind, 0, 0, 0, 0, o.scope.toNat, c.core, 0, 0⟩) ∧
  (∀ h o s c m, Alone (.flush h o) s c m → s.readable m o.a.toNat (if o.w then 2 else 1) → s.readable m o.d.toNat 1 →
    ∀ va, s.wordVa m o.w o.a.toNat 0 = some va → ∀ n, n = (m.reg o.d.toNat).toNat →
      (n = 0 → exec (.flush h o) s = .next { s with seq := s.seq + 1 }) ∧
      (0 < n → (∀ p, va / 65536 ≤ p → p ≤ (va + n - 1) / 65536 → ∃ x, s.checkVa (s.asidOf m.wg m.t) (p * 65536) 1 .read = .ok x) →
        ∃ t, exec (.flush h o) s = .next t ∧ Pends s t c m [] ⟨.flush n, va, 0, 0, 0, 0, c.core, 0, s.asidOf m.wg m.t⟩)) ∧
  (∀ h o s c m, Alone (.cntadd h o) s c m → s.readable m o.d.toNat 2 → ∀ va ia pol,
    State.memCheck { s with seq := s.seq + 1 } c m o.w o.a 0 8 .atomic true true = .ok (va, ia, pol) →
      ∃ t, exec (.cntadd h o) s = .next t ∧
        Pends s t c m [] ⟨.cntadd (m.pair o.d.toNat).toNat, va, ia, pol, 0, o.scope.toNat, c.core, 0, s.asidOf m.wg m.t⟩) ∧
  (∀ h o s c m, Alone (.prefetch h o) s c m → s.readable m o.a.toNat (if o.w then 2 else 1) →
    (∀ e, s.memCheck c m o.w o.a (o.off.toNat * 128) 128 .read false false = .error e → exec (.prefetch h o) s = .next s) ∧
    (∀ va ia pol, s.memCheck c m o.w o.a (o.off.toNat * 128) 128 .read false false = .ok (va, ia, pol) →
      ∃ t, exec (.prefetch h o) s = .next t ∧ Pends s t c m [] ⟨.prefetch, va, ia, pol, o.hint.toNat, 0, c.core, 0, s.asidOf m.wg m.t⟩)) ∧
  (∀ i kind o, fences i = some (kind, o) → ∀ s c, Issuing s c →
    ∃ t, exec i s = .next t ∧ LanesOnly c (s.inGroup c) { s with seq := t.seq } t ∧
      EachLane s (s.doers c i) (fun _ _ => (.ok () : Except (Nat × Nat) Unit))
        (fun m q _ => PendedAt s t c m [] ⟨.fence kind, 0, 0, 0, 0, o.scope.toNat, c.core, 0, 0⟩ q) (fun _ _ => False)) ∧
  (∀ h o s c, Issuing s c → (∀ m ∈ s.doers c (.flush h o), s.readable m o.a.toNat (if o.w then 2 else 1) ∧ s.readable m o.d.toNat 1 ∧
      0 < (m.reg o.d.toNat).toNat ∧ ∃ va, s.wordVa m o.w o.a.toNat 0 = some va ∧
      ∀ p, va / 65536 ≤ p → p ≤ (va + (m.reg o.d.toNat).toNat - 1) / 65536 → ∃ x, s.checkVa (s.asidOf m.wg m.t) (p * 65536) 1 .read = .ok x) →
    ∃ t, exec (.flush h o) s = .next t ∧ LanesOnly c (s.inGroup c) { s with seq := t.seq } t ∧
      EachLane s (s.doers c (.flush h o)) (fun _ m => (.ok ((s.wordVa m o.w o.a.toNat 0).getD 0) : Except (Nat × Nat) Nat))
        (fun m q va => PendedAt s t c m [] ⟨.flush (m.reg o.d.toNat).toNat, va, 0, 0, 0, 0, c.core, 0, s.asidOf m.wg m.t⟩ q) (fun _ _ => False)) ∧
  (∀ h o s c, Issuing s c → (∀ m ∈ s.doers c (.cntadd h o), s.readable m o.d.toNat 2) →
    ∃ t, exec (.cntadd h o) s = .next t ∧ LanesOnly c (s.inGroup c) { s with seq := t.seq } t ∧
      EachLane s (s.doers c (.cntadd h o)) (fun u m => u.memCheck c m o.w o.a 0 8 .atomic true true)
        (fun m q x => PendedAt s t c m [] ⟨.cntadd (m.pair o.d.toNat).toNat, x.1, x.2.1, x.2.2, 0, o.scope.toNat, c.core, 0, s.asidOf m.wg m.t⟩ q)
        (fun m e => Faulted s t c m e.1 e.2)) ∧
  (∀ h o s c, Issuing s c → (∀ m ∈ s.doers c (.prefetch h o), s.readable m o.a.toNat (if o.w then 2 else 1)) →
    ∃ t, exec (.prefetch h o) s = .next t ∧ LanesOnly c (s.inGroup c) { s with seq := t.seq } t ∧
      EachLane s (s.doers c (.prefetch h o)) (fun u m => u.memCheck c m o.w o.a (o.off.toNat * 128) 128 .read false false)
        (fun m q x => PendedAt s t c m [] ⟨.prefetch, x.1, x.2.1, x.2.2, o.hint.toNat, 0, c.core, 0, s.asidOf m.wg m.t⟩ q)
        (fun m _ => t.thr m.wg m.t = s.thr m.wg m.t ∧ t.memberOf c m.key = some m))

/-! ## Hitch registers, the barrier and signed commands -/

/-- R49, R259, R421: HSET writes the member mask, bits outside the braid ignored, or the expected count, and changes nothing else of the
register; an empty mask and a count of 0 or above 2,048 fault. It is stated of a register whose signatures do not satisfy what is
written. Where several threads of a braid execute the word with legal masks, the mask of the first in ascending place is written, which is that of
the lowest home lane. INFO 0 of 0x17 is the model's deduction (log entry 26). -/
def Obligations.HsetWord : Prop :=
  (∀ h o s c wg b m r, Issuing s c → OneBraid (.hset h o) s c o.hitch.toNat wg b → s.doers c (.hset h o) = m :: r →
    (∀ q ∈ m :: r, s.plainPair q o.a.toNat ∧ q.pair o.a.toNat &&& (s.wgrp wg).braidLanes b ≠ 0#64) →
    let mask := m.pair o.a.toNat &&& (s.wgrp wg).braidLanes b
    let was := s.hitch wg m.t o.hitch.toNat
    (was.kind = .none ∨ was.arrived &&& mask ≠ mask) →
    ∃ t, exec (.hset h o) s = .next t ∧ t.hitch wg m.t o.hitch.toNat = { was with members := mask } ∧ t.threads = s.threads ∧ t.wgs = s.wgs) ∧
  ∀ h o s c m, Alone (.hset h o) s c m → Sharing s m.wg m.t o.hitch.toNat →
    (o.hitch.toNat < 12 → s.plainPair m o.a.toNat →
      let mask := m.pair o.a.toNat &&& (s.wgrp m.wg).braidLanes ((s.wgrp m.wg).braidOf m.t)
      let was := s.hitch m.wg m.t o.hitch.toNat
      (mask = 0#64 → ∃ t, exec (.hset h o) s = .next t ∧ Faulted s t c m 0x17 0) ∧
      (mask ≠ 0#64 → (was.kind = .none ∨ was.arrived &&& mask ≠ mask) →
        ∃ t, exec (.hset h o) s = .next t ∧ t.hitch m.wg m.t o.hitch.toNat = { was with members := mask } ∧ t.threads = s.threads ∧ t.wgs = s.wgs)) ∧
    (12 ≤ o.hitch.toNat → s.badReg m o.a.toNat = false →
      let k := (m.reg o.a.toNat).toNat
      let was := s.hitch m.wg m.t o.hitch.toNat
      ((k = 0 ∨ 2048 < k) → ∃ t, exec (.hset h o) s = .next t ∧ Faulted s t c m 0x17 0) ∧
      (0 < k → k ≤ 2048 → (was.kind = .none ∨ was.count < k) →
        ∃ t, exec (.hset h o) s = .next t ∧ t.hitch m.wg m.t o.hitch.toNat = { was with expected := k } ∧ t.threads = s.threads ∧
          t.braids = s.braids))

/-- R50, R51, R260, R421: REJOIN signs, and its thread waits to resume at the packet after its own; where its signature completes the
round, the register closes and the thread is ready at that packet. A second signature raises 0x15 and any other that is not allowed 0x17. Where
several threads of a braid that may sign execute the word, all of them sign, and all wait or all are released. That the wait is set when the word
issues, where R260 says at the end of its packet, is the model's choice (log entry 31), and INFO 0 of its faults its deduction (log entry 26). -/
def Obligations.RejoinWord : Prop :=
  (∀ h o s c wg b m r, Issuing s c → OneBraid (.rejoin h o) s c o.hitch.toNat wg b → s.doers c (.rejoin h o) = m :: r →
    let n := o.hitch.toNat
    let was := s.hitch wg m.t n
    (∀ q ∈ m :: r, MaySign was (s.thr q.wg q.t) n .rejoin) →
    let arrived := was.arrived ||| lanesMask (m :: r)
    ∃ t, exec (.rejoin h o) s = .next t ∧ t.dram = s.dram ∧
      (arrived &&& was.members ≠ was.members → t.hitch wg m.t n = { was with arrived := arrived, kind := .rejoin } ∧
        ∀ q ∈ m :: r, (t.thr q.wg q.t).wait = .hitch n ∧ (t.thr q.wg q.t).sig.getLsbD n = true ∧ (t.thr q.wg q.t).resume = s.pktPc c.core c.pkt + 1) ∧
      (arrived &&& was.members = was.members → (t.hitch wg m.t n).closed ∧
        ∀ q ∈ m :: r, (t.thr q.wg q.t).wait = .ready ∧ (t.thr q.wg q.t).sig.getLsbD n = false ∧ (t.thr q.wg q.t).pc = s.pktPc c.core c.pkt + 1)) ∧
  ∀ h o s c m, Alone (.rejoin h o) s c m → Sharing s m.wg m.t o.hitch.toNat →
    let n := o.hitch.toNat
    let x := s.thr m.wg m.t
    let was := s.hitch m.wg m.t n
    let now := was.signed n x.lane .rejoin
    (x.sig.getLsbD n = true → ∃ t, exec (.rejoin h o) s = .next t ∧ Faulted s t c m 0x15 0) ∧
    (x.sig.getLsbD n = false → ¬ MaySign was x n .rejoin → ∃ t, exec (.rejoin h o) s = .next t ∧ Faulted s t c m 0x17 0) ∧
    (MaySign was x n .rejoin → ∃ t, exec (.rejoin h o) s = .next t ∧
      t.memberOf c m.key = some { m with wait := some (.hitch n), waitPos := c.pos } ∧ (t.thr m.wg m.t).v = x.v ∧ t.dram = s.dram ∧
      (¬ now.full n → t.hitch m.wg m.t n = now ∧ (t.thr m.wg m.t).wait = .hitch n ∧ (t.thr m.wg m.t).sig.getLsbD n = true ∧
        (t.thr m.wg m.t).resume = s.pktPc c.core c.pkt + 1) ∧
      (now.full n → (t.hitch m.wg m.t n).closed ∧ (t.thr m.wg m.t).wait = .ready ∧ (t.thr m.wg m.t).sig.getLsbD n = false ∧
        (t.thr m.wg m.t).pc = s.pktPc c.core c.pkt + 1))

/-- R55, R261: BAR arrives and its thread waits; where every thread that has not exited has arrived, the barrier is empty again and the
thread is ready at the packet after its own. Where several threads of a workgroup execute the word, all of them arrive. That the wait is set when
the word issues, where R261 says at the end of its packet, is the model's choice (log entry 31). -/
def Obligations.BarWord : Prop :=
  (∀ h s c wg, Issuing s c → s.doers c (.bar h) ≠ [] →
    (∀ q ∈ s.doers c (.bar h), q.wg = wg ∧ Sharing s q.wg q.t 0 ∧ ¬ q.t ∈ (s.wgrp wg).bar) → (Tbl.get? s.wgs wg).isSome = true →
    let ts := (s.doers c (.bar h)).map Member.t
    ∃ t, exec (.bar h) s = .next t ∧ t.dram = s.dram ∧
      ((∃ u ∈ s.barLive wg, ¬ u.t ∈ ts ∧ ¬ u.t ∈ (s.wgrp wg).bar) → (t.wgrp wg).bar = (s.wgrp wg).bar ++ ts ∧
        ∀ q ∈ s.doers c (.bar h), (t.thr q.wg q.t).wait = .bar ∧ (t.thr q.wg q.t).resume = s.pktPc c.core c.pkt + 1) ∧
      ((∀ u ∈ s.barLive wg, u.t ∈ ts ∨ u.t ∈ (s.wgrp wg).bar) → (∀ q ∈ s.doers c (.bar h), ∃ u ∈ s.barLive wg, u.t = q.t) → (t.wgrp wg).bar = [] ∧
        ∀ q ∈ s.doers c (.bar h), (t.thr q.wg q.t).wait = .ready ∧ (t.thr q.wg q.t).pc = s.pktPc c.core c.pkt + 1)) ∧
  ∀ h s c m, Alone (.bar h) s c m → Sharing s m.wg m.t 0 → (Tbl.get? s.wgs m.wg).isSome = true →
    ∃ t, exec (.bar h) s = .next t ∧ t.memberOf c m.key = some { m with wait := some .bar, waitPos := c.pos } ∧
      ((∃ u ∈ s.barLive m.wg, u.t ≠ m.t ∧ ¬ u.t ∈ (s.wgrp m.wg).bar) →
        (t.wgrp m.wg).bar = (s.wgrp m.wg).bar ++ [m.t] ∧ (t.thr m.wg m.t).wait = .bar ∧ (t.thr m.wg m.t).resume = s.pktPc c.core c.pkt + 1) ∧
      ((∀ u ∈ s.barLive m.wg, u.t = m.t ∨ u.t ∈ (s.wgrp m.wg).bar) →
        (t.wgrp m.wg).bar = [] ∧ (t.thr m.wg m.t).wait = .ready ∧ (t.thr m.wg m.t).pc = s.pktPc c.core c.pkt + 1)

/-- R52, R53, R421, R422: a signed command signs without waiting and holds its promise pair; where its signature completes the round,
exactly one request is formed from the captured values and the register closes. A descriptor that does not match raises 0x16, a second
signature 0x15, any other that is not allowed 0x17. Where several threads of a braid that may sign execute the word with descriptors that match,
all of them sign, and where their signatures complete the round one request is formed. INFO 0 of its faults is the model's deduction (log entry
26). -/
def Obligations.EngineWords : Prop :=
  (∀ i op n a q d, engines i = some (op, n, a, q, d) → ∀ s c wg b m r, Issuing s c → OneBraid i s c n wg b → s.doers c i = m :: r →
    let was := s.hitch wg m.t n
    (∀ u ∈ m :: r, s.readable u a op.count ∧ MaySign was (s.thr u.wg u.t) n (.engine op)) → ∀ cap,
    (m :: r).foldlM (fun x u => (capture x u.lane u.t b (s.pktPc c.core c.pkt) c.word c.pos (s.signer u op a q (d.getD 0))).map some) was.cap =
      some (some cap) →
    let arrived := was.arrived ||| lanesMask (m :: r)
    ∃ t, exec i s = .next t ∧
      (∀ u ∈ m :: r, (t.thr u.wg u.t).wait = (s.thr u.wg u.t).wait ∧
        ∀ j, d = some j → Tbl.get? (t.thr u.wg u.t).busy j = some none ∧ Tbl.get? (t.thr u.wg u.t).busy (j + 1) = some none) ∧
      (arrived &&& was.members ≠ was.members → t.formed = s.formed ∧ (∀ u ∈ m :: r, (t.thr u.wg u.t).sig.getLsbD n = true) ∧
        ∃ rels, t.hitch wg m.t n = { was with arrived := arrived, kind := .engine op, cap := some { cap with rels := rels } }) ∧
      (arrived &&& was.members = was.members → (t.hitch wg m.t n).closed ∧ t.formed = s.formed ++ [s.nextId] ∧
        (∀ u ∈ m :: r, (t.thr u.wg u.t).sig.getLsbD n = false) ∧
        ∃ e, Tbl.get? t.reqs s.nextId = some e ∧ e.op = op ∧ e.regs = cap.regs ∧ e.q = cap.q ∧ e.segb = cap.segb ∧ e.wg = wg ∧ e.t = cap.t ∧
          e.pc = cap.pc ∧ e.signers = cap.signers ∧ e.parts = cap.parts.map (fun p => (p.1, p.2.2)) ∧ e.begun = false)) ∧
  ∀ i op n a q d, engines i = some (op, n, a, q, d) → ∀ s c m, Alone i s c m → Sharing s m.wg m.t n → s.readable m a op.count →
    let x := s.thr m.wg m.t
    let was := s.hitch m.wg m.t n
    let now := was.signed n x.lane (.engine op)
    let own := s.signer m op a q (d.getD 0)
    let took := capture was.cap (if n < 12 then x.lane else m.t) m.t ((s.wgrp m.wg).braidOf m.t) (s.pktPc c.core c.pkt) c.word c.pos own
    (x.sig.getLsbD n = true → ∃ t, exec i s = .next t ∧ Faulted s t c m 0x15 0) ∧
    (x.sig.getLsbD n = false → ¬ MaySign was x n (.engine op) → ∃ t, exec i s = .next t ∧ Faulted s t c m 0x17 0) ∧
    (MaySign was x n (.engine op) → took = none → ∃ t, exec i s = .next t ∧ Faulted s t c m 0x16 0) ∧
    (MaySign was x n (.engine op) → ∀ cap, took = some cap → ∃ t, exec i s = .next t ∧ (t.thr m.wg m.t).wait = x.wait ∧
      (∀ r, d = some r → Tbl.get? (t.thr m.wg m.t).busy r = some none ∧ Tbl.get? (t.thr m.wg m.t).busy (r + 1) = some none) ∧
      (¬ now.full n → (∃ rels, cap.rels <+: rels ∧ t.hitch m.wg m.t n = { now with cap := some { cap with rels := rels } }) ∧ (t.thr m.wg m.t).sig.getLsbD n = true ∧ t.formed = s.formed) ∧
      (now.full n → (t.hitch m.wg m.t n).closed ∧ (t.thr m.wg m.t).sig.getLsbD n = false ∧ t.formed = s.formed ++ [s.nextId] ∧
        ∃ r, Tbl.get? t.reqs s.nextId = some r ∧ r.op = op ∧ r.regs = cap.regs ∧ r.q = cap.q ∧ r.segb = cap.segb ∧ r.wg = m.wg ∧
          r.t = cap.t ∧ r.pc = cap.pc ∧ r.signers = cap.signers ∧ r.parts = cap.parts.map (fun p => (p.1, p.2.2)) ∧ r.begun = false ∧
          cap.rels <+: r.rels))

/-- R46, R47, R50, R51: when a REJOIN round completes, every thread that waits on the register is ready at its resume packet, from the next
cycle on, and its signature is cleared. -/
def Obligations.RoundReleases : Prop :=
  ∀ (s : State) wg t n, s.Coherent → Sharing s wg t n →
    (s.hitch wg t n).kind = .rejoin → (s.hitch wg t n).full n →
    ∀ u ∈ s.sharers wg t n, u.wait = .hitch n →
      let v := (s.completeRound wg t n).thr u.wg u.t
      v.wait = .ready ∧ v.pc = u.resume ∧ v.sig.getLsbD n = false ∧ Tbl.get? v.busy notBefore = some (some (s.clk + 1)) ∧ v.v = u.v

/-! ## Tiles, streams, queues, system registers and banks -/

/-- R347, R348, R409, R425: MXRD gives the element of its row and home lane, or for a poisoned one 0x7FC0DEAD with the lane noted in
FMASK; MXSTAT gives the tile's three status words and zero; a tile that another claims raises 0x1C. That the lane is noted in FMASK when the word
issues is the model's choice (log entry 30), and INFO 0 its deduction (log entry 26). -/
def Obligations.TileWords : Prop :=
  (∀ h o s c m, Alone (.mxrd h o) s c m → s.badReg m o.a.toNat = false →
    let e := (m.reg o.a.toNat).toNat % 64 * 64 + m.lane
    let tile := s.tile (clusterOf c.core) o.q.toNat
    (s.claimed (clusterOf c.core) o.q.toNat m.wg = true → ∃ t, exec (.mxrd h o) s = .next t ∧ Faulted s t c m 0x1C 0) ∧
    (s.claimed (clusterOf c.core) o.q.toNat m.wg = false → ¬ e ∈ tile.poison → ∃ t, exec (.mxrd h o) s = .next t ∧
      TookReg s t m o.d.toNat (Tbl.getD tile.acc e 0#32) (readyAt c.core s.clk 8)) ∧
    (s.claimed (clusterOf c.core) o.q.toNat m.wg = false → e ∈ tile.poison → m.lane < 64 → (s.thr m.wg m.t).lane = m.lane →
      (Tbl.get? s.braids (bkey m.wg (m.braid s))).isSome = true → ∃ t, exec (.mxrd h o) s = .next t ∧
      TookReg s t m o.d.toNat 0x7FC0DEAD#32 (readyAt c.core s.clk 8) ∧ (t.brd m.wg (m.braid s)).fmask.getLsbD m.lane = true)) ∧
  (∀ h o s c, Issuing s c → ∃ t, exec (.mxstat h o) s = .next t ∧ ∀ m ∈ s.doers c (.mxstat h o),
    let tile := s.tile (clusterOf c.core) o.q.toNat
    let r := readyAt c.core s.clk 4
    if s.claimed (clusterOf c.core) o.q.toNat m.wg = true then Faulted s t c m 0x1C 0
    else t.thr m.wg m.t = ((((s.thr m.wg m.t).setReg o.d.toNat tile.npassd r 0).setReg (o.d.toNat + 1) tile.nsamp r 0).setReg
      (o.d.toNat + 2) tile.var r 0).setReg (o.d.toNat + 3) 0#32 r 0)

/-- R307, R353, R354, R449: STCFG and QFENCE make their effect due at the end of the cycle; a pair that describes no stream raises 0x54 and
a malformed queue set 0x51. That the INFO of 0x51 is the lowest offending bit of the whole word is the model's deduction (log entry 33), as is
INFO 0 of 0x54 (log entry 26). -/
def Obligations.CycleWords : Prop :=
  (∀ h o s c m, Alone (.stcfg h o) s c m → s.readable m o.a.toNat 2 →
    match streamOf (m.reg o.a.toNat).toNat (m.reg (o.a.toNat + 1)).toNat ((s.wgrp m.wg).scrUnits * 32) with
    | none => ∃ t, exec (.stcfg h o) s = .next t ∧
      Faulted (s.atCycleEnd c.core (.stcfg m.wg o.q.toNat m.t none)) t c m 0x54 0
    | some x => exec (.stcfg h o) s = .next (s.atCycleEnd c.core (.stcfg m.wg o.q.toNat m.t (some x)))) ∧
  (∀ h o s c m, Alone (.qfence h o) s c m → s.badReg m o.a.toNat = false →
    match qsetBad (m.reg o.a.toNat) with
    | some b => ∃ t, exec (.qfence h o) s = .next t ∧ Faulted s t c m 0x51 (b * 2 ^ 8)
    | none => exec (.qfence h o) s = .next (s.atCycleEnd c.core (.qfence m.wg (m.braid s) c.pkt m.lane (m.reg o.a.toNat))))

/-- R106, R362, R363, R364, R404, R419: SYSRD gives a register that its thread may read, one register or a pair; a write of SEGB, one of
FLAGS and one of a privileged register land at the end of the cycle (the last as a pending memory word, `CycleEnds`), in ascending place where
several threads execute the word; a user thread that names a privileged register, and a TRAPRET outside the handler, raise 0x1A. The model's
choices: a privileged write is a pending memory word of its thread (log entry 39), SEGB keeps its 57 bits and FLAGS its 5 (log entry 38), a SYSRD of
a number from 0x1000 up, whose latency R314 and R342 call variable, has latency 4 (log entry 38), and INFO is 0 (log entry 26). -/
def Obligations.SystemWords : Prop :=
  (∀ h o s c, Issuing s c → ∃ t, exec (.sysrd h o) s = .next t ∧ ∀ m ∈ s.doers c (.sysrd h o),
    let r := readyAt c.core s.clk 4
    match s.regValue m o.num.toNat with
    | none => Faulted s t c m 0x1A 0
    | some v => ∃ dep, t.thr m.wg m.t = (if sysWide o.num.toNat
        then ((s.thr m.wg m.t).setReg o.d.toNat (BitVec.ofNat 32 v) r dep).setReg (o.d.toNat + 1) (BitVec.ofNat 32 (v / 2 ^ 32)) r dep
        else (s.thr m.wg m.t).setReg o.d.toNat (BitVec.ofNat 32 v) r dep)) ∧
  (∀ (s : State) m n, 0x1000 ≤ n → (s.thr m.wg m.t).priv = false → s.regValue m n = none) ∧
  (∀ h o s c m, Alone (.syswr h o) s c m → s.readable m o.d.toNat (if sysWide o.num.toNat then 2 else 1) →
    (o.num = 0x41#14 → exec (.syswr h o) s =
      .next (s.atCycleEnd c.core (.segb m.wg (m.braid s) m.lane ((m.pair o.d.toNat).toNat % 2 ^ 57) (s.regsDep m o.d.toNat 2)))) ∧
    (0x1000 ≤ o.num.toNat → s.regValue m o.num.toNat = none → ∃ t, exec (.syswr h o) s = .next t ∧ Faulted s t c m 0x1A 0) ∧
    (0x1000 ≤ o.num.toNat → (s.regValue m o.num.toNat).isSome = true → exec (.syswr h o) s =
      .next (s.atCycleEnd c.core (.priv m.wg (m.braid s) m.t m.lane o.num.toNat
        (if sysWide o.num.toNat then (m.pair o.d.toNat).toNat else (m.reg o.d.toNat).toNat) (s.pktPc c.core c.pkt) c.word c.pos)))) ∧
  (∀ h o s c m, Alone (.flagsWrite h o) s c m → s.badReg m o.d.toNat = false → exec (.flagsWrite h o) s =
    .next (s.atCycleEnd c.core (.flagsSet m.wg (m.braid s) m.lane ((m.reg o.d.toNat).extractLsb' 0 5)))) ∧
  (∀ h o s c, Issuing s c → (∀ m ∈ s.doers c (.flagsWrite h o), s.badReg m o.d.toNat = false) → ∃ t, exec (.flagsWrite h o) s = .next t ∧
    ((Tbl.get? s.cores c.core).isSome = true → (s.turnOf c.core).isSome = true → t.landing c.core = s.landing c.core ++
      (s.doers c (.flagsWrite h o)).map (fun m => .flagsSet m.wg (m.braid s) m.lane ((m.reg o.d.toNat).extractLsb' 0 5)))) ∧
  (∀ h o s c, Issuing s c → (∀ m ∈ s.doers c (.syswr h o), s.readable m o.d.toNat (if sysWide o.num.toNat then 2 else 1) ∧
      (o.num = 0x41#14 ∨ (0x1000 ≤ o.num.toNat ∧ (s.regValue m o.num.toNat).isSome = true))) → ∃ t, exec (.syswr h o) s = .next t ∧
    ((Tbl.get? s.cores c.core).isSome = true → (s.turnOf c.core).isSome = true → t.landing c.core = s.landing c.core ++
      (s.doers c (.syswr h o)).map (fun m => if o.num = 0x41#14
        then .segb m.wg (m.braid s) m.lane ((m.pair o.d.toNat).toNat % 2 ^ 57) (s.regsDep m o.d.toNat 2)
        else .priv m.wg (m.braid s) m.t m.lane o.num.toNat
          (if sysWide o.num.toNat then (m.pair o.d.toNat).toNat else (m.reg o.d.toNat).toNat) (s.pktPc c.core c.pkt) c.word c.pos))) ∧
  (∀ h s c, Issuing s c → ∃ t, exec (.trapret h) s = .next t ∧ ∀ m ∈ s.doers c (.trapret h),
    if (s.thr m.wg m.t).priv = true then Marked s t c m (fun x => { x with trapret := true }) else Faulted s t c m 0x1A 0)

/-- R36, R364: the numbers that every thread may read give its place, its workgroup and its braid; on a rhizoid core 0x02, 0x03, 0x06 to 0x0D,
0x0F and 0x10 read zero, and ASID is the caller's. Other numbers below 0x1000 read nothing. On a main-die core STACK, NMCPOS and NMENTRY, of which
the spec gives no value there, read zero (log entry 38). -/
def Obligations.SpecialRegisters : Prop :=
  ∀ (s : State) m,
    let g := s.wgrp m.wg
    let b := s.brd m.wg (m.braid s)
    s.regValue m 0x00 = some m.t ∧ s.regValue m 0x01 = some g.t ∧ s.regValue m 0x04 = some m.lane ∧ s.regValue m 0x05 = some (s.thr m.wg m.t).row ∧
    s.regValue m 0x0E = some g.asid ∧ s.regValue m 0x11 = some (dieOf (g.coreOf m.t)) ∧ s.regValue m 0x12 = some (s.devidx.toNat % 1024) ∧
    s.regValue m 0x40 = some b.flags.toNat ∧ s.regValue m 0x41 = some b.segb ∧ s.regValue m 0x44 = some b.fmask.toNat ∧
    s.regValue m 0x80 = some (s.core (g.coreOf m.t)).leaveWait ∧ s.regValue m 0x81 = some g.charge ∧
    (∀ n, n < 0x1000 → n ∉ [0x00, 0x01, 0x02, 0x03, 0x04, 0x05, 0x06, 0x07, 0x08, 0x09, 0x0A, 0x0B, 0x0C, 0x0D, 0x0E, 0x0F, 0x10, 0x11, 0x12, 0x20,
      0x21, 0x22, 0x40, 0x41, 0x44, 0x80, 0x81] → s.regValue m n = none) ∧
    (g.stack = none → s.regValue m 0x02 = some (g.rowOf m.t) ∧
      (∃ v, s.regValue m 0x0B = some v ∧ (g.csize ≤ 1 → v = g.core % 4) ∧
        (1 < g.csize → g.gang.length ≤ 4 → v < 4 ^ g.gang.length ∧ ∀ k w, g.gang[k]? = some w → v / 4 ^ k % 4 = (s.wgrp w).core % 4)) ∧
      s.regValue m 0x20 = some 0 ∧ s.regValue m 0x21 = some 0 ∧ s.regValue m 0x22 = some 0) ∧
    (g.stack = none → s.regValue m 0x03 = some (m.t / g.w) ∧ s.regValue m 0x06 = some g.w ∧ s.regValue m 0x07 = some g.n ∧
      s.regValue m 0x08 = some g.wgnum ∧ s.regValue m 0x09 = some g.grid ∧ s.regValue m 0x0A = some ((g.csize - 1) * 4 + g.member) ∧
      s.regValue m 0x0C = some g.core ∧ s.regValue m 0x0D = some g.args ∧ s.regValue m 0x0F = some g.part ∧
      s.regValue m 0x10 = some (g.scrUnits * 32)) ∧
    (∀ k, g.stack = some k → s.regValue m 0x20 = some k ∧ s.regValue m 0x21 = some (m.t / 16 % 48) ∧ s.regValue m 0x22 = some g.entry ∧
      ∀ n ∈ [0x02, 0x03, 0x06, 0x07, 0x08, 0x09, 0x0A, 0x0B, 0x0C, 0x0D, 0x0F, 0x10], s.regValue m n = some 0)

/-- R205, R208, R211, R359, R452: an NMBK word of one thread whose address lies in its own stack puts one command, with the fields of R359 and
the thread for its result, into the queue of the pseudo-channel, where that is one of the rhizoid core's own, or, for all banks, into the
stack's queue of all-bank commands. RDAC holds register D until it is given. A command of another rhizoid core's pseudo-channel that is not
for all banks raises 0x5B: it ends its block. Stated of a stack on which no command waits for a page. -/
def Obligations.BankWords : Prop :=
  ∀ i o a d, bankWords i = some (o, a, d) → ∀ s c m k, Alone i s c m → s.readable m a 2 → (o.opc = 2 → s.badReg m d = false) →
    (s.wgrp m.wg).stack = some k → (m.pair a).toNat < 2 ^ 57 → ∀ ia pol, s.vaIa m.wg m.t (m.pair a).toNat 1 .read = .ok (ia, pol) →
    (Tbl.getD (s.stack k).seqQ heldKey []) = [] →
    let s0 := { s with seq := s.seq + 1 }
    let s1 := if o.opc = 3 then s0.modThr m.wg m.t (fun x => x.holdReg d) else s0
    ∀ s2 spa, s1.spaOf ia false = .ok (s2, spa) → spa < 2 ^ 36 →
      (o.all = false → spaPch spa / 4 = ((s2.wgrp m.wg).coreOf m.t - 192) % 48 → ∃ t b, exec i s = .next t ∧
        Tbl.getD (t.stack k).seqQ (spaPch spa) [] = Tbl.getD (s2.stack k).seqQ (spaPch spa) [] ++ [b] ∧ IssuedAs s m o d ia spa b ∧
        b.pch = spaPch spa ∧ (o.opc = 3 → Tbl.get? (t.thr m.wg m.t).busy d = some none)) ∧
      (o.all = true → ∃ t b, exec i s = .next t ∧ (t.stack k).allQ = (s2.stack k).allQ ++ [b] ∧ IssuedAs s m o d ia spa b) ∧
      (o.all = false → spaPch spa / 4 ≠ ((s2.wgrp m.wg).coreOf m.t - 192) % 48 → (Tbl.get? s2.wgs m.wg).isSome = true → s2.dying m.wg = false →
        (s2.wgrp m.wg).ended = none → ∃ t f, exec i s = .next t ∧ (t.wgrp m.wg).ended = some f ∧
          f.cause = 0x5B ∧ f.t = m.t)

/-- R44, R220, R297: a source that names a port takes the address of the filled slot at a stream's read position, which is then popped. A
result that goes to a port bound as a channel's sender joins that channel of the member it names, with its release, and is pushed. At a port that
is bound to nothing either raises 0x19, with INFO 0 (log entry 26). Stated where no earlier word of the cycle has used the stream or channel for a higher lane. -/
def Obligations.PortWords : Prop :=
  (∀ i x, intTwo i = some x → ∀ s c m, Alone i s c m → ∀ p, s.plain m x.b = some p → (x.n = true ∨ x.d.toNat < 112) →
    ∀ q, q < 12 → x.a.toNat = 112 + q →
    (s.portOf m q = .unbound → ∃ t, exec i s = .next t ∧ Faulted s t c m 0x19 0) ∧
    (∀ n va y, s.portOf m q = .stream n → s.portUse c m.wg (m.braid s) q false = none → s.portBehind c m (m.wg * 8 + n) false = 0 →
      n < (s.wgrp m.wg).streams.length →
      (Tbl.get? s.wgs m.wg).isSome = true → ((s.wgrp m.wg).stream n).pop = some (va, y) →
      ∃ t, exec i s = .next t ∧ (t.wgrp m.wg).stream n = y ∧
        Took s t m x.n x.d.toNat (x.f (BitVec.ofNat 32 va) p.1) (readyAt c.core (max s.clk p.2) x.lat))) ∧
  (∀ i x, intTwo i = some x → ∀ s c m, Alone i s c m → x.n = false → ∀ p q, s.plain m x.a = some p → s.plain m x.b = some q →
    ∀ j, j < 12 → x.d.toNat = 112 + j →
    (s.portOf m j = .unbound → ∃ t, exec i s = .next t ∧ Faulted s t c m 0x19 0) ∧
    (∀ n, s.portOf m j = .channel true 0 n → (s.wgrp m.wg).csize ≤ 1 → n < (s.wgrp m.wg).chans.length →
      (Tbl.get? s.wgs m.wg).isSome = true → ((s.wgrp m.wg).chans.getD n []).length < 32 →
      s.portBehind c m (2 ^ 80 + m.wg * 16 + n) true = 0 →
      ∃ t rel, exec i s = .next t ∧ (t.wgrp m.wg).chans.getD n [] = (s.wgrp m.wg).chans.getD n [] ++ [(x.f p.1 q.1, c.core, rel)] ∧
        Took s t m true 0 (x.f p.1 q.1) (readyAt c.core (max s.clk (max p.2 q.2)) x.lat)))

/-! ## What a word does to threads that do not execute it, and what it leaves alone -/

/-- R221, R225, R398, R404, R413, R415 to R417, R419: a word that no thread of the packet executes: a thread that it skips or whose guard is
false keeps everything, but that a V or X word pushes an invalid latch entry, except a word whose only result is a predicate, which pushes nothing
(the model's choice, log entry 20); a thread in which one of its fields is illegal takes the cause
that R398 gives, and one in which a field names an invalid latch entry takes 0x13; INFO 0 is the model's deduction (log entry 26). -/
def Obligations.NotExecuted : Prop :=
  ∀ i, i.fields.isSome = true → ∀ s c, Issuing s c → s.doers c i = [] → ∃ t, exec i s = .next t ∧ ∀ m ∈ s.group c,
    let cause := fieldCause i.kind i.header i.opns c.core (s.wgrp m.wg).n (s.thr m.wg m.t).priv (i.signs && m.guard i.header)
    if m.skip.getLsbD c.pos = false ∧ cause.isSome = true then Faulted s t c m (cause.getD 0) 0
    else if tries i s c m = true then Faulted s t c m 0x13 0
    else t.memberOf c m.key = some m ∧ t.thr m.wg m.t =
      (if i.kind.latch then { s.thr m.wg m.t with latch := pushLatch (s.thr m.wg m.t).latch none } else s.thr m.wg m.t)

/-- R221, R224, R398, R416, R459: a source of an integer word of two sources that cannot be read stops the word in that thread: 0x13 where either
names an invalid latch entry, else 0x62 of the first that names an uncorrectable register; and nothing is pushed or written. INFO 0 of 0x13 is the
model's deduction (log entry 26). -/
def Obligations.SourceFaults : Prop :=
  ∀ i x, intTwo i = some x → portless i = true → ∀ s c, Issuing s c → ∃ t, exec i s = .next t ∧
    (∀ m ∈ s.triers c i, (s.plain m x.a = none ∧ 112 ≤ x.a.toNat) ∨ (s.plain m x.b = none ∧ 112 ≤ x.b.toNat) → Faulted s t c m 0x13 0) ∧
    ∀ m ∈ s.doers c i,
      (s.plain m x.a = none → Faulted s t c m 0x62 x.a.toNat) ∧
      ((s.plain m x.a).isSome = true → s.plain m x.b = none → Faulted s t c m 0x62 x.b.toNat)

/-- The frame of the words on registers (R221 to R225, R248, R251 to R298): no byte of memory, no store queue, no port, no special register,
accumulator or hitch register, and nothing of any thread outside the packet changes; what lands at the end of the cycle is of the kind the
word makes; and each thread of the packet keeps every register but D (for a pair, D and D + 1; for MXSTAT, D to D + 3; for the calls, the
link pair). -/
def Obligations.RegisterWordFrame : Prop :=
  ∀ i, (registerWord i || setWord i) = true → portless i = true → ∀ s c, Issuing s c → ∃ t, exec i s = .next t ∧
    LanesOnly c (fun k => k ∈ (s.group c).map Member.key) s t ∧
    (∃ l, t.landing c.core = s.landing c.core ++ l ∧ ∀ a ∈ l, mayLand i a = true) ∧
    (∀ m ∈ s.group c, SameThread (t.thr m.wg m.t) (s.thr m.wg m.t) ∧
      ∀ r, ¬ r ∈ written i → Tbl.getD (t.thr m.wg m.t).v r 0#32 = Tbl.getD (s.thr m.wg m.t).v r 0#32)

/-! ## Memory as events perform it -/

/-- R104, R304: the value that an atomic writes, for both sizes: `o` is the old value, `v` the operand, `k` the compare value. FADD writes one
rounding of the sum (its flags, `fl`, are raised nowhere), FMIN and FMAX the operand that R104 chooses. -/
def Obligations.AtomicValues : Prop :=
  (∀ o v k : Word,
    atomicNew 0 32 o.toNat v.toNat k.toNat = (o + v).toNat ∧ atomicNew 1 32 o.toNat v.toNat k.toNat = (o &&& v).toNat ∧
    atomicNew 2 32 o.toNat v.toNat k.toNat = (o ||| v).toNat ∧ atomicNew 3 32 o.toNat v.toNat k.toNat = (o ^^^ v).toNat ∧
    atomicNew 4 32 o.toNat v.toNat k.toNat = (if v.slt o then v else o).toNat ∧ atomicNew 5 32 o.toNat v.toNat k.toNat = (if o.slt v then v else o).toNat ∧
    atomicNew 6 32 o.toNat v.toNat k.toNat = (if v.ult o then v else o).toNat ∧ atomicNew 7 32 o.toNat v.toNat k.toNat = (if o.ult v then v else o).toNat ∧
    atomicNew 8 32 o.toNat v.toNat k.toNat = v.toNat ∧ atomicNew 9 32 o.toNat v.toNat k.toNat = (if o = k then v else o).toNat) ∧
  (∀ o v k : Dword,
    atomicNew 0 64 o.toNat v.toNat k.toNat = (o + v).toNat ∧ atomicNew 1 64 o.toNat v.toNat k.toNat = (o &&& v).toNat ∧
    atomicNew 2 64 o.toNat v.toNat k.toNat = (o ||| v).toNat ∧ atomicNew 3 64 o.toNat v.toNat k.toNat = (o ^^^ v).toNat ∧
    atomicNew 4 64 o.toNat v.toNat k.toNat = (if v.slt o then v else o).toNat ∧ atomicNew 5 64 o.toNat v.toNat k.toNat = (if o.slt v then v else o).toNat ∧
    atomicNew 6 64 o.toNat v.toNat k.toNat = (if v.ult o then v else o).toNat ∧ atomicNew 7 64 o.toNat v.toNat k.toNat = (if o.ult v then v else o).toNat ∧
    atomicNew 8 64 o.toNat v.toNat k.toNat = v.toNat ∧ atomicNew 9 64 o.toNat v.toNat k.toNat = (if o = k then v else o).toNat) ∧
  (∀ o v k : Word,
    (∃ fl, SumOf Num.f32 (Num.d32 o) (Num.d32 v) (atomicNew 10 32 o.toNat v.toNat k.toNat, fl)) ∧
    PickedOf Num.f32 false o.toNat v.toNat (atomicNew 11 32 o.toNat v.toNat k.toNat) ∧
    PickedOf Num.f32 true o.toNat v.toNat (atomicNew 12 32 o.toNat v.toNat k.toNat))

/-- R125, R130, R132, R149, R214, R368: what a write does at its home. One in device memory puts its bytes into the home L2's line, which then holds
them dirty and gives them to a later read; the other bytes of the line, and of DRAM, are as the fetch of the line left them. A write-back puts the
dirty bytes of a sector into DRAM. A reduction write adds each of its doubles to the double at its place, modulo 2^64, once the home L2 has
written its copy back; a base die's write puts its bytes into DRAM at once; and a write to the host puts its bytes into host memory. -/
def Obligations.HomeWrites : Prop :=
  (∀ (s s1 : State) die ia data hint pol told l, nbits ia 51 48 ≤ 1 → ia < 2 ^ 52 → 0 < data.length → ia % 64 + data.length ≤ 64 →
    s.l2Fetch ia hint pol = .ok (s1, l) → ∃ t m, s.homeAt die ia data hint pol told = .ok t ∧
      findLine (ia / 128) (t.die (dieOfStack (iaStack ia))).l2 = some m ∧ m.holds (ia % 128 / 64) = true ∧
      (∀ j, j < data.length → Tbl.get? m.data (ia % 128 + j) = data[j]? ∧ ia % 128 + j ∈ m.dirty) ∧
      (∀ o, (o < ia % 128 ∨ ia % 128 + data.length ≤ o) → Tbl.get? m.data o = Tbl.get? l.data o) ∧ t.dram = s1.dram) ∧
  (∀ (s : State) die ia n hint m d, nbits ia 51 48 ≤ 1 → ia < 2 ^ 52 → findLine (ia / 128) (s.die (dieOfStack (iaStack ia))).l2 = some m →
    m.holds (ia % 128 / 64) = true → d.length = n → (∀ j, j < n → Tbl.get? m.data (ia % 128 + j) = d[j]?) →
    ∃ t, s.homeRead die ia n hint = .ok (t, d, m.poison.contains (ia % 128 / 64)) ∧ t.dram = s.dram) ∧
  (∀ (s s' : State) x k spa, s.resolveDev x.ia true = .ok (s', .dev k spa) → (x.data.map Prod.fst).Pairwise (· < ·) →
    ∃ t, s.putBack x = .ok t ∧ (∀ o b, (o, b) ∈ x.data → Tbl.getD t.dram (dkey k spa + o) 0#8 = b) ∧
      ∀ a, (∀ o ∈ x.data.map Prod.fst, a ≠ dkey k spa + o) → Tbl.getD t.dram a 0#8 = Tbl.getD s'.dram a 0#8) ∧
  (∀ (s s' : State) die ia data hint pol told k spa, nbits ia 51 48 = 2 → ia < 2 ^ 52 → data.length % 8 = 0 → data.length ≤ 64 →
    s.resolve ia true = .ok (s', .dev k spa) →
    let s1 := s'.l2Flush (dieOfStack (iaStack ia)) (homeIa ia / 128)
    ∃ t, s.homeAt die ia data hint pol told = .ok t ∧
      (∀ i, i < data.length / 8 → leVal (t.dramRead (dkey k spa + 8 * i) 8) =
        (leVal (s1.dramRead (dkey k spa + 8 * i) 8) + leVal ((data.drop (8 * i)).take 8)) % 2 ^ 64) ∧
      ∀ a, (a < dkey k spa ∨ dkey k spa + data.length ≤ a) → Tbl.getD t.dram a 0#8 = Tbl.getD s1.dram a 0#8) ∧
  (∀ (s : State) die data hint pol told k spa, spa < 2 ^ 36 →
    ∃ t, s.homeAt die (spaIa k spa) data hint pol told = .ok t ∧
      (∀ j, j < data.length → Tbl.getD t.dram (dkey k spa + j) 0#8 = data.getD j 0#8) ∧
      ∀ a, (a < dkey k spa ∨ dkey k spa + data.length ≤ a) → Tbl.getD t.dram a 0#8 = Tbl.getD s.dram a 0#8) ∧
  (∀ (s s' : State) die ia data hint pol told a, ia < 2 ^ 52 → nbits ia 51 48 = 4 → s.resolve ia true = .ok (s', .host a) →
    Config.hostError s'.draws s'.clk = false → ∃ t, s.homeAt die ia data hint pol told = .ok t ∧
      (∀ j, j < data.length → Tbl.get? t.hostMem (a + j) = data[j]?) ∧
      (∀ b, (b < a ∨ a + data.length ≤ b) → Tbl.get? t.hostMem b = Tbl.get? s.hostMem b) ∧ t.dram = s'.dram)

/-- R143, R144, R147, R156, R300, R302, R304, R305, R306, R308, R361, R363: LOAD_RETURN performs a thread's only pending memory word: a
scratchpad load gives the bytes of the scratchpad; a load whose bytes are all in its braid's queued stores gives, of each byte, the newest, and
waits where only some of them match; a coherent load gives what its core's L1 holds, or else the home; an atomic gives the old value and writes
the new one, on the scratchpad or at its home, and CNTADD adds at the home; a fence of a narrow scope is done; FLUSH writes back and drops the
lines of its range, and is done where nothing of them is on its way; and a privileged register is written once the word's release allows it, a
command's word waiting until its register reads 0 (the model's choice, log entry 39). Stated of a word that no access of its cycle holds, and of
registers that no other word has written. -/
def Obligations.LoadReturns : Prop :=
  (∀ (s : State) wg t op, (Tbl.get? s.threads (tkey wg t)).isSome = true → (s.thr wg t).mops = [op] → op.logged = none →
    isRhizoid (s.coreOfThread wg t) = false → s.mopHeld wg t op = false → (s.thr wg t).covered = [] →
    let q := (s.brd wg ((s.wgrp wg).braidOf t)).storeQ
    let core := s.coreOfThread wg t
    let free := fun (d n : Nat) => ∀ r, d ≤ r → r < d + n → Tbl.get? (s.thr wg t).busy r = some none
    (∀ d n, op.kind = .lds d n → (n = 4 ∨ n = 8 ∨ n = 16) → q = [] → s.scrPoisoned op.core op.addr n = false → free d (n / 4) →
      ∃ u, exec (.loadReturn wg t op.seq) s = .next u ∧ (u.thr wg t).mops = [] ∧ u.cores = s.cores ∧ u.dram = s.dram ∧
        (∀ j, j < n / 4 → Tbl.getD (u.thr wg t).v (d + j) 0#32 =
          BitVec.ofNat 32 (leVal ((rangeFrom (op.addr + 4 * j) 4).map (fun a => Tbl.getD (s.core op.core).scratch a 0#8)))) ∧
        (∀ r, (r < d ∨ d + n / 4 ≤ r) → Tbl.getD (u.thr wg t).v r 0#32 = Tbl.getD (s.thr wg t).v r 0#32)) ∧
    (∀ d n sg, op.kind = .load d n sg → isAlias op.ia = false → s.braidLogged core wg ((s.wgrp wg).braidOf t) = [] →
      free d (max 1 (n / 4)) →
      (∀ bs k, forwarded q false core op.ia n op.seq = some (some (bs, k)) →
        ∃ u, exec (.loadReturn wg t op.seq) s = .next u ∧ (u.thr wg t).mops = [] ∧ u.dram = s.dram ∧
          ∀ j w, (loadWords n sg bs)[j]? = some w → j < max 1 (n / 4) → Tbl.getD (u.thr wg t).v (d + j) 0#32 = w) ∧
      (forwarded q false core op.ia n op.seq = some none → exec (.loadReturn wg t op.seq) s = .next s) ∧
      (q = [] → s.isFarPeer op.ia = false → ∀ s1 bs dep, (s.modCore core (fun c => c.applyNotes op.dep)).coreLoad core op.ia n op.pol op.hint =
          .ok (s1, bs, false, dep) → s1.threads = s.threads →
        ∃ u, exec (.loadReturn wg t op.seq) s = .next u ∧ (u.thr wg t).mops = [] ∧ u.dram = s1.dram ∧ u.dies = s1.dies ∧
          ∀ j w, (loadWords n sg bs)[j]? = some w → j < max 1 (n / 4) → Tbl.getD (u.thr wg t).v (d + j) 0#32 = w)) ∧
    (∀ f d v k, op.kind = .atoms f d v k → q = [] → op.scope < 2 → s.scrPoisoned op.core op.addr 4 = false →
      s.storeLogged core wg t op.seq = false → s.atomRun core op = [(wg, t, op)] → free d 1 →
      let old := leVal ((rangeFrom op.addr 4).map (fun a => Tbl.getD (s.core op.core).scratch a 0#8))
      ∃ u, exec (.loadReturn wg t op.seq) s = .next u ∧ (u.thr wg t).mops = [] ∧ u.dram = s.dram ∧
        Tbl.getD (u.thr wg t).v d 0#32 = BitVec.ofNat 32 old ∧
        leVal ((rangeFrom op.addr 4).map (fun a => Tbl.getD (u.core op.core).scratch a 0#8)) = atomicNew f 32 old v k % 2 ^ 32 ∧
        (∀ a, (a < op.addr ∨ op.addr + 4 ≤ a) → Tbl.getD (u.core op.core).scratch a 0#8 = Tbl.getD (s.core op.core).scratch a 0#8)) ∧
    (s.atomRun core op = [(wg, t, op)] → (s.core core).l1d.find? (fun l => l.tag == op.ia / 128 && !l.dirty.isEmpty) = none →
      ∀ s0, s.atomReady core wg t op = (s0, true) → s0.threads = s.threads → s0.isFarPeer op.ia = false → op.scope < 2 →
      (∀ f n d v k s1 bs, op.kind = .atom f n d v k → (n = 4 ∨ n = 8) → free d (n / 4) →
        s0.atomicHome (dieOf core) op.ia n f v k = .ok (s1, bs, false) → s1.threads = s.threads →
        ∃ u, exec (.loadReturn wg t op.seq) s = .next u ∧ (u.thr wg t).mops = [] ∧ u.dram = s1.dram ∧ u.dies = s1.dies ∧
          ∀ j w, (loadWords n false bs)[j]? = some w → Tbl.getD (u.thr wg t).v (d + j) 0#32 = w)) ∧
    (s.atomRun core op = [(wg, t, op)] → (s.core core).l1d.find? (fun l => l.tag == op.ia / 128 && !l.dirty.isEmpty) = none →
      ∀ s0, s.atomReady core wg t op = (s0, true) → s0.isFarPeer op.ia = false →
      (∀ v s1 bs, op.kind = .cntadd v → s0.atomicHome (dieOf core) op.ia 8 0 v 0 = .ok (s1, bs, false) →
        (s1.thr wg t).mops.map MOp.seq = [op.seq] →
        ∃ u, exec (.loadReturn wg t op.seq) s = .next u ∧ (u.thr wg t).mops = [] ∧ u.dram = s1.dram ∧ u.dies = s1.dies)) ∧
    (∀ k, op.kind = .fence k → q = [] → op.scope < 2 → s.storeLogged core wg t op.seq = false →
      (∀ x ∈ s.threadsOf wg, ∀ e ∈ x.mops, e.kind.isLoad = false ∨ op.seq ≤ e.seq) →
      (∀ x ∈ s.threads, ∀ e ∈ x.2.mops, e.word = op.word → e.kind = op.kind → op.seq ≤ e.seq) →
      ∃ u, exec (.loadReturn wg t op.seq) s = .next u ∧ (u.thr wg t).mops = [] ∧ u.dram = s.dram ∧ u.braids = s.braids) ∧
    (∀ n, op.kind = .flush n → q = [] → op.posted = false →
      let pages := s.flushPages op.asid (op.va / 65536) ((op.va + n - 1) / 65536 - op.va / 65536 + 1)
      ∃ u, exec (.loadReturn wg t op.seq) s = .next u ∧ u.dram = s.dram ∧
        (u.core core).l1d = (s.core core).l1d.filter (fun l => !inFlush pages op.va n l) ∧
        ((∀ l ∈ (s.core core).l1d, inFlush pages op.va n l = true → l.dirty = []) → (s.core core).wstores = [] → (u.thr wg t).mops = []) ∧
        (∀ l o bs, (s.core core).l1d.filter (inFlush pages op.va n) = [l] → dirtyRuns (sortBy id l.dirty) l.data = [(o, bs)] →
          ∃ w, (u.core core).wstores = (s.core core).wstores ++ [w] ∧ w.ia = l.tag * 128 + o ∧ w.data = bs)) ∧
    (∀ n v, op.kind = .syswr n v false → ∀ s0, s.release core wg t op 4 = (s0, true) →
      (sysCommand n = false → exec (.loadReturn wg t op.seq) s = .next ((s0.sysWrite (.part (s.wgrp wg).part) n v).dropMop wg t op.seq)) ∧
      (sysCommand n = true → exec (.loadReturn wg t op.seq) s =
        .next ((s0.sysWrite (.part (s.wgrp wg).part) n v).modMop wg t op.seq (fun x => { x with kind := .syswr n v true })))) ∧
    (∀ n v, op.kind = .syswr n v true →
      (s.sysRead (.part (s.wgrp wg).part) n = some 1 → exec (.loadReturn wg t op.seq) s = .next s) ∧
      (s.sysRead (.part (s.wgrp wg).part) n ≠ some 1 → exec (.loadReturn wg t op.seq) s = .next (s.dropMop wg t op.seq)))) ∧
  (∀ (q : List SEntry) core ia n seq bs k, forwarded q false core ia n seq = some (some (bs, k)) → bs.length = n ∧ ∀ j, j < n → ∃ q1 e q2,
    q = q1 ++ e :: q2 ∧ e.seq < seq ∧ e.scratch = false ∧ e.ia ≤ ia + j ∧ ia + j < e.ia + e.data.length ∧
    bs[j]? = e.data[ia + j - e.ia]? ∧
    ∀ x ∈ q2, x.seq < seq → x.scratch = false → ¬ (x.ia ≤ ia + j ∧ ia + j < x.ia + x.data.length)) ∧
  (∀ (s : State) core ia n pol hint l b, isRhizoid core = false → isAlias ia = false → findLine (ia / 128) (s.core core).l1d = some l →
    l.live (s.core core) s.clk = true → l.bytesAt (ia % 128) n = some b → ∃ u dep,
    s.coreLoad core ia n pol hint = .ok (u, b, l.poison.contains (ia % 128 / 64), dep) ∧ u.dram = s.dram ∧ u.threads = s.threads) ∧
  (∀ (s s1 s2 : State) core ia n pol hint d1 d2 p1 p2, isRhizoid core = false → nbits ia 51 48 ≤ 1 → ia < 2 ^ 52 →
    dieOfStack (iaStack ia) = dieOf core → findLine (ia / 128) (s.core core).l1d = none → (s.core core).wstores = [] → ia % 128 + n ≤ 128 →
    s.freshSeq.1.homeRead (dieOf core) (ia / 128 * 128) 64 hint = .ok (s1, d1, p1) →
    s1.homeRead (dieOf core) (ia / 128 * 128 + 64) 64 hint = .ok (s2, d2, p2) → d1.length = 64 → d2.length = 64 → ∃ u dep,
    s.coreLoad core ia n pol hint = .ok (u, ((d1 ++ d2).drop (ia % 128)).take n, if ia % 128 < 64 then p1 else p2, dep) ∧ u.dram = s2.dram) ∧
  (∀ (s s1 s2 : State) die ia n f v k bs, nbits ia 51 48 ≤ 1 → ia < 2 ^ 52 → s.homeRead die ia n 0 = .ok (s1, bs, false) →
    s1.homeAt die ia (leBytes n (atomicNew f (8 * n) (leVal bs) v k)) 0 0 false = .ok s2 → s.atomicHome die ia n f v k = .ok (s2, bs, false))

/-- R145, R146, R148, R149, R155, R214, R456: the head of a braid's queue leaves it: a scratchpad store writes its bytes there, a coherent store
goes on its way to its home in core store order, and a software-managed one becomes dirty bytes of its L1 line; a store that no earlier one and no
token holds is performed at its home; a token is done when its endpoint has seen what it counts, or its peer is lost, whose stores are dropped;
and a stack's receiver adds the doubles of the earliest reduction write. -/
def Obligations.StoreEvents : Prop :=
  (∀ (s : State) wg b e r, (Tbl.get? s.braids (bkey wg b)).isSome = true → (s.brd wg b).storeQ = e :: r → e.logged = none →
    (s.thr wg e.t).mops = [] → s.storeHeld wg b e = false →
    (e.scratch = true → ∃ u, exec (.storeDrain wg b) s = .next u ∧ (u.brd wg b).storeQ = r ∧ u.dram = s.dram ∧
      (∀ j, j < e.data.length → Tbl.getD (u.core e.core).scratch (e.addr + j) 0#8 = e.data.getD j 0#8) ∧
      (∀ a, (a < e.addr ∨ e.addr + e.data.length ≤ a) → Tbl.getD (u.core e.core).scratch a 0#8 = Tbl.getD (s.core e.core).scratch a 0#8)) ∧
    (e.scratch = false → isRhizoid (s.coreOfThread wg e.t) = false → s.staysInL1 (s.coreOfThread wg e.t) e = false → s.refusedBy e.ia true = none →
      ∃ u q, exec (.storeDrain wg b) s = .next u ∧ (u.brd wg b).storeQ = r ∧ u.dram = s.dram ∧ s.seq ≤ q ∧
        (u.core (s.coreOfThread wg e.t)).wstores = (s.core (s.coreOfThread wg e.t)).wstores ++ [{ e.leaving wg with seq := q }]) ∧
    (e.scratch = false → isRhizoid (s.coreOfThread wg e.t) = false → s.staysInL1 (s.coreOfThread wg e.t) e = true →
      e.ia % 128 + e.data.length ≤ 128 → ∃ u l, exec (.storeDrain wg b) s = .next u ∧ (u.brd wg b).storeQ = r ∧ u.dram = s.dram ∧
        findLine (e.ia / 128) (u.core (s.coreOfThread wg e.t)).l1d = some l ∧ l.pol = e.pol ∧
        ∀ j, j < e.data.length → Tbl.get? l.data (e.ia % 128 + j) = e.data[j]? ∧ e.ia % 128 + j ∈ l.dirty)) ∧
  (∀ (s : State) core idx w u, (s.core core).wstores[idx]? = some w → s.mayHome core w = true → s.isFarPeer w.ia = false →
    isAlias w.ia = false → s.homePut (dieOf core) w.ia w.data w.hint w.pol true = .ok u →
    ∃ x, exec (.storePerformHome core idx) s = .next x ∧ x.dram = u.dram ∧ x.dies = u.dies ∧ x.threads = u.threads ∧
      (x.core core).wstores = (u.core core).wstores.filter (fun y => y.seq != w.seq)) ∧
  (∀ (s : State) core idx k, (s.core core).tokens[idx]? = some k →
    let seen := (s.core core).tokens.all (fun x => !(x.seq == k.seq && x.endpoint == 0 && k.endpoint == 1)) &&
      decide (k.count ≤ Tbl.getD (s.core core).performed k.endpoint 0)
    let lost := decide (2 ≤ k.endpoint) && s.lost.contains (k.endpoint - 2)
    (seen = false → lost = false → exec (.fenceToken core idx) s = .next s) ∧
    (seen = true → lost = false → ∃ x, exec (.fenceToken core idx) s = .next x ∧ x.dram = s.dram ∧ x.threads = s.threads ∧
      (x.core core).tokens = (s.core core).tokens.filter (fun y => !(y == k)) ∧ (x.core core).wstores = (s.core core).wstores) ∧
    (lost = true → ∃ x, exec (.fenceToken core idx) s = .next x ∧ x.dram = s.dram ∧
      (x.core core).tokens = (s.core core).tokens.filter (fun y => !(y == k)) ∧
      (x.core core).wstores = (s.core core).wstores.filter (fun w => !w.toPeer (k.endpoint - 2)))) ∧
  (∀ (s : State) stack core c w u, s.cores = [(core, c)] → c.wstores = [w] → s.mayHome core w = true → isAlias w.ia = true → iaStack w.ia = stack →
    s.isFarPeer w.ia = false → s.homePut (dieOf core) w.ia w.data w.hint w.pol true = .ok u →
    ∃ x, exec (.reductionAdd stack) s = .next x ∧ x.dram = u.dram ∧ (x.core core).wstores = (u.core core).wstores.filter (fun y => y.seq != w.seq) ∧
      ∀ s' k spa, w.ia < 2 ^ 52 → w.data.length % 8 = 0 → w.data.length ≤ 64 → s.resolve w.ia true = .ok (s', .dev k spa) →
        let s1 := s'.l2Flush (dieOfStack (iaStack w.ia)) (homeIa w.ia / 128)
        ∀ i, i < w.data.length / 8 → leVal (x.dramRead (dkey k spa + 8 * i) 8) =
          (leVal (s1.dramRead (dkey k spa + 8 * i) 8) + leVal ((w.data.drop (8 * i)).take 8)) % 2 ^ 64)

/-! ## Cycles, packets, exceptions -/

/-- R39, R216, R335, R363, R398, R412: a step whose act is a word runs the instruction that the word decodes to, on the packet's threads; a word
that decodes to none faults with cause 0x10 in every thread that does not skip it. Where the word follows a command register's write in its own
cycle, the step holds it back instead (`State.holdsWord`), and a word that goes on is no longer held back (`State.freeWord`). -/
def Obligations.StepRunsDecoded : Prop :=
  ∀ (s : State) core pkt pos r tn p, s.agenda = .word core pkt pos :: r → s.turnOf core = some tn → tn.pkts[pkt]? = some p →
    let c : Cur := ⟨core, pkt, pos, wordAt p.words pos⟩
    let s0 := { State.freeWord { s with agenda := r } core pkt pos with cur := some c }
    (s.holdsWord core pkt pos = false →
      (∀ i rest, Sys2Proof.decode (p.words.drop pos) = .ok (i, rest) → pos < p.words.length → ∀ t, exec i s0 = .next t → step s = .next { t with cur := none }) ∧
      (∀ e, decodeWord (wordAt p.words pos) (wordAt p.words (pos + 1)) (wordAt p.words (pos + 2)) = .error e → Issuing s0 c →
        ∃ t, step s = .next t ∧ ∀ m ∈ p.members,
          if m.skip.getLsbD pos = true then t.memberOf c m.key = some m else Faulted s0 t c m 0x10 0) ∧
      s0.threads = s.threads ∧ s0.wgs = s.wgs ∧ s0.dram = s.dram ∧ s0.group c = s.group c) ∧
    (s.holdsWord core pkt pos = true → ∃ u v, step s = .next u ∧ u.threads = s.threads ∧ u.dram = s.dram ∧ u.turnOf core = some v ∧ (pkt, pos) ∈ v.held ∧
      v.pkts = tn.pkts)

/-- R106, R224, R225, R295, R296, R326, R335, R354, R362, R363: what lands at the end of a cycle: the predicates of its words; a write of FLAGS and
one of SEGB, of the lowest lane of a braid; codebook entries and port bindings; the stream that STCFG describes, or none where a pair of the
cycle for it is not legal; and QFENCE entries. No thread but those of the predicates and the writers of privileged registers changes. The flags
that words raise are on their way to FLAGS, and reach it at the CLK at which their results are written back. A privileged write that stands is a
pending memory word of its thread (the model's choice, log entry 39). Stated of a cycle of which no word is held back, and of privileged registers
that no thread of another core writes in the same cycle. -/
def Obligations.CycleEnds : Prop :=
  (∀ (s : State) core r tn, s.agenda = .cycleEnd core :: r → s.turnOf core = some tn → tn.held = [] →
    (∀ wg b t l n v pc raw pos, .priv wg b t l n v pc raw pos ∈ tn.acts → s.rivals wg ((s.wgrp wg).coreOf t) n = []) →
    ∃ u, step s = .next u ∧ u.landing core = [] ∧
    (∀ wg t i v, (Tbl.get? s.threads (tkey wg t)).isSome = true → 0 < i → i < 32 → .pred wg t i v ∈ tn.acts →
      (∀ a ∈ tn.acts, ∀ wg' t' v', a = .pred wg' t' i v' → tkey wg' t' = tkey wg t → v' = v) → (u.thr wg t).p.getLsbD i = v) ∧
    (∀ wg t, (∀ a ∈ tn.acts, a.thread ≠ some (tkey wg t)) → u.thr wg t = s.thr wg t) ∧
    (∀ wg b, (Tbl.get? s.braids (bkey wg b)).isSome = true → (∀ a ∈ tn.acts, ∀ w' b' l f, a = .flagsSet w' b' l f → bkey w' b' ≠ bkey wg b) →
      (u.brd wg b).flags = (s.brd wg b).flags ∧ ∀ x, x ∈ (u.brd wg b).flagsDue ↔
        x ∈ (s.brd wg b).flagsDue ∨ ∃ w' b', .flags w' b' x.1 x.2 ∈ tn.acts ∧ bkey w' b' = bkey wg b) ∧
    (∀ wg b l f, (Tbl.get? s.braids (bkey wg b)).isSome = true → .flagsSet wg b l f ∈ tn.acts →
      (∀ w' b' l' f', .flagsSet w' b' l' f' ∈ tn.acts → bkey w' b' = bkey wg b → w' = wg ∧ b' = b ∧ l ≤ l' ∧ (l' = l → f' = f)) →
      (u.brd wg b).flags = f) ∧
    (∀ wg b l v d, (Tbl.get? s.braids (bkey wg b)).isSome = true → .segb wg b l v d ∈ tn.acts →
      (∀ w' b' l' v' d', .segb w' b' l' v' d' ∈ tn.acts → bkey w' b' = bkey wg b → w' = wg ∧ b' = b ∧ l ≤ l' ∧ (l' = l → v' = v)) →
      (u.brd wg b).segb = v) ∧
    (∀ wg b q l v, (Tbl.get? s.braids (bkey wg b)).isSome = true → .bind wg b q l v ∈ tn.acts → q < (s.brd wg b).ports.length →
      (∀ w' b' l' v', .bind w' b' q l' v' ∈ tn.acts → bkey w' b' = bkey wg b → w' = wg ∧ b' = b ∧ l ≤ l' ∧ (l' = l → v' = v)) →
      (u.brd wg b).ports[q]? = some v) ∧
    (∀ wg b i v, (Tbl.get? s.braids (bkey wg b)).isSome = true → .code wg b i v ∈ tn.acts → i < (s.brd wg b).codebook.length →
      (∀ w' b' v', .code w' b' i v' ∈ tn.acts → bkey w' b' = bkey wg b → v' = v) → (u.brd wg b).codebook[i]? = some v) ∧
    (∀ wg n t x, (Tbl.get? s.wgs wg).isSome = true → n < (s.wgrp wg).streams.length → .stcfg wg n t x ∈ tn.acts →
      (∀ t' y, .stcfg wg n t' y ∈ tn.acts → t ≤ t' ∧ (t' = t → y = x)) →
      (u.wgrp wg).streams[n]? = if tn.acts.any (fun a => match a with | .stcfg w' n' _ none => w' == wg && n' == n | _ => false) then (s.wgrp wg).streams[n]?
        else x.orElse (fun _ => (s.wgrp wg).streams[n]?)) ∧
    (s.qfences <+: u.qfences ∧ ∀ e, e ∈ u.qfences.drop s.qfences.length ↔ ∃ pkt l, .qfence e.1 e.2.1 pkt l e.2.2 ∈ tn.acts ∧
      ∀ l' v', .qfence e.1 e.2.1 pkt l' v' ∈ tn.acts → l ≤ l') ∧
    (∀ wg b t l n v pc raw pos, (Tbl.get? s.threads (tkey wg t)).isSome = true → tn.acts = [.priv wg b t l n v pc raw pos] →
      ∃ m, (u.thr wg t).mops = (s.thr wg t).mops ++ [m] ∧ m.kind = .syswr n v false ∧ m.pc = pc ∧ m.raw = raw ∧ m.wpos = pos) ∧
    u.dram = s.dram ∧ u.clk = s.clk) ∧
  (∀ (s : State) wg b, (Tbl.get? s.braids (bkey wg b)).isSome = true →
    (s.writeFlags.brd wg b).flagsDue = (s.brd wg b).flagsDue.filter (fun x => decide (s.clk < x.1)) ∧
    ∀ k, k < 5 → ((s.writeFlags.brd wg b).flags.getLsbD k = true ↔
      ((s.brd wg b).flags.getLsbD k = true ∨ ∃ x ∈ (s.brd wg b).flagsDue, x.1 ≤ s.clk ∧ x.2.getLsbD k = true)))

/-- R246, R247, R255, R258, R262, R263: at the end of a packet without a fault its thread goes to the target of its branch or to the next packet;
an EXIT sets its exited bit; a YIELD holds it back; a SLEEP, WAITGE or WAITP makes it wait, to resume at the next packet. -/
def Obligations.PacketEnds : Prop :=
  ∀ s core pkt p m, Ending s core pkt p m → m.fault = none → m.trapret = false →
    (m.exit = false → m.wait = none → ∃ u, step s = .next u ∧
      u.thr m.wg m.t = { s.thr m.wg m.t with pc := m.target.getD (p.pc + 1), hold := (s.thr m.wg m.t).hold || m.yielded }) ∧
    (m.exit = true → (m.wait = none ∨ m.target = none) → ∃ u, step s = .next u ∧ (u.thr m.wg m.t).exited = true) ∧
    (∀ k, m.exit = false → m.target = none → m.yielded = false → m.wait = some (.sleep k) → ∃ u, step s = .next u ∧
      if k ≤ s.clk then u.thr m.wg m.t = { s.thr m.wg m.t with pc := p.pc + 1 }
      else (u.thr m.wg m.t).wait = .sleep k ∧ (u.thr m.wg m.t).resume = p.pc + 1) ∧
    (∀ va x sc l, m.exit = false → m.target = none → m.yielded = false → m.wait = some (.waitge va x sc l) → ∃ u, step s = .next u ∧
      (u.thr m.wg m.t).wait = .waitge va x sc l ∧ (u.thr m.wg m.t).resume = p.pc + 1 ∧ .event (.waitgeReread m.wg m.t) ∈ u.agenda) ∧
    (∀ pr va x sc, m.exit = false → m.target = none → m.yielded = false → m.wait = some (.waitp pr va x sc) → ∃ u, step s = .next u ∧
      (u.thr m.wg m.t).wait = .waitp pr va x sc ∧ (u.thr m.wg m.t).resume = p.pc + 1 ∧
      (pr ≤ s.clk → .event (.waitpRead m.wg m.t) ∈ u.agenda))

/-- R251, R399, R401, R402, R472: a recoverable fault of a user thread of the main die, where TCTL enables traps and the frame can be written: the thread is
in privileged mode at TVEC, v0 to v3 hold the frame's address and first double, all its other registers and its predicates are as they were, the
frame's 128 bytes are stores at the end of its braid's queue, and TCOUNT has counted the entry. -/
def Obligations.TrapTaken : Prop :=
  ∀ s core pkt p m pos a, Ending s core pkt p m → m.fault = some (pos, a) → m.wait = none → causeClass a.cause = 0 →
    (s.wgrp m.wg).stack = none → (s.thr m.wg m.t).priv = false → (s.part (s.wgrp m.wg).part).tctl.getLsbD 0 = true →
    (Tbl.get? s.braids (bkey m.wg ((s.wgrp m.wg).braidOf m.t))).isSome = true →
    let part := s.part (s.wgrp m.wg).part
    let f := s.frameVa m.wg m.t
    let done := posMask ((instrPos p.words).filter (fun q => majorOf (wordAt p.words q) != 0)) &&& ~~~m.failed &&&
      ~~~(if m.exit then posMask ((instrPos p.words).filter (fun q => majorOf (wordAt p.words q) == 0x06)) else 0#3)
    let rpc := if a.cause = 0x01 ∧ m.exit = false then m.target.getD (p.pc + 1) else p.pc
    let b := (s.wgrp m.wg).braidOf m.t
    ∀ ia pol, s.checkVa (part.tasid.toNat % 4096) f 16 .write = .ok (ia, pol) → ∃ u, step s = .next u ∧
      let x := u.thr m.wg m.t
      x.priv = true ∧ x.pc = part.tvec.toNat % 2 ^ 53 ∧ x.wait = .ready ∧ x.latch = [none, none, none, none] ∧ x.skip = 0#3 ∧
      x.p = (s.thr m.wg m.t).p ∧
      Tbl.getD x.v 0 0#32 = BitVec.ofNat 32 f ∧ Tbl.getD x.v 1 0#32 = BitVec.ofNat 32 (f / 2 ^ 32) ∧
      Tbl.getD x.v 2 0#32 = BitVec.ofNat 32 (frameD0 a done) ∧ Tbl.getD x.v 3 0#32 = BitVec.ofNat 32 (frameD0 a done / 2 ^ 32) ∧
      (∀ r, 4 ≤ r → Tbl.getD x.v r 0#32 = Tbl.getD (s.thr m.wg m.t).v r 0#32) ∧
      (u.part (s.wgrp m.wg).part).tcount = part.tcount + 1 ∧
      (∃ es, (u.brd m.wg b).storeQ = (s.brd m.wg b).storeQ ++ es ∧ es.length = 8 ∧
        ∀ i e, es[i]? = some e → e.va = f + 16 * i ∧ e.ia = ia + 16 * i ∧ e.t = m.t ∧ e.scratch = false ∧ e.trap = some a.cause ∧
          e.data = ((s.frameBytes m.wg m.t a done rpc (s.thr m.wg m.t).wait).drop (16 * i)).take 16)

/-- R404: a TRAPRET whose frame is well-formed restores v0 to v7 and the predicates, leaves privileged mode and continues at RPC, skipping the
words that DONE marks where RPC is FPC; a wait that the handler held and that has not been met goes on. -/
def Obligations.TrapReturns : Prop :=
  ∀ (s : State) wg t fva ds pc raw, (Tbl.get? s.threads (tkey wg t)).isSome = true → (s.thr wg t).bound = none →
    frameMalformed ds (s.thr wg t).held = false →
    let x := (s.trapReturn wg t fva ds pc raw).thr wg t
    x.priv = false ∧ x.pc = ds.getD 2 0 ∧ x.held = none ∧ x.latch = [none, none, none, none] ∧
    x.p = (BitVec.ofNat 32 (ds.getD 4 0)) ||| 1#32 ∧
    x.skip = (if ds.getD 2 0 = ds.getD 1 0 then BitVec.ofNat 3 (ds.getD 0 0 / 2 ^ 17) else 0#3) ∧
    (∀ i, i < 4 → Tbl.getD x.v (2 * i) 0#32 = BitVec.ofNat 32 (ds.getD (6 + i) 0) ∧
      Tbl.getD x.v (2 * i + 1) 0#32 = BitVec.ofNat 32 (ds.getD (6 + i) 0 / 2 ^ 32)) ∧
    (∀ r, 8 ≤ r → Tbl.getD x.v r 0#32 = Tbl.getD (s.thr wg t).v r 0#32) ∧
    (ds.getD 10 0 % 16 = 0 → x.wait = .ready) ∧
    (∀ h, (s.thr wg t).held = some h → ds.getD 10 0 % 16 ≠ 0 → x.wait = (if h.met then .ready else h.wait))

/-- R401, R402, R404: the frame that an entry writes is well-formed, and a return by it gives the thread back the registers v0 to v7 and the
predicates that it had, at the packet that the entry named. The wait is that of a thread that does not wait. -/
def Obligations.TrapRoundTrip : Prop :=
  ∀ (s : State) wg t a done rpc pc raw fva, (Tbl.get? s.threads (tkey wg t)).isSome = true → (s.thr wg t).bound = none →
    a.cause < 2 ^ 8 → a.wpos < 4 → a.pc < 2 ^ 53 → rpc < 2 ^ 53 → (s.thr wg t).wait = .ready →
    let ds := frameDoubles (s.frameBytes wg t a done rpc .ready)
    frameMalformed ds (s.thr wg t).held = false ∧
    let x := (s.trapReturn wg t fva ds pc raw).thr wg t
    x.pc = rpc ∧ x.p = (s.thr wg t).p ||| 1#32 ∧ x.skip = (if rpc = a.pc then done else 0#3) ∧
    ∀ r, Tbl.getD x.v r 0#32 = Tbl.getD (s.thr wg t).v r 0#32

/-- R397, R398, R401, R405, R408, R410, R411: what a fault that is taken does by its class: a workgroup-fatal cause, any fault of the handler
(0x1B), and a recoverable one where TCTL enables no trap or in a near-memory block end the workgroup with its record due; a lane-contained one
switches the thread off, but for cause 0x20, after which the thread runs on (R398, R408, R409) with its lane noted in FMASK; a region-fatal one is
due for its domain. -/
def Obligations.FaultClasses : Prop :=
  (∀ s core pkt p m pos a, Ending s core pkt p m → m.fault = some (pos, a) → a.cause = 0x20 → m.wait = none → m.trapret = false →
    (Tbl.get? s.braids (bkey m.wg ((s.wgrp m.wg).braidOf m.t))).isSome = true → (s.thr m.wg m.t).lane < 64 → ∃ u, step s = .next u ∧
      u.thr m.wg m.t = { s.thr m.wg m.t with pc := m.target.getD (p.pc + 1), hold := (s.thr m.wg m.t).hold || m.yielded } ∧
      (u.brd m.wg ((s.wgrp m.wg).braidOf m.t)).fmask.getLsbD (s.thr m.wg m.t).lane = true ∧ u.dram = s.dram) ∧
  ∀ (s : State) wg t a done rpc, (Tbl.get? s.wgs wg).isSome = true → s.dying wg = false → (s.wgrp wg).ended = none → wg ≠ 0 →
    (Tbl.get? s.threads (tkey wg t)).isSome = true →
    let u := s.takeFault wg t a done rpc
    (causeClass a.cause = 2 → (u.wgrp wg).ended = some ⟨a.cause, a.info, t, a.pc, a.raw, a.clk⟩ ∧ .event (.workgroupFatal wg) ∈ u.agenda ∧
      u.threads = s.threads) ∧
    (causeClass a.cause = 0 → (s.wgrp wg).stack = none → (s.thr wg t).priv = true →
      (u.wgrp wg).ended = some ⟨0x1B, a.cause, t, a.pc, a.raw, a.clk⟩ ∧ .event (.workgroupFatal wg) ∈ u.agenda) ∧
    (causeClass a.cause = 0 → (s.wgrp wg).stack.isSome = true ∨
        ((s.thr wg t).priv = false ∧ (s.part (s.wgrp wg).part).tctl.getLsbD 0 = false) →
      (u.wgrp wg).ended = some ⟨a.cause, a.info, t, a.pc, a.raw, a.clk⟩ ∧ .event (.workgroupFatal wg) ∈ u.agenda) ∧
    (causeClass a.cause = 1 → a.cause ≠ 0x20 → (u.thr wg t).off = true) ∧
    (causeClass a.cause = 3 → .event .regionFatal ∈ u.agenda ∧
      ⟨(s.wgrp wg).part, (s.wgrp wg).dom, wg, ⟨a.cause, a.info, t, a.pc, a.raw, a.clk⟩⟩ ∈ u.regionFaults)

/-! ## Events -/

/-- R262, R263, R264, R401, R423, R430, R451, R481: a sleeper whose time has come is ready; a WAITGE and, once CLK has reached its promise, a
WAITP read their counter; a REJOIN round of which a member lane has no thread raises 0x18 for the thread that waits on it; a waiting thread
takes its asynchronous trap at once. -/
def Obligations.WaitEvents : Prop :=
  (∀ s : State, s.Coherent → ∃ u, exec .sleepWake s = .next u ∧ u.dram = s.dram ∧
    ∀ wg t k, (Tbl.get? s.threads (tkey wg t)).isSome = true → (s.thr wg t).wait = .sleep k →
      u.thr wg t = if k ≤ s.clk then { s.thr wg t with wait := .ready, pc := (s.thr wg t).resume } else s.thr wg t) ∧
  (∀ (s : State) wg t va x sc l ia pol, (Tbl.get? s.threads (tkey wg t)).isSome = true → (s.thr wg t).wait = .waitge va x sc l →
    (s.thr wg t).mops = [] → s.vaIaOf wg (s.asidOf wg t) va 8 .read = .ok (ia, pol) → ∃ u op, exec (.waitgeReread wg t) s = .next u ∧
      (u.thr wg t).mops = [op] ∧ op.kind = .waitRead false ∧ op.va = va ∧ op.ia = ia ∧ (u.thr wg t).wait = .waitge va x sc l) ∧
  (∀ (s : State) wg t pr va x sc ia pol, (Tbl.get? s.threads (tkey wg t)).isSome = true → (s.thr wg t).wait = .waitp pr va x sc →
    (s.thr wg t).mops = [] →
    (s.clk < pr → exec (.waitpRead wg t) s = .next s) ∧
    (pr ≤ s.clk → s.vaIaOf wg (s.asidOf wg t) va 8 .read = .ok (ia, pol) → ∃ u op, exec (.waitpRead wg t) s = .next u ∧
      (u.thr wg t).mops = [op] ∧ op.kind = .waitRead true ∧ op.va = va ∧ op.ia = ia)) ∧
  (∀ (s : State) wg x n i, s.threadsOf wg = [x] → x.wg = wg → x.wait = .hitch n → n < 12 → (Tbl.get? s.wgs wg).isSome = true → s.dying wg = false →
    (s.wgrp wg).ended = none → i < 64 → (s.hitch wg x.t n).members.getLsbD i = true → (s.hitch wg x.t n).arrived.getLsbD i = false → i ≠ x.lane →
    ∃ u, exec (.hitchDeadlock wg) s = .next u ∧ .event (.workgroupFatal wg) ∈ u.agenda ∧
      (u.wgrp wg).ended = some ⟨0x18, (s.hitch wg x.t n).members.toNat, x.t, x.waitWord.1, x.waitWord.2, s.clk⟩) ∧
  (∀ (s : State) wg t a r, (s.thr wg t).wait ≠ .ready → (s.thr wg t).async = a :: r → (s.thr wg t).exited = false → (s.thr wg t).off = false →
    (s.wgrp wg).ended = none → (s.wgrp wg).retired = false →
    exec (.asyncTrap wg t) s =
      .next ((s.modThr wg t (fun x => { x with async := r })).takeFault wg t a 0#3 (s.thr wg t).resume))

/-- R405 to R408, R410, R435, R436, R459, R477, R479, R480, R482: the ends of workgroups and domains, errors of storage, and repair. The record
of R405, the status record of R406 and the record of R480 land at their homes, with TAIL advanced and the vector raised; where a partition keeps
no fault queue, and where a capacity ring is full, no byte of memory changes. That a counter increment that fails always has its record (log entry
48), that a substituted cluster keeps its number (log entry 71), and that it begins as it stands after reset (log entry 85), are the model's
choices. -/
def Obligations.FaultEvents : Prop :=
  (∀ (s : State) w g f, OneWg s w g → g.ended = some f → g.csize ≤ 1 → ∃ u, exec (.workgroupFatal w) s = .next u ∧
    u.dies = ((s.stopWg w f).report g.part g.dom (f.report s 2 w)).dies ∧ (s.noQueue g.part → u.dram = s.dram ∧ u.dies = s.dies) ∧
    (u.wgrp w).stopping = true ∧ (u.wgrp w).ended = some f ∧ (u.wgrp w).bar = [] ∧ (∀ h ∈ (u.wgrp w).hitch, h.closed) ∧
    .event (.workgroupRetire w) ∈ u.agenda ∧
    (∀ t, (Tbl.get? s.threads (tkey w t)).isSome = true → (s.thr w t).wg = w → (u.thr w t).wait = .ready ∧ (u.thr w t).async = [])) ∧
  (∀ (s : State) w g x, OneWg s w g → s.noQueue g.part → s.regionFaults = [x] → x.part = g.part → x.dom = g.dom →
    ∃ u, exec .regionFatal s = .next u ∧ u.dram = s.dram ∧ u.regionFaults = [] ∧ (u.wgrp w).stopping = true ∧ (u.wgrp w).ended = some x.info ∧
    .event (.workgroupRetire w) ∈ u.agenda) ∧
  (∀ (s : State) w g x, OneWg s w g → s.noQueue g.part → s.failedAdds = [x] → x.part = g.part → x.dom = g.dom →
    ∃ u, exec .counterAddFail s = .next u ∧ u.dram = s.dram ∧ u.failedAdds = [] ∧ (u.wgrp w).stopping = true ∧
    (u.wgrp w).ended = some ⟨0x66, x.addr, 0, 0, 0#32, s.clk⟩) ∧
  (∀ (s : State) tr q wg t ia wr tr' page ev, s.findAccess q = some (wg, t, ia, wr) → s.logCount ((s.wgrp wg).coreOf t) < 16 →
    s.absentAt ((s.wgrp wg).coreOf t) ia wr = some (tr', page, ev) → s.noQueue (s.wgrp wg).part → ∃ u, exec (.pageNotResident tr q) s = .next u ∧
      u.dram = s.dram ∧ ∀ wg' t', (u.thr wg' t').mops = (s.thr wg' t').mops.map (fun m => if m.seq = q then { m with logged := some tr, lseq := s.seq } else m)) ∧
  (∀ (s : State) wg t r, s.msg.err = some (.regFile wg t r) → (Tbl.get? s.threads (tkey wg t)).isSome = true →
    ∃ u, exec .uncorrectableError s = .next u ∧ r ∈ (u.thr wg t).badRegs ∧ u.dram = s.dram) ∧
  (∀ (s : State) k spa, s.msg.err = some (.dram k spa) → ∃ u, exec .uncorrectableError s = .next u ∧ u.dram = s.dram ∧
    dkey k spa / 64 ∈ u.dramPoison ∧ .event (.rowRetire k (rowName spa)) ∈ u.agenda) ∧
  (∀ (s : State), s.msg.err = none → let x := (s.die s.msg.src).power.cecnt.toNat; ∃ u, exec .correctedError s = .next u ∧ u.dram = s.dram ∧
    (u.die s.msg.src).power.cecnt.toNat = if x / 2 ^ 48 = 0xFFFF then x else x + 2 ^ 48) ∧
  (∀ (s : State) k row, row ∉ (s.stack k).retired → ∃ u, exec (.rowRetire k row) s = .next u ∧
    (s.ringFull (dieOfStack k) → u.dram = s.dram ∧ u.dies = s.dies) ∧
    (Tbl.getD (s.stack k).rowsUsed (row / 2 ^ 20) 0 < Config.spareRows k → row ∈ (u.stack k).retired ∧ s.raises u 16 ∧
      Tbl.getD (u.stack k).rowsUsed (row / 2 ^ 20) 0 = Tbl.getD (s.stack k).rowsUsed (row / 2 ^ 20) 0 + 1)) ∧
  (∀ (s : State) cl, (s.cluster cl).replace = true → s.clusterFree cl = true → s.ringFull (dieOfCluster cl) →
    let n := (s.die (dieOfCluster cl)).power.spares.toNat % 4
    ∃ u, exec (.clusterSubstitute cl) s = .next u ∧ u.dram = s.dram ∧
      if 0 < n then u.cluster cl = Cluster.reset (26 - n) ∧ cl ∈ u.reserveUsed ∧
        (u.die (dieOfCluster cl)).power.spares = (s.die (dieOfCluster cl)).power.spares - 1
      else cl ∈ u.removed ∧ (u.cluster cl).replace = false) ∧
  (∀ (s : State) die unit kind remain at_,
    let p := (s.die die).power
    let slot := p.capring.toNat % 2 ^ 52 + 32 * (p.captail.toNat % s.ringSlots die)
    ¬ s.ringFull die → DevIa slot 32 → (s.l2Fetch slot 0 0).isOk = true →
    let u := s.capacity die unit kind remain at_
    u.HoldsAt slot (leBytes 8 (kind + unit * 2 ^ 4 + min remain 15 * 2 ^ 12) ++ leBytes 8 0 ++ leBytes 8 at_ ++ leBytes 8 s.clk) ∧
      (u.die die).power.captail = p.captail + 1 ∧ s.raises u 16) ∧
  (∀ (s s1 : State) part dom r d0 d1 d2 d3,
    let fq := (s.part part).fqtab.toNat % 2 ^ 52
    let slots := 2 ^ (d0 / 2 ^ 52 % 16)
    let slot := d0 % 2 ^ 52 + 64 * (d2 % 2 ^ 32 % slots)
    let u := s.report part dom r
    fq ≠ 0 → DevIa (fq + 32 * dom) 32 → s.doubles (fq + 32 * dom) 4 = .ok (s1, [d0, d1, d2, d3]) → d2 < 2 ^ 64 →
    ((d2 % 2 ^ 32 + 2 ^ 32 - d2 / 2 ^ 32) % 2 ^ 32 = slots → (s1.l2Fetch (fq + 32 * dom + 24) 0 0).isOk = true →
      u.HoldsAt (fq + 32 * dom + 24) (leBytes 4 (d3 % 2 ^ 32 + 1)) ∧ s1.raises u part) ∧
    ((d2 % 2 ^ 32 + 2 ^ 32 - d2 / 2 ^ 32) % 2 ^ 32 ≠ slots → DevIa slot 64 → slot / 64 ≠ (fq + 32 * dom) / 64 →
      ∀ s2, s1.homeWrite 0 slot (r.bytes part dom s.clk) = .ok s2 → s2.l2Has (fq + 32 * dom + 16) = true →
      u.HoldsAt slot (r.bytes part dom s.clk) ∧ u.HoldsAt (fq + 32 * dom + 16) (leBytes 4 (d2 % 2 ^ 32 + 1)) ∧ s1.raises u part)) ∧
  (∀ (s : State) asid va ia pol data, s.translate asid va .write = .ok (ia, pol) → iaOk ia = true → DevIa ia 64 → data.length = 64 →
    (s.l2Fetch ia 0 0).isOk = true → (s.vaPut asid va data).HoldsAt ia data) ∧
  (∀ (l : Launch) done refused fclk cause, l.nfatal < 2 ^ 32 → (l.status done refused fclk cause).length = 64 ∧
    let d := (frameDoubles (l.status done refused fclk cause)).getD 0 0
    (d % 2 = 1 ↔ done = true) ∧ (d / 2 % 2 = 1 ↔ 0 < l.nfatal) ∧ (d / 4 % 2 = 1 ↔ l.lanef.isSome = true) ∧ (d / 8 % 2 = 1 ↔ refused = true) ∧
      (d / 16 % 2 = 1 ↔ l.killed = true) ∧ d / 2 ^ 32 = l.nfatal) ∧
  (∀ r part dom clk, (Report.bytes r part dom clk).length = 64 ∧
    (r.cause < 2 ^ 8 → r.cls < 4 → part < 8 → dom < 2 ^ 8 → r.asid < 2 ^ 12 → r.core < 2 ^ 10 →
      let d := (frameDoubles (r.bytes part dom clk)).getD 0 0
      d % 2 ^ 8 = r.cause ∧ d / 2 ^ 8 % 4 = r.cls ∧ d / 2 ^ 31 % 8 = part ∧ d / 2 ^ 34 % 2 ^ 8 = dom ∧ d / 2 ^ 42 % 2 ^ 12 = r.asid ∧
      d / 2 ^ 54 = r.core))

/-- R39, R40, R41, R43, R203, R216: a free issue stage begins a turn. Stated of a core with one thread, ready with packet `ws` and drawing on no
port: the turn issues that packet, for that thread, beginning with its first cycle. And of any main-die core whose packets are in its cache: no
two threads of a turn share a home lane, where those of a bound set do not, and each is a resident thread at the PC of its packet. -/
def Obligations.IssueEvents : Prop :=
  (∀ (s : State) core x ws, s.Coherent → isRhizoid core = false → (s.core core).turn = none → (s.core core).halted = false → s.tripped = false →
    s.fetchCore core = s → s.coreThreads core = [x] → x.hold = false → x.bound = none →
    (let y := (s.noteAttempts core).thr x.wg x.t
     (s.noteAttempts core).ready core y = some ws ∧ (s.noteAttempts core).needs x.wg x.t ws = []) →
    ∃ u tn m, exec (.issueTurn core) s = .next u ∧ u.turnOf core = some tn ∧
      tn = ⟨(s.core core).turns + 1, 0, [⟨x.pc, ws, (illegalAt ws).isSome, [m]⟩], [], [], []⟩ ∧ m.wg = x.wg ∧ m.t = x.t ∧ m.lane = x.lane ∧
      m.snap = x.v ∧ m.ps = x.p ||| 1#32 ∧ m.skip = x.skip ∧ u.agenda = tn.cycleActs core ++ s.agenda ∧ u.dram = s.dram) ∧
  (∀ (s : State) stack pos x ws, s.Coherent → (s.core (192 + 48 * stack + pos)).turn = none → s.tripped = false →
    s.fetchCore (192 + 48 * stack + pos) = s → s.coreThreads (192 + 48 * stack + pos) = [x] → x.hold = false → x.bound = none →
    (let z := s.noteAttempts (192 + 48 * stack + pos)
     z.ready (192 + 48 * stack + pos) (z.thr x.wg x.t) = some ws ∧ z.needs x.wg x.t ws = []) →
    ∃ u tn m, exec (.rhizoidIssue stack pos) s = .next u ∧ u.turnOf (192 + 48 * stack + pos) = some tn ∧
      tn = ⟨(s.core (192 + 48 * stack + pos)).turns + 1, 0, [⟨x.pc, ws, (illegalAt ws).isSome, [m]⟩], [], [], []⟩ ∧ m.wg = x.wg ∧ m.t = x.t ∧
      m.snap = x.v ∧ u.agenda = tn.cycleActs (192 + 48 * stack + pos) ++ s.agenda ∧ u.dram = s.dram) ∧
  (∀ (s u : State) core tn, s.Coherent → (s.core core).turn = none → s.fetchCore core = s →
    (∀ x ∈ s.coreThreads core, ∀ y ∈ s.coreThreads core, x.bound ≠ none → x.bound = y.bound → x.lane = y.lane → x = y) →
    exec (.issueTurn core) s = .next u → u.turnOf core = some tn →
    ((tn.pkts.flatMap (fun p => p.members)).map Member.lane).Nodup ∧
    ∀ p ∈ tn.pkts, ∀ m ∈ p.members, (Tbl.get? u.threads m.key).isSome = true ∧ (s.thr m.wg m.t).pc = p.pc ∧ m.lane = (s.thr m.wg m.t).lane)

/-- R52, R53, R76, R108, R110, R167, R170, R174, R341: a formed copy request enters the queue it names and its promise is written; a matrix engine's
only eligible entry wins and asks leave; a pass adds each row's products to each element of the tile, from zero where the request starts afresh;
a free tile goes to the first request of its queue; the sampled mode goes from its norms to its table to its samples. The promise is a free
value (log entry 7), and the sampled mode runs as log entry 57 has it: these are the model's choices. -/
def Obligations.MatrixEvents : Prop :=
  (∀ (s : State) r t d, s.formed = [r.id] → s.req r.id = some r → r.formed < s.clk → r.op = .cpbox → s.qfences = [] → r.signers = [(t, d)] → r.q < (s.cluster (clusterOf r.core)).copyQ.length → (Tbl.get? s.threads (tkey r.wg t)).isSome = true →
    Tbl.get? (s.thr r.wg t).busy d = some none → Tbl.get? (s.thr r.wg t).busy (d + 1) = some none → (s.thr r.wg t).covered = [] →
    (s.thr r.wg t).mops = [] → ∃ u, exec .engineRequestPass s = .next u ∧ u.formed = [] ∧
      (u.cluster (clusterOf r.core)).copyQ.getD r.q [] = (s.cluster (clusterOf r.core)).copyQ.getD r.q [] ++ [.req r.id] ∧
      Tbl.getD (u.thr r.wg t).v d 0#32 = dlo (Config.promise s.draws) ∧ Tbl.getD (u.thr r.wg t).v (d + 1) 0#32 = dhi (Config.promise s.draws) ∧
      Tbl.get? (u.thr r.wg t).busy d = some (some s.clk)) ∧
  (∀ (s : State) cl e, (s.cluster cl).winner = none → (s.cluster cl).granted = none → (s.cluster cl).table.filter (s.eligible cl) = [e] →
    ∃ u, exec (.matrixSelect cl) s = .next u ∧ (u.cluster cl).winner = some e.req ∧ (u.cluster cl).table = (s.cluster cl).table ∧
      .event (.leaveRequest (dieOfCluster cl) 0 e.req) ∈ u.agenda) ∧
  (∀ (s : State) cl r, (s.cluster cl).granted = some r.id → s.req r.id = some r → r.op = .mxs → r.q < (s.cluster cl).tiles.length →
    let w := fun i => (r.regs.getD i 0#32).toNat
    let g := s.wgrp r.wg
    let l := 384 * (w 2 % 256 + 1)
    let bits := fun (a f m : Nat) => partVals (s.mxBook g a f) f ((s.rowPart g a m l r.pos).map Prod.fst)
    w 2 / 2 ^ 27 % 2 = 0 → w 2 / 2 ^ 29 % 2 = 0 → r.pos + 1 < w 2 % 256 + 1 →
    ∃ u r', exec (.matrixPass cl) s = .next u ∧ (u.cluster cl).granted = none ∧ u.req r.id = some r' ∧ r'.pos = r.pos + 1 ∧
      ∀ i j, i < 64 → j < 64 → Tbl.getD (u.tile cl r.q).acc (64 * i + j) 0#32 =
        Num.passElem (if r.pos = 0 ∧ w 2 / 2 ^ 28 % 2 = 0 then .fin false 0 0 else Num.decode Num.f32 (Tbl.getD (s.tile cl r.q).acc (64 * i + j) 0#32).toNat)
          ((bits (w 0) (w 2 / 2 ^ 8 % 256) i).zipWith Machine.Num.mul (bits (w 1) (w 2 / 2 ^ 16 % 256) j))) ∧
  (∀ (s : State) cl q r, (s.tile cl q).claim = none → s.parts = [] → (s.tile cl q).queue.head? = some (.req r.id) → s.req r.id = some r →
    q < (s.cluster cl).tiles.length → ∃ u, exec (.tileClaimPass cl q) s = .next u ∧ u.tile cl q = { s.tile cl q with claim := some r.gang }) ∧
  (∀ (s : State) cl r s2 rows bad, (s.cluster cl).granted = some r.id → s.req r.id = some r → r.op = .smx → r.phase = 0 →
    (let s1 := s.modCluster cl (fun x => { x with granted := none, smx := some r.id })
     s1.kRows r ((rangeFrom (192 * r.pos) 192).filter (fun k => decide (k < r.smxK))) = .ok (s2, rows, bad)) →
    (Tbl.get? s2.reqs r.id).isSome = true →
    ∃ u r', exec (.smxNormPass cl) s = .next u ∧ u.req r.id = some r' ∧
      (u.cluster cl).norm = rows.foldl (fun m e => Tbl.set m 0#32 e.1 (normOf e.2.1 e.2.2)) (s2.cluster cl).norm ∧
      if r.smxK ≤ 192 * r.pos + 192 then r'.phase = 1 ∧ .event (.aliasBuild cl) ∈ u.agenda else r'.phase = 0) ∧
  (∀ (s : State) cl r sum, (s.cluster cl).smx = some r.id → s.req r.id = some r → r.phase = 1 →
    sum = Num.d32 (Num.r32 (Num.sum ((List.range r.smxK).map (fun i => Num.d32 (Tbl.getD (s.cluster cl).norm i 0#32))))) →
    sum.isZero = false → sum.isNan = false → sum.isInf = false → ∃ u r', exec (.aliasBuild cl) s = .next u ∧ u.req r.id = some r' ∧
      r'.phase = 2 ∧ r'.pos = 0 ∧ r'.vals = [sum] ∧ ((u.cluster cl).prob, (u.cluster cl).aliasTo) = aliasTable (s.cluster cl).norm r.smxK sum) ∧
  (∀ (s : State) cl r s2 rows p, (s.cluster cl).granted = some r.id → s.req r.id = some r → r.op = .smx → r.phase = 2 →
    (let s1 := s.modCluster cl (fun x => { x with granted := none })
     let js := (rangeFrom (192 * r.pos) 192).map (drawIndex (s1.cluster cl) r.smxSeed r.q r.smxK)
     s1.kRows r js.eraseDups = .ok (s2, rows, p)) →
    (∀ t v, stops t (r.pos + 1) r.smxMax r.smxTau v = false) → (Tbl.get? s2.reqs r.id).isSome = true →
    ∃ u r', exec (.smxSamplePass cl) s = .next u ∧ u.req r.id = some r' ∧ r'.pos = r.pos + 1 ∧ u.dram = s2.dram ∧
      (r.q < (s2.cluster cl).tiles.length → (u.tile cl r.q).var = tileVar (u.tile cl r.q) (r.pos + 1)))

/-- R24, R71, R72, R73, R74, R76, R477, R478: a leave request enters its die's queue with its cost; the head is granted where it fits in what the
window has left or the window is fresh, and waits where not; a window starts with the allowance that R71 gives, and bank counts take effect; a die
whose TEMP has stood at or above TTRIP for 10 us trips the device. What the sensor reads is a free value (log entry 15), and TEMP is compared where it
or TTRIP changes (log entry 41): these are the model's choices. -/
def Obligations.PowerEvents : Prop :=
  (∀ (s : State) die asker id e, s.leaveOf die asker id = some e → ∃ u, exec (.leaveRequest die asker id) s = .next u ∧
    (u.die die).power.fifo = enterFifo e (s.die die).power.fifo ∧ e ∈ (u.die die).power.fifo ∧ u.dram = s.dram) ∧
  (∀ (s : State) e r, (s.die 0).power.fifo = [e] → (s.die 1).power.fifo = [] → e.kind = 1 → s.req e.id = some r →
    let p := (s.die 0).power
    ((e.cost : Int) ≤ p.remaining ∨ p.fresh = true → ∃ u r', exec .leaveGrant s = .next u ∧ u.req e.id = some r' ∧ r'.leave = 2 ∧
      (u.die 0).power.fifo = [] ∧ (u.die 0).power.remaining = p.remaining - e.cost ∧ (u.die 0).power.fresh = false ∧
      (e.core ≠ 576 → (u.core e.core).leaveWait = (s.core e.core).leaveWait + (s.clk - e.entered))) ∧
    (p.remaining < (e.cost : Int) → p.fresh = false → exec .leaveGrant s = .next s)) ∧
  (∀ s : State, (∀ d, d < 2 → (s.die d).power.staged = []) → ∃ u, exec .powerWindowStart s = .next u ∧ u.dram = s.dram ∧
    (∀ k, Tbl.get? u.stackTbl k = (Tbl.get? s.stackTbl k).map (fun x => { x with banksNow := x.nmbanks.toNat })) ∧
    ∀ d, d < 2 →
      let p := (s.die d).power
      let q := (u.die d).power
      q.fresh = true ∧ q.debt = (-p.remaining).toNat ∧ q.temp = Config.sensorTemp d (s.clk / Config.windowCc) &&& 0xFFFF#32 ∧
      q.tf = thermalFactor q.temp.toNat p.tfth.toNat ∧ q.lowHeadroom = !p.fifo.isEmpty ∧
      q.hotSince = (if p.ttrip.toNat ≤ q.temp.toNat then some (p.hotSince.getD s.clk) else none) ∧
      q.fifo.map Leave.id = p.fifo.map Leave.id ∧ ((∀ k, (s.stack k).banksNow = (s.stack k).nmbanks.toNat) → q.fifo = p.fifo) ∧
      q.remaining = ((p.pshare.toNat : Int) - p.pbase.toNat) * (64000 * q.tf) - q.debt) ∧
  (∀ s : State, ((∀ d c, d < 2 → (s.die d).power.hotSince = some c → s.clk < c + 18000) → exec .thermalTrip s = .next s) ∧
    ∀ d c, d < 2 → (s.die d).power.hotSince = some c → c + 18000 ≤ s.clk → ∃ u, exec .thermalTrip s = .next u ∧ u.tripped = true ∧ u.cxlUp = false ∧
      (∀ p ∈ u.ports, p.up = false) ∧ (∀ e, e < 2 → (u.die e).power.bootst = 8) ∧ u.dram = s.dram ∧ u.threads = s.threads)

/-- R158, R159, R187 to R195, R313, R323, R328, R444, R445: copies and splices. A linear copy that may begin begins, and asks leave where it
moves more than 65,536 bytes; one of no bytes and a splice with a bad descriptor end with cause 0x51. A chunk of a linear copy reads the
whole source before it writes and writes 4,096 bytes; a chunk of a box copy writes its units. A plan gives every choice its expert, its
position among the choices of that expert in plan order, or its drop; a scatter copies the row of the next placed choice; a combine writes
the rounded sum of a token's rows. A request that is complete leaves its queue. That the first chunk reads the whole source (log entry 54), and that
one event does one choice or one row (log entry 56), are the model's choices. -/
def Obligations.CopySpliceEvents : Prop :=
  (∀ (s : State) cl q r, s.settleFences ⟨0, cl, q⟩ 16 = s → s.headReq ⟨0, cl, q⟩ = some r → s.req r.id = some r → s.mayBegin r = true →
    r.op = .cplin →
    (r.w 4 = 0 → exec (.copyBegin cl q) s = .next (s.engineFault r 0x51 4)) ∧
    (r.w 4 ≠ 0 → nbits r.ctl 26 24 ≤ 5 → nbits r.ctl 23 0 = 0 → nbits r.ctl 31 27 = 0 → r.counter.va = 0 →
      ∃ u r', exec (.copyBegin cl q) s = .next u ∧ u.req r.id = some r' ∧ r'.begun = true ∧ u.dram = s.dram ∧
        (r'.leave = if 65536 < r.w 4 then 1 else 0) ∧
        (65536 < r.w 4 → .event (.leaveRequest (dieOf r.core) 1 r.id) ∈ u.agenda))) ∧
  (∀ (s : State) cl q r, s.headReq ⟨0, cl, q⟩ = some r → r.running = true → r.phase = 0 →
    (r.op = .cplin → r.pos = 0 → ∀ s1 d s2, s.reqRead r (r.pair 0) (r.w 4) = .ok (s1, d) → s1.reqWrite r (r.pair 2) (d.take 4096) = (s2, none) →
      (Tbl.get? s2.reqs r.id).isSome = true → ∃ u r', exec (.copyChunk cl q) s = .next u ∧ u.dram = s2.dram ∧ u.req r.id = some r' ∧
        r'.pos = 4096 ∧ r'.phase = if r.w 4 ≤ 4096 then 1 else 0) ∧
    (r.op = .cpbox → ∀ us n s1 xs s2, r.chunkUnits r.pos 8192 (r.allUnits - r.pos) = (us, n) → eachE (fun t x => t.makeUnit r x) us s = .ok (s1, xs) →
      s1.putUnits r xs = (s2, none) → (Tbl.get? s2.reqs r.id).isSome = true →
      ∃ u r', exec (.copyChunk cl q) s = .next u ∧ u.dram = s2.dram ∧ u.cores = s2.cores ∧ u.req r.id = some r' ∧ r'.pos = n ∧
        r'.phase = if r.allUnits ≤ n then 1 else 0)) ∧
  (∀ (s : State) cl q r, s.headReq ⟨0, cl, q⟩ = some r → s.req r.id = some r → r.running = true → r.phase = 1 → s.portsFree r = true →
    r.counter.va = 0 → ∃ u, exec (.copyComplete cl q) s = .next u ∧ u.req r.id = none ∧ u.dram = s.dram) ∧
  (∀ (s : State) die q op r i, i = (match op with
      | .rtplan => Instr.splicePlanRun die q
      | .rtscat => .spliceScatterRow die q
      | _ => .spliceCombineRow die q) → (op = .rtplan ∨ op = .rtscat ∨ op = .rtcomb) → s.settleFences ⟨1, die, q⟩ 16 = s →
    s.spliceHead die q op = some r → s.mayBegin r = true → ∀ x, offenceInfo r.spliceOffences = some x →
    exec i s = .next (s.engineFault r 0x51 x)) ∧
  (∀ r : EReq,
    let n := r.ntok * r.topk
    let a := r.planAt n
    (∀ e, e ≠ 0xFFFF → Tbl.getD a.req e 0 = ((List.range n).filter (fun p => r.choice (r.planPlace p) % 65536 == e)).length) ∧
    (∀ p, p < n → ∃ x, a.inv[p]? = some (r.planPlace p, x) ∧
      (r.placeWrites p).head? = some (entryWrite (r.plan 3 56 0 + 8 * r.planPlace p) x) ∧
      let e := r.choice (r.planPlace p) % 65536
      let q := ((List.range p).filter (fun j => r.choice (r.planPlace j) % 65536 == e)).length
      if e = 0xFFFF then x = 0 else if q < r.capacity then x = inverseEntry false (r.emap e 2) e q else
        ∃ k v, x = inverseEntry true (r.emap e 2) e k ∧ v = e * 2 ^ 48 + p / r.ntok * 2 ^ 32 + p % r.ntok ∧ a.drops[k]? = some v ∧
          entryWrite (r.plan 4 56 0 + 8 * k) v ∈ r.placeWrites p) ∧
    (∀ e, e < r.nexp → entryWrite (r.plan 2 56 0 + 8 * e)
      (min (Tbl.getD a.req e 0) r.capacity * 2 ^ 32 + Tbl.getD a.req e 0) ∈ r.endWrites) ∧
    (r.pair 0 + 52, (leBytes 4 a.drops.length).map (fun b => (b, false))) ∈ r.endWrites) ∧
  (∀ (s : State) die q r s1, s.settleFences ⟨1, die, q⟩ 16 = s → s.spliceHead die q .rtplan = some r → r.running = true → r.phase = 0 →
    s.reqWrites r (if r.pos < r.ntok * r.topk then r.placeWrites r.pos else r.endWrites) = (s1, none) → (Tbl.get? s1.reqs r.id).isSome = true →
    ∃ u r', exec (.splicePlanRun die q) s = .next u ∧ u.dram = s1.dram ∧ u.req r.id = some r' ∧ r'.pos = r.pos + 1 ∧
      r'.phase = if r.ntok * r.topk ≤ r.pos then 1 else 0) ∧
  (∀ (s : State) die q r p, s.settleFences ⟨1, die, q⟩ 16 = s → s.spliceHead die q .rtscat = some r → r.running = true → r.phase = 0 →
    r.nextPlaced r.pos (r.ntok * r.topk - r.pos) = some p →
    (r.entryOk (r.planPlace p) = false → exec (.spliceScatterRow die q) s = .next (s.engineFault r 0x53 (2 ^ 61 + r.planPlace p))) ∧
    (r.entryOk (r.planPlace p) = true → ∀ s1 d s2, s.reqRead r (r.pair 2 + p % r.ntok * r.w 4) (r.w 4) = .ok (s1, d) →
      (let x := r.inverse (r.planPlace p)
       s1.reqWrite r (r.emap (nbits x 47 32) 0 + nbits x 31 0 * r.w 4) d = (s2, none)) → (Tbl.get? s2.reqs r.id).isSome = true →
      ∃ u r', exec (.spliceScatterRow die q) s = .next u ∧ u.dram = s2.dram ∧ u.req r.id = some r' ∧ r'.pos = p + 1 ∧
        r'.phase = if r.ntok * r.topk ≤ p + 1 then 1 else 0)) ∧
  (∀ (s : State) die q r is s1 rows s2, s.settleFences ⟨1, die, q⟩ 16 = s → s.spliceHead die q .rtcomb = some r → r.running = true → r.phase = 0 →
    is = ((List.range r.topk).map (fun k => r.pos * r.topk + k)).filter (fun i => isPlaced (r.inverse i)) →
    (∀ k, k < r.topk → r.entryOk (r.pos * r.topk + k) = true) →
    eachE (fun t i => t.outRow r i) is s = .ok (s1, rows) →
    (let f := nbits r.ctl 7 0
     let e := Num.elemBits f / 8
     s1.reqWrite r (r.pair 2 + r.pos * r.w 4 * e) (((List.range (r.w 4)).flatMap (fun j => leBytes e (combine (if f = 1 then Num.f32 else Num.bf16)
       (rows.map (fun x => Machine.Num.mul x.1 (x.2.1.getD j .nan)))))).map (fun b => (b, rows.any (fun x => x.2.2)))) = (s2, none)) →
    (Tbl.get? s2.reqs r.id).isSome = true → ∃ u r', exec (.spliceCombineRow die q) s = .next u ∧ u.dram = s2.dram ∧ u.req r.id = some r' ∧
      r'.pos = r.pos + 1 ∧ r'.phase = if r.ntok ≤ r.pos + 1 then 1 else 0) ∧
  (∀ (s : State) die q r, s.headReq ⟨1, die, q⟩ = some r → s.req r.id = some r → r.running = true → r.phase = 1 → s.portsFree r = true →
    r.counter.va = 0 → ∃ u, exec (.spliceComplete die q) s = .next u ∧ u.req r.id = none ∧ u.dram = s.dram)

/-- R131, R135, R197, R198, R201 to R203, R207, R209 to R213, R437, R440: near memory. A call that fits becomes a block with its frame zeroed behind the
message, in the lowest free rows (log entry 58); a block that is idle is gone, with its frame. The bank commands, in the order of their arrival (log
entry 59): MAC, BCST, RDAC and LMAC; a wave of an all-bank command; a kick (one that is malformed, or whose block cannot be read, starts nothing,
log entry 60), a row and the end of a microcode kernel; and the invalidates of a stack's translator and of the instruction caches. These entries
are the model's choice. -/
def Obligations.NearMemoryEvents : Prop :=
  (∀ (s : State) k c l r b, (s.stack k).calls = c :: l → s.req c.req = some r → s.tripped = false → callStack c.record = k →
    s.descPoisoned c.record = false → s.callCheck r.asid c.record = true → (∀ x ∈ c.record, x < 2 ^ 64) →
    let d := s.callDesc c.record
    s.frameRoom k (descFrame d) = some b → (∀ p, p < 48 → (s.rhizoidRoom k p (callThreads c.record) (descRegs d)).isSome = true) →
    ∃ u, exec (.callDispatch k) s = .next u ∧ (u.wgrp s.nextId).stack = some k ∧ (u.wgrp s.nextId).t = callThreads c.record ∧
      (u.wgrp s.nextId).n = descRegs d ∧ (u.wgrp s.nextId).asid = r.asid ∧ (u.wgrp s.nextId).frameBase = b ∧
      (∀ t, t < callThreads c.record → (u.thr s.nextId t).pc = descPc d ∧ (u.thr s.nextId t).v = [] ∧ (u.thr s.nextId t).wait = .ready ∧
        (u.thr s.nextId t).lane = t % 16) ∧
      (∀ j, j < descFrame d → Tbl.getD u.dram (dkey k b + j) 0#8 =
        if j < 16 * callMsg16 c.record then BitVec.ofNat 8 (c.record.getD (24 + j / 8) 0 / 2 ^ (8 * (j % 8))) else 0#8) ∧
      (∀ a, (a < dkey k b ∨ dkey k b + descFrame d ≤ a) → Tbl.getD u.dram a 0#8 = Tbl.getD s.dram a 0#8)) ∧
  (∀ (s : State) wg g k, Tbl.get? s.wgs wg = some g → g.id = wg → g.stack = some k → g.retired = false → s.blockIdle g k = true → g.ended = none →
    callField g.call 6 56 0 = 0 → s.blockAdd wg = false → s.callLines g.asid g.call k 4 = [] → ∃ u, exec (.blockComplete wg) s = .next u ∧ Tbl.get? u.wgs wg = none ∧ u.req g.req = none ∧ u.dram = s.dram ∧
      (∀ f ∈ (u.stack k).frames, f.2.2 ≠ wg) ∧ ∀ x ∈ u.threads, x.2.wg ≠ wg) ∧
  (∀ (s : State) k b r, Tbl.getD (s.stack k).seqQ b.pch [] = b :: r → b.pch < 192 → s.cmdHeld b = false → (s.stack k).waveBefore b.pch b.arr = false →
    s.tripped = false → s.cmdPoison k b = false → ∃ u, exec (.bankCommandExecute k b.pch) s = .next u ∧ u.dram = s.dram ∧
      Tbl.getD (u.stack k).seqQ b.pch [] = r ∧
      (b.opc = 1 → ∀ i, i < 16 → Tbl.getD (u.stack k).acc (accKey b.pch b.bg b.bank + i) 0#32 = s.macSum k b b.pch b.bg b.bank i) ∧
      (b.opc = 2 → ∀ i, i < 16 → Tbl.getD (u.stack k).bcast (16 * b.pch + i) 0#32 =
        Tbl.getD b.bcast i (Tbl.getD (s.stack k).bcast (16 * b.pch + i) 0#32)) ∧
      (b.opc = 3 → ∀ l t d, b.dests = [(l, t, d)] → l < 16 → (Tbl.get? s.threads (tkey b.wg t)).isSome = true →
        Tbl.get? (s.thr b.wg t).busy d = some none → ¬ d ∈ (s.thr b.wg t).covered → (∀ e ∈ (s.thr b.wg t).mops, e.writes d = false) →
        Tbl.getD (u.thr b.wg t).v d 0#32 = (if b.bf then Tbl.getD (s.stack k).lut (lutKey b.pch b.bg + l) 0#32
          else Tbl.getD (s.stack k).acc (accKey b.pch b.bg b.bank + l) 0#32)) ∧
      (b.opc = 3 → b.clr = true → ∀ i, i < 16 → if b.bf then Tbl.getD (u.stack k).lut (lutKey b.pch b.bg + i) 0#32 = 0#32
        else Tbl.getD (u.stack k).acc (accKey b.pch b.bg b.bank + i) 0#32 = 0#32) ∧
      (b.opc = 4 → ∀ j, j < 16 → Tbl.getD (u.stack k).lut (lutKey b.pch b.bg + j) 0#32 = s.lutSum k b j)) ∧
  (∀ (s : State) k b r, let lo := (s.stack k).allWave
    let n := (s.stack k).waveSize
    (s.stack k).allQ = b :: r → (s.stack k).leaveGiven = true → s.tripped = false → s.cmdHeld b = false →
    (∀ p ∈ rangeFrom (lo / 16) (n / 16), ∀ c ∈ Tbl.getD (s.stack k).seqQ p [], b.arr ≤ c.arr) → s.wavePoison k lo n b = false →
    ∃ u, exec (.allbankWave k) s = .next u ∧ u.dram = s.dram ∧ (u.stack k).leaveGiven = false ∧
      (if 3072 ≤ lo + n then (u.stack k).allWave = 0 ∧ (u.stack k).allQ = r else (u.stack k).allWave = lo + n ∧ (u.stack k).allQ = b :: r) ∧
      (b.opc = 1 → ∀ j, lo ≤ j → j < lo + n → ∀ i, i < 16 →
        Tbl.getD (u.stack k).acc (accKey (j / 16) (j % 4) (j / 4 % 4) + i) 0#32 = s.macSum k b (j / 16) (j % 4) (j / 4 % 4) i) ∧
      (b.opc = 2 → ∀ p ∈ rangeFrom (lo / 16) (n / 16), ∀ i, i < 16 →
        Tbl.getD (u.stack k).bcast (16 * p + i) 0#32 = Tbl.getD b.bcast i (Tbl.getD (s.stack k).bcast (16 * p + i) 0#32))) ∧
  (∀ i kern k ia, kicks i = some (kern, k, ia) → (∀ (s s1 : State) d, s.doubles ia 8 = .ok (s1, d) →
      (((kernelOf d).kern = kern ∧ (kernelOf d).ok d = true) → ∃ u, exec i s = .next u ∧ u.dram = s1.dram ∧
        (u.stack k).kernels = (s1.stack k).kernels ++ [kernelOf d]) ∧
      (¬ ((kernelOf d).kern = kern ∧ (kernelOf d).ok d = true) → exec i s = .next s1)) ∧
    ∀ (s : State) e, s.doubles ia 8 = .error e → exec i s = .next s) ∧
  (∀ (s : State) k x r, (s.stack k).kernels = x :: r → x.done < x.len → s.tripped = false → ∃ u, exec (.microcodeRowStep k) s = .next u ∧
    (u.stack k).kernels = { x with done := x.done + 2048 } :: r ∧
    (x.kern = 1 → u.dram = s.dram) ∧
    (x.kern = 2 → ∀ j, j < 2048 → Tbl.getD u.dram (dkey k (x.dst + x.done) + j) 0#8 = Tbl.getD s.dram (dkey k (x.src + x.done) + j) 0#8) ∧
    (x.kern = 3 → ∀ j, j < 2048 → Tbl.getD u.dram (dkey k (x.dst + x.done) + j) 0#8 = 0#8) ∧
    (∀ a, (a < dkey k (x.dst + x.done) ∨ dkey k (x.dst + x.done) + 2048 ≤ a) → Tbl.getD u.dram a 0#8 = Tbl.getD s.dram a 0#8)) ∧
  (∀ (s : State) k x r, (s.stack k).kernels = x :: r → x.len ≤ x.done → x.cnt = 0 → ∃ u, exec (.microcodeKernelEnd k) s = .next u ∧
    u = s.modStack k (fun t => { t with kernels := r }) ∧ (u.stack k).kernels = r) ∧
  (∀ (s : State) who k,
    (s.bankBefore k s.seq none = true → ∃ u, exec (.stinv who k) s = .next u ∧ (u.stack k).tlb = [] ∧ (u.stack k).inv = some s.seq ∧ u.dram = s.dram ∧
      u.threads = s.threads) ∧
    (s.bankBefore k s.seq none = false → s.noneLogged k → (∀ x ∈ s.heldBacks, iaStack x.ia ≠ k) → Tbl.getD (s.stack k).seqQ heldKey [] = [] →
      ∃ u, exec (.stinv who k) s = .next u ∧ (u.stack k).tlb = [] ∧ (u.stack k).inv = none ∧ u.dram = s.dram ∧ u.threads = s.threads ∧
        ∀ p ∈ u.reqs, p.2.waiting ≠ some k)) ∧
  (∀ (s : State) who, ∃ u, exec (.icinv who) s = .next u ∧ { u with cores := s.cores } = s ∧
    ∀ c, u.core c = if (match who with | .host => true | .part p => (s.part p).cores.contains c) = true then { s.core c with l1i := [] } else s.core c) ∧
  (∀ (s : State) who k, ∃ u, exec (.nmcinv who k) s = .next u ∧ { u with cores := s.cores } = s ∧
    ∀ c, u.core c = if 192 ≤ c ∧ (c - 192) / 48 = k then { s.core c with l1i := [] } else s.core c)

/-- R33 to R38, R60, R61, R63, R64, R66, R67, R69, R70, R83, R84, R87, R406, R408, R427: the dispatcher, retirement, completion, periods and slices,
residence, eviction, RELOAD and KILL. Stated of one leaf or one partition at work, where another could act in the same event. The time that a swap
takes (log entry 44), the page that leaves (46) and what a kill discards (63) are the model's choices. -/
def Obligations.SchedulingEvents : Prop :=
  (∀ (s t : State) p r l c rows b, s.tripped = false → s.residents = [p] → (s.part p).cores = [c] → c < 192 → c / 96 = s.clk / 4 % 2 →
    s.heads p = (t, [(r, l)]) → (t.part p).leaves = [r] → 0 < (t.leafHdr r.queue).deficit → l.csize = 1 → t.fitsOn c l = some (c, rows, b) →
    (t.die (dieOf c)).power.lowHeadroom = false → t.launches = [] → ∃ u, exec .dispatchStep s = .next u ∧
      (u.die (s.clk / 4 % 2)).lastCore = some c ∧ (Tbl.get? u.launches t.nextId).isSome = true ∧
      (let g := u.wgrp (t.nextId + 1)
       g.core = c ∧ g.stack = none ∧ g.rows = rows ∧ g.scrBase = b ∧ g.scrUnits = l.scrUnits ∧ g.t = l.threads ∧ g.w = l.width ∧ g.n = l.nregs ∧
       g.asid = l.asid ∧ g.launch = t.nextId ∧ g.part = l.part ∧ g.args = l.field 3 56 0 ∧
       g.wgnum = ((t.modPart p (fun x => { x with ptr := Tbl.put x.ptr r.prio 0 })).leafHdr l.queue).nextwg) ∧
      ∀ k, k < l.threads → (u.thr (t.nextId + 1) k).pc = l.entry ∧ (u.thr (t.nextId + 1) k).v = [] ∧ (u.thr (t.nextId + 1) k).p = 1#32 ∧
        (u.thr (t.nextId + 1) k).lane = k % 64 ∧ (u.thr (t.nextId + 1) k).wait = .ready) ∧
  (∀ (s s1 : State) g r ia, (s.part g.part).tree.find? (fun x => x.ia == g.leaf) = some r → r.path = [ia] → DevIa ia 64 → DevIa r.queue 32 →
    r.queue / 64 ≠ ia / 64 → s.homeWrite 0 (ia + 56) (leBytes 6 ((s.peek (ia + 56) 1).getD 0 0 + g.charge)) = .ok s1 →
    s1.l2Has (r.queue + 16) = true → (s.chargeLeaf g).HoldsAt (ia + 56) (leBytes 6 ((s.peek (ia + 56) 1).getD 0 0 + g.charge))) ∧
  (∀ (s : State) w g l, s.wgs = [(w, g)] → g.id = w → g.stack = none → g.csize ≤ 1 → s.retirable w = true →
    (∀ p ∈ s.braids, p.2.wg = w → p.2.fmask = 0#64 ∧ p.2.storeQ = []) → (∀ p ∈ s.threads, p.2.wg = w → p.2.mops = []) → s.reqs = [] →
    Tbl.get? s.launches g.launch = some l → l.id = g.launch →
    let s1 := s.chargeLeaf g
    let x := (s1.modWg w (fun y => { y with retired := true })).retireRel g
    ∃ u, exec (.workgroupRetire w) s = .next u ∧ u.dram = s1.dram ∧ u.wgs = [] ∧ (∀ x ∈ u.threads, x.2.wg ≠ w) ∧
      Tbl.get? u.launches g.launch = some { l with retired := l.retired + 1, rels := l.rels ++ x.2 } ∧
      (∀ r ∈ x.2, r.1 = g.core ∧ ∃ y ∈ (u.core g.core).rels, y.id = r.2 ∧ y.wg = w) ∧
      (l.allOut = true → l.total ≤ l.retired + 1 → .event .launchComplete ∈ u.agenda) ∧
      ∀ cl t, t < 8 → (s.tile cl t).claim = some [w] → (u.tile cl t).claim = none) ∧
  (∀ (s : State) l, Tbl.vals s.launches = [l] → l.done = true → l.killed = false → l.cntVa = 0 → l.firstFatal = none →
    (∀ p ∈ s.parts, p.2.graphs = []) →
    let told := l.told = true ∨ l.statusVa = 0
    (s.launchHeld l = false → told → exec .launchComplete s = .next { s with launches := Tbl.del s.launches l.id }) ∧
    (s.launchHeld l = true → told → exec .launchComplete s = .next { s with launches := Tbl.put s.launches l.id { l with told := true } }) ∧
    (¬ told → let u := State.vaPut { s with launches := (if s.launchHeld l then Tbl.put s.launches l.id { l with told := true } else
        Tbl.del s.launches l.id) } l.asid l.statusVa (l.status true false 0 none)
      exec .launchComplete s = .next u ∧ Tbl.get? u.launches l.id = if s.launchHeld l then some { l with told := true } else none)) ∧
  (∀ (s : State) p ia, p < 8 → (∀ q, q < 8 → q ≠ p → (s.part q).bperiod = 0#32) → (s.part p).bperiod ≠ 0#32 →
    s.clk % ((s.part p).bperiod.toNat * Config.ccPerUs) = 0 → ((s.readTree p).nodes ++ (s.part p).tree.map Rcb.ia).eraseDups = [ia] →
    DevIa ia 64 → (s.l2Fetch (ia + 56) 0 0).isOk = true → ∃ u, exec .budgetPeriod s = .next u ∧ u.HoldsAt (ia + 56) (List.replicate 6 0#8)) ∧
  (∀ (s : State) p, p < 8 → (∀ q, q < 8 → q ≠ p → (s.part q).resident = false) → (s.part p).resident = true → (s.part p).halting = false →
    (s.part p).swapAt = none → (s.part p).tslice ≠ 0#32 → (s.part p).sliceEnd ≤ s.clk → ∃ u, exec .timeSliceEnd s = .next u ∧
      u.threads = s.threads ∧ u.dram = s.dram ∧
      (if s.waiting.any (fun q => s.shareCore p q && s.partPrio q == s.partPrio p && !s.outranked q) = true then
        (u.part p).halting = true ∧ ∀ c ∈ (s.part p).cores, (u.core c).halted = true
      else (u.part p).halting = false ∧ (u.part p).sliceEnd = s.clk + (s.part p).tslice.toNat * Config.ccPerUs)) ∧
  (∀ (s : State) p, p < 8 → (∀ q, q < 8 → q ≠ p → (s.part q).resident = false) → (s.part p).resident = true → (s.part p).swapAt = none →
    ((if (s.part p).halting then s.quiet p && !s.hasContext p else !s.hasWork p) = true → s.saveArea p = 0 → (s.leaveCores p).waiting = [] → ∃ u, exec .partitionSwap s = .next u ∧
      (u.part p).resident = false ∧ (∀ c ∈ (s.part p).cores, (u.core c).halted = false) ∧ u.threads = s.threads ∧ u.dram = s.dram) ∧
    ((s.part p).halting = true → s.quiet p = true → s.hasContext p = true → (s.saveContext p).waiting = [] → ∃ u, exec .partitionSwap s = .next u ∧
      (u.part p).saved = true ∧ (u.part p).resident = true ∧ (u.part p).swapAt = some (s.clk + (u.part p).shadow.swapCc) ∧
      (∀ w g, Tbl.get? s.wgs w = some g → g.part = p → g.stack = none → g.retired = false → Tbl.get? u.wgs w = some { g with swapped := true }) ∧
      ∀ k x, Tbl.get? s.threads k = some x → Tbl.get? u.threads k = some x ∨
        Tbl.get? u.threads k = some { x with latch := [none, none, none, none] })) ∧
  (∀ (s : State) p, (∀ q, q < 8 → (s.part q).resident = false) → s.waiting = [p] → ∃ u, exec .partitionSwap s = .next u ∧
    (u.part p).resident = true ∧ (u.part p).halting = false ∧ (u.part p).sliceEnd = s.clk + (s.part p).tslice.toNat * Config.ccPerUs ∧
    (∀ q, q ≠ p → (u.part q).tookAt = (s.part q).tookAt) ∧ s.seq ≤ (u.part p).tookAt ∧
    (u.part p).swapAt = (if (s.part p).saved then some (s.clk + (s.part p).shadow.swapCc) else none) ∧
    (∀ c ∈ (s.part p).cores, (u.core c).l1i = []) ∧ u.threads = s.threads) ∧
  (∀ (s : State) p t, p < 8 → (∀ q, q < 8 → q ≠ p → (s.part q).swapAt = none) → (s.part p).swapAt = some t → t ≤ s.clk → (s.part p).resident = true →
    (s.part p).saved = true → (s.part p).halting = false → ∃ u, exec .contextRestore s = .next u ∧ (u.part p).saved = false ∧
      (u.part p).swapAt = none ∧ (u.part p).sliceEnd = s.clk + (s.part p).tslice.toNat * Config.ccPerUs ∧ u.threads = s.threads ∧ u.dram = s.dram ∧
      ∀ w, Tbl.get? u.wgs w = (Tbl.get? s.wgs w).map (fun g => if g.part = p then { g with swapped := false } else g)) ∧
  (∀ (s : State),
    ((∀ p, p < 8 → s.evictedHeads p = []) → exec .pageEvict s = .next s) ∧
    (∀ p l ps k page i, p < 8 → (∀ q, q < p → s.evictedHeads q = []) → s.evictedHeads p = [(l, ps)] → s.shortStack p ps = some k →
      s.victimPage p k ((s.launchRanges l).map (fun x => ⟨l.asid, x.1, x.2, 0, 0⟩)) = some page → s.poolFree p 0 (s.pool p).pages = some i →
      s.bankBefore k s.seq none = false → (s.stack k).inv = none →
      let ls := (s.leaves k).filter (fun x => nbit x.entry 0 && x.page == page)
      let off := (s.pool p).base + i * 2 ^ 21
      let u := match ((s.poolSet p i true).putLeaves k ls (fun x => moved page 0 1 x)).pageOut k page off 32 with
        | .ok s1 => ((s1.putLeaves k ls (fun x => moved (off / 2 ^ 21) 0 1 x)).putDouble ((s.pool p).list + 8 * (s.pool p).nfree)
            (k * 2 ^ 36 + page * 2 ^ 21)).putNfree p ((s.pool p).nfree + 1)
        | .error _ => s
      (∀ q, p < q → q < 8 → u.evictedHeads q = []) → exec .pageEvict s = .next u)) ∧
  (∀ (s : State) w p x e, s.wanted = [w] → s.poolOwner w.pool = some p → x ∈ s.leaves w.stack → nbit x.entry 0 = false → nbit x.entry 4 = true →
    x.page = w.pool → (s.freePages p).find? (fun f => f.2.1 == w.stack) = some e →
    exec .pageBringBack s = .next (s.bringPage p w.stack w.pool e)) ∧
  (∀ (s : State) who p,
    let s1 := if s.saveArea p = 0 then s else s.putBytes 0 (s.saveArea p + 512) (List.replicate 32 0#8)
    let s2 := s1.modPart p (fun x => { x with starved := [] })
    ∃ u, exec (.reload who p) s = .next u ∧ (u.part p).tree = (s2.readTree p).tree ∧ (u.part p).starved = [] ∧ u.threads = s.threads) ∧
  (∀ (s : State) who p a, (s.part p).tree ≠ [] → (∀ r ∈ (s.part p).tree, r.leaf = false) → (∀ l ∈ Tbl.vals s.launches, l.part ≠ p ∨ l.asid ≠ a) →
    (s.part p).killing = [] → (s.part p).killStores = [] → (∀ q ∈ s.reqs, q.1 = q.2.id) →
    (s.wgsOf p a = [] → ∃ u, exec (.kill who p a) s = .next u ∧ (u.part p).killing = [] ∧ u.threads = s.threads ∧ u.dram = s.dram ∧
      ∀ id r, s.req id = some r → r.part = p → r.asid = a → u.req id = none) ∧
    (∀ g, s.wgsOf p a = [g] → s.inTurn g.id = false → g.stack = none → ∃ u, exec (.kill who p a) s = .next u ∧
      ∀ x ∈ u.threads, x.2.wg ≠ g.id))

/-- R79 to R82, R371, R410, R450: task graphs: a node taken from a walker's FIFO begins to run, and a node that waits is tried again; what a LAUNCH,
a COPY, a WAIT, a SIGNAL (its add is that of an atomic at its home; one that waits for a page counts as made, log entry 92, the model's choice), a
COND, a WHILE and a JOIN node do; the successors of a node that is done enter the FIFO in order; a malformed node stops its graph; an armed entry
starts its graph with its first node (the partition is the one whose table names it, log entry 90, the model's choice); and a graph that is idle is
done, with its message. -/
def Obligations.GraphEvents : Prop :=
  (∀ s : State, s.tripped = false →
    exec .walkerNodeStep s = .next ((((s.fifoStep 0).copyStep 0).fifoStep 1).copyStep 1) ∧
    exec .launchNodeRetry s = .next ((List.range 2).foldl (fun t d => ((t.die d).waitNodes).foldl (fun t e =>
      match (t.part e.1).graph? e.2.1 with
      | some x => t.runNode e.1 x e.2.2
      | none => t) (t.modDie d (fun x => { x with waitNodes := [] }))) s)) ∧
  (∀ s : State, s.tripped = false → (∀ d, d < 2 → (s.die d).walkFifo = [] ∧ (s.die d).walkCopy = []) → exec .walkerNodeStep s = .next s) ∧
  (∀ (s : State) d p g j r, (s.die d).walkFifo = (p, g, j) :: r →
    s.fifoStep d = (s.modDie d (fun x => { x with walkFifo := r })).beginNode p g j) ∧
  (∀ (s : State) p g j x, (s.part p).graph? g = some x →
    s.beginNode p g j = if x.running.contains j then s.putRun p g j (s.runCount p g j) (s.runPending p g j + 1)
      else (s.modGraph p g (fun y => { y with running := y.running ++ [j] })).runNode p x j) ∧
  (∀ (s : State) p g j x, s.tripped = false → (s.die 0).waitNodes = [(p, g, j)] → (s.part p).graph? g = some x →
    let u := (s.modDie 0 (fun d => { d with waitNodes := [] })).runNode p x j
    (u.die 1).waitNodes = [] → ∃ v, exec .launchNodeRetry s = .next v ∧ v.dram = u.dram ∧ v.threads = u.threads ∧ v.parts = u.parts) ∧
  (∀ (s : State) p (x : Graph) j s1 ds, nodeIa (x.header + 64 + 32 * j) = some (x.header + 64 + 32 * j) →
    s.doublesAt (s.walkerDie p) (x.header + 64 + 32 * j) 4 = .ok (s1, ds) →
    let at_ := x.header + 64 + 32 * j
    let nd := nodeOf ds
    let all := nd.succ.take nd.nsucc
    let wait := fun (t : State) => t.modDie (s.walkerDie p) (fun d => { d with waitNodes := d.waitNodes ++ [(p, x.entry, j)] })
    let u := s.runNode p x j
    (nd.bad x.nodes = true → u = s1.haltGraph p x.entry 0x65 at_) ∧
    (nd.bad x.nodes = false → nd.kind = 1 → ∀ s2 hd, nodeIa nd.value = some nd.value → s1.doublesAt (s1.walkerDie p) nd.value 4 = .ok (s2, hd) →
      let h := leafHdrOf hd
      (h.slots ≤ h.count → u = wait s2) ∧
      (h.count < h.slots → nodeIa nd.addr = some nd.addr → ∀ s3 rec_, s2.doublesAt (s2.walkerDie p) nd.addr 8 = .ok (s3, rec_) →
        DevIa nd.value 32 → DevIa (h.slot h.tail) 64 → h.slot h.tail / 64 ≠ nd.value / 64 →
        ∀ s4, s3.homeWrite (s3.walkerDie p) (h.slot h.tail) (rec_.flatMap (leBytes 8)) = .ok s4 → s4.l2Has (nd.value + 8) = true →
        u.HoldsAt (h.slot h.tail) (rec_.flatMap (leBytes 8)) ∧ u.HoldsAt (nd.value + 8) (leBytes 4 (h.tail + 1)) ∧
          ∀ y, (u.part p).graph? x.entry = some y → (j, nd.value, h.tail) ∈ y.queued)) ∧
    (nd.bad x.nodes = false → nd.kind = 2 →
      (nd.addr % 16 ≠ 0 → u = s1.haltGraph p x.entry 0x65 at_) ∧
      (nd.addr % 16 = 0 → nodeIa nd.addr = some nd.addr → ∀ s2 d, s1.doublesAt (s1.walkerDie p) nd.addr 6 = .ok (s2, d) → d.length = 6 →
        (∀ v ∈ d, v < 2 ^ 64) →
        (d.getD 5 0 / 2 ^ 12 ≠ 0 → u = s2.haltGraph p x.entry 0x51 (nd.addr + 40)) ∧
        (d.getD 5 0 / 2 ^ 12 = 0 → (p, x.entry, j, s2.nextId) ∈ (u.die (s2.walkerDie p)).walkCopy ∧ ∃ r, u.req s2.nextId = some r ∧
          r.op = .cplin ∧ r.part = p ∧ r.asid = d.getD 5 0 ∧ r.dom = State.rootDom s2.freshId.1 p ∧
          r.regs = (List.range 10).map (fun k => BitVec.ofNat 32 (d.getD (k / 2) 0 / 2 ^ (32 * (k % 2))))))) ∧
    (nd.bad x.nodes = false → nd.kind = 3 → nodeIa nd.addr = some nd.addr → ∀ s2 v, s1.doublesAt (s1.walkerDie p) nd.addr 1 = .ok (s2, [v]) →
      u = if nd.value ≤ v then s2.nodeDone p x.entry j all else wait s2) ∧
    (nd.bad x.nodes = false → nd.kind = 4 → DevIa nd.addr 8 → iaOk nd.addr = true → ∀ s2 old,
      s1.atomicHome (s1.walkerDie p) nd.addr 8 0 nd.value 0 = .ok (s2, old, false) → u = s2.nodeDone p x.entry j all) ∧
    (nd.bad x.nodes = false → nd.addr % 4 = 0 → nodeIa (nd.addr / 8 * 8) = some (nd.addr / 8 * 8) →
      ∀ s2 v, s1.doublesAt (s1.walkerDie p) (nd.addr / 8 * 8) 1 = .ok (s2, [v]) →
      let w := v / 2 ^ (8 * (nd.addr % 8)) % 2 ^ 32
      let n := s2.runCount p x.entry j
      (nd.kind = 5 → u = s2.nodeDone p x.entry j ((all.drop (min w (nd.nsucc - 1))).take 1)) ∧
      (nd.kind = 6 → (w ≠ 0 ∧ n < nd.count →
          u = (s2.putRun p x.entry j (n + 1) (s2.runPending p x.entry j)).nodeDone p x.entry j (all.take 1)) ∧
        (¬ (w ≠ 0 ∧ n < nd.count) →
          u = (s2.putRun p x.entry j 0 (s2.runPending p x.entry j)).nodeDone p x.entry j ((all.drop 1).take 1)))) ∧
    (nd.bad x.nodes = false → nd.kind = 7 → u =
      if nd.count ≤ s1.runCount p x.entry j + 1 then (s1.putRun p x.entry j 0 (s1.runPending p x.entry j)).nodeDone p x.entry j all
      else (s1.putRun p x.entry j (s1.runCount p x.entry j + 1) (s1.runPending p x.entry j)).nodeDone p x.entry j [])) ∧
  (∀ (s : State) p g j x succ, (s.part p).graph? g = some x → x.running = [j] →
    let t := succ.foldl (fun t k => t.fireNode p g k) (s.modGraph p g (fun y => { y with running := y.running.filter (· != j) }))
    t.runPending p g j = 0 →
    let u := s.nodeDone p g j succ
    (u.die (s.walkerDie p)).walkFifo = (s.die (s.walkerDie p)).walkFifo ++ succ.map (fun k => (p, g, k)) ∧ u.dram = s.dram ∧
      u.threads = s.threads ∧ (u.graphIdle p g = true → .event (.graphDone p) ∈ u.agenda)) ∧
  (∀ (s : State), exec .graphArm s = .next ((List.range 8).foldl (fun t p => if t.saveArea p = 0 then t else
    (List.range 64).foldl (fun t g => t.armEntry p g) t) s)) ∧
  (∀ (s : State) p g s0 s1 e h0 h1 h2, s.rd (s.saveArea p + 8 * g) 1 = (s0, some [e]) → nbit e 63 = true →
    (s.part p).armed.any (fun a => a.1 == g) = false → (s.part p).graph? g = none → s0.rd (nbits e 51 0) 3 = (s1, some [h0, h1, h2]) →
    (h0 % 4 = 0 ∨ h0 % 4 = 3) → nbits h1 23 12 ≤ nbits h1 11 0 → s.parts = s0.parts → s0.parts = s1.parts →
    (s.armEntry p g).part p = { s.part p with
      armed := (s.part p).armed ++ [(g, BitVec.ofNat 64 e)],
      graphs := (s.part p).graphs ++ [⟨g, nbits e 51 0, nbits h1 11 0 + 1, nbits h1 23 12, [], []⟩] } ∧
    (p, g, nbits h1 23 12) ∈ ((s.armEntry p g).die (s.walkerDie p)).walkFifo) ∧
  (∀ (s : State) p x, (s.part p).graphs = [x] → s.graphIdle p x.entry = true → p < 8 → ∃ u, exec (.graphDone p) s = .next u ∧
    (u.part p).graphs = [] ∧ (∀ a ∈ (u.part p).armed, a.1 ≠ x.entry) ∧ s.raises u (8 + p) ∧
    let at_ := s.saveArea p + 8 * x.entry
    let h := (s.peek x.header 1).getD 0 0
    let e := (s.peek at_ 1).getD 0 0
    DevIa x.header 64 → DevIa at_ 8 → at_ / 8 ≠ x.header / 8 → ∀ s1, s.homeWrite 0 x.header (leBytes 8 (h / 4 * 4 + 3)) = .ok s1 →
      s1.l2Has at_ = true → u.HoldsAt x.header (leBytes 8 (h / 4 * 4 + 3)) ∧ u.HoldsAt at_ (leBytes 8 (e % 2 ^ 63)))

/-- R137, R138, R363, R364, R366 to R369, R372 to R376, R454 to R458, R460, R473, R474, R479: the host, the peers, the links, reset and the reset
sequence. The layouts of BAR4 and of the HDM registers, and that a window above 512 GiB is none (log entry 17), the 180,000 cc of a retrain (log
entry 68), the poisoned zeros that answer an access outside the window (log entry 69), when a step of the reset sequence ends (log entry 70) and
the tag of a peer's request (log entry 94) are the model's choices. -/
def Obligations.HostEvents : Prop :=
  (∀ s : State, s.failed = false → s.cxlUp = true →
    ((s.msg.addr < s.hdmBase ∨ s.hdmBase + s.hdmSize ≤ s.msg.addr ∨ 2 ^ 39 < s.hdmSize) →
      exec .hostMemRead s = .next (s.emit (.hostData (List.replicate s.msg.len 0#8) true)) ∧
      exec .hostMemWrite s = .next (s.emit (.hostData [] true))) ∧
    (∀ s1 ia s2 d p, s.windowIa s.msg.addr false = .ok (s1, ia) → s1.iaRead ia s.msg.len (s.msg.len / 16 + 2) = .ok (s2, d, p) →
      exec .hostMemRead s = .next (s2.emit (.hostData d p))) ∧
    (∀ s1 ia s2, s.windowIa s.msg.addr true = .ok (s1, ia) → s1.iaWrite 0 ia s.msg.data (s.msg.data.length / 16 + 2) = .ok s2 →
      exec .hostMemWrite s = .next ((s2.linkPoison ia s.msg.data.length).emit (.hostData [] false)))) ∧
  (∀ s : State, s.failed = true → exec .hostMemRead s = .next s ∧ exec .hostMemWrite s = .next s ∧ exec .hostSnoop s = .next s ∧
    exec .peerRead s = .next s ∧ exec .peerWrite s = .next s ∧ exec .peerAtomic s = .next s) ∧
  (∀ s : State, s.failed = false → ∃ u, exec .hostSnoop s = .next u ∧ s.sends u (.snoopDone s.msg.addr) ∧ u.dram = s.dram ∧ u.threads = s.threads ∧
    (∀ d l, l ∈ (u.die d).l2 → l ∈ (s.die d).l2 ∧ s.backedBy s.msg.addr l = false) ∧
    (s.msg.write = true → ∀ j, j < s.msg.data.length → Tbl.get? u.hostMem (s.msg.addr + j) = some (s.msg.data.getD j 0#8)) ∧
    (s.msg.write = false → u.hostMem = s.hostMem)) ∧
  (∀ s : State, s.failed = false → s.msg.op = 0 → ∀ n, 0x1000 ≤ n → n < 0x4000 → s.msg.addr = 8 * n →
    (s.msg.write = false → exec .hostRegisterAccess s = .next (s.emit (.hostReg (BitVec.ofNat 64 ((s.sysRead .host n).getD 0))))) ∧
    (s.msg.write = true → exec .hostRegisterAccess s = .next (s.sysWrite .host n s.msg.val.toNat))) ∧
  (∀ s : State,
    (s.booting = true → exec .hostRegisterAccess s = .next (if s.msg.op = cfgOp then s.emit .hostRetry else s)) ∧
    (s.tripped = true → s.msg.op = 0 → s.msg.write = false → ∀ n, 0x1000 ≤ n → n < 0x4000 → s.msg.addr = 8 * n →
      exec .hostRegisterAccess s = .next (s.emit (.hostReg (if n = 0x3018 ∨ n = 0x3098 then BitVec.ofNat 64 ((s.sysRead .host n).getD 0) else 0#64)))) ∧
    (s.tripped = true → s.msg.op ≠ cfgOp → s.msg.write = true → exec .hostRegisterAccess s = .next s)) ∧
  (∀ s : State, s.msg.src < 64 → ∃ u, exec .msixUnmask s = .next u ∧ u.msixMask.getLsbD s.msg.src = false ∧ u.msixPend.getLsbD s.msg.src = false ∧
    (∀ k, k ≠ s.msg.src → u.msixMask.getLsbD k = s.msixMask.getLsbD k ∧ u.msixPend.getLsbD k = s.msixPend.getLsbD k) ∧
    u.outbox = s.outbox ++ (if s.msixPend.getLsbD s.msg.src then [.msix s.msg.src] else [])) ∧
  (∀ s : State, s.failed = false →
    (∀ e, s.peerImport s.msg.addr false = .error e → exec .peerRead s = .next (s.emit (.peerRefused s.msg.src))) ∧
    (∀ s1 ia s2 d p, s.peerImport s.msg.addr false = .ok (s1, ia) → s1.iaRead ia s.msg.len (s.msg.len / 16 + 2) = .ok (s2, d, p) →
      exec .peerRead s = .next (s2.emit (.peerData s.msg.src d p))) ∧
    (∀ o, s.peerKnown = some o → exec .peerWrite s = .next (s.emit o) ∧ exec .peerAtomic s = .next (s.emit o)) ∧
    (s.peerKnown = none →
      (∀ o, (s.peerAnswer o).peerKnown = some o) ∧
      (∀ e, s.peerImport s.msg.addr true = .error e → exec .peerWrite s = .next (s.emit (.peerRefused s.msg.src))) ∧
      (∀ s1 ia s2, s.peerImport s.msg.addr true = .ok (s1, ia) → nbits ia 51 48 ≠ 2 →
        s1.iaWrite (dieOfStack (iaStack ia)) ia s.msg.data (s.msg.data.length / 16 + 2) = .ok s2 →
        exec .peerWrite s = .next ((s2.linkPoison ia s.msg.data.length).peerAnswer (.peerData s.msg.src [] false))) ∧
      let n := if s.msg.half = 0 then 8 else 4
      let at_ := s.msg.addr + (s.msg.half - 1) * 4
      (∀ e, s.peerImport at_ true = .error e → exec .peerAtomic s = .next (s.emit (.peerRefused s.msg.src))) ∧
      (∀ s1 ia s2 d p, s.peerImport at_ true = .ok (s1, ia) → nbits ia 51 48 ≠ 2 → s.msg.addr % 8 = 0 → s.msg.len = 8 → s.msg.half ≤ 2 →
        s.msg.op ≤ 12 → s1.atomicHome (dieOfStack (iaStack ia)) ia n s.msg.op (s.msg.val.toNat % 2 ^ (8 * n)) (s.msg.cmp.toNat % 2 ^ (8 * n)) =
          .ok (s2, d, p) →
        exec .peerAtomic s = .next (s2.peerAnswer (.peerData s.msg.src d p))) ∧
      ∀ s1 ia, s.peerImport at_ true = .ok (s1, ia) → (s.msg.addr % 8 ≠ 0 ∨ s.msg.len ≠ 8) →
        exec .peerAtomic s = .next (s.emit (.peerRefused s.msg.src)))) ∧
  (∀ s : State, ∃ u, exec .peerLost s = .next u ∧ s.msg.src ∈ u.lost ∧ (∀ r ∈ u.peerReqs, r.dev ≠ s.msg.src) ∧ u.dram = s.dram ∧
    (∀ c, ∀ w ∈ (u.core c).wstores, w.toPeer s.msg.src = false) ∧
    ∀ r ∈ s.peerReqs, r.dev = s.msg.src → r.part < 8 → .event .regionFatal ∈ u.agenda ∧
      ⟨r.part, r.dom, 0, ⟨0x68, r.tries * 2 ^ 60 + s.msg.src, 0, 0, 0#32, s.clk⟩⟩ ∈ u.regionFaults) ∧
  (∀ (s : State) r, s.peerReqs = [r] →
    (s.clk < r.sentAt + 18000 → exec (.peerRetry r.id) s = .next s) ∧
    (r.sentAt + 18000 ≤ s.clk → s.awaited r = false → exec (.peerRetry r.id) s = .next { s with peerReqs := [] }) ∧
    (r.sentAt + 18000 ≤ s.clk → s.awaited r = true → r.tries < 4 → exec (.peerRetry r.id) s = .next { s with peerReqs := [{ r with tries := r.tries + 1, sentAt := s.clk }] }) ∧
    (r.sentAt + 18000 ≤ s.clk → s.awaited r = true → 4 ≤ r.tries → ∃ u, exec (.peerRetry r.id) s = .next u ∧ r.dev ∈ u.lost ∧ u.peerReqs = [])) ∧
  (∀ (s : State) p, s.msg.src < 8 → s.ports[s.msg.src]? = some p → s.ringFull (s.msg.src / 4) → ∃ u q, exec .laneFailure s = .next u ∧
    u.ports[s.msg.src]? = some q ∧ q.up = false ∧ q.retrain = some (s.clk + 180000) ∧ q.spareUsed = true ∧ u.dram = s.dram ∧
    (p.spareUsed = false → q.lanes = p.lanes ∧ (u.die (s.msg.src / 4)).power.spares.getLsbD (4 + s.msg.src % 4) = false) ∧
    (p.spareUsed = true → (∀ i ∈ lanesOf q.lanes, i ∈ lanesOf p.lanes ∧ i ≠ s.msg.addr % 4) ∧
      (lanesOf q.lanes).length = min 2 ((lanesOf p.lanes).filter (· != s.msg.addr % 4)).length)) ∧
  (∀ (s : State) port p, s.ports[port]? = some p → ∃ u, exec (.laneRetrainDone port) s = .next u ∧ { u with ports := s.ports } = s ∧
    u.ports[port]? = some (if p.retrain.isSome then { p with up := p.en && p.lanes != 0 && !s.tripped, retrain := none } else p)) ∧
  (∀ (s : State) p, s.ports[s.msg.src]? = some p → ∃ u, exec .ualinkPortUp s = .next u ∧ { u with ports := s.ports } = s ∧
    u.ports[s.msg.src]? = some (if p.en && !s.tripped && p.retrain.isNone then { p with up := true, lanes := if p.lanes = 0 then 15 else p.lanes } else p)) ∧
  (∀ (s : State), exec .cxlLinkDown s = .next { s with cxlUp := false } ∧ (s.tripped = false → exec .cxlLinkUp s = .next { s with cxlUp := true })) ∧
  (∀ (s : State) who port val p, s.ports[port]? = some p → ∃ u, exec (.portmapEnable who port val) s = .next u ∧
    u.ports[port]? = some (if val.getLsbD 0 then { p with en := true } else { p with en := false, up := false }) ∧
    (∀ k, k ≠ port → u.ports[k]? = s.ports[k]?) ∧ u.lost = (if val.getLsbD 0 then [] else s.lost) ∧ u.dram = s.dram) ∧
  (∀ s : State, ∃ u, exec .resetDevice s = .next u ∧ u.clk = 0 ∧ u.threads = [] ∧ u.braids = [] ∧ u.wgs = [] ∧ u.cores = [] ∧ u.parts = [] ∧
    u.launches = [] ∧ u.reqs = [] ∧ u.ranges = [] ∧ u.dram = [] ∧ u.agenda = [] ∧ u.cxlUp = true ∧ u.hostMem = s.hostMem ∧ u.peerMem = s.peerMem ∧
    u.removed = s.removed ∧ u.reserveUsed = s.reserveUsed ∧ u.tripped = false ∧ u.bootStep = 0 ∧ u.svnFloor = s.svnFloor ∧ u.slotA = s.slotA ∧
    u.slotB = s.slotB ∧ (∀ d, d < 2 → (u.die d).power.spares = (s.die d).power.spares ∧ (u.die d).power.bootst = 0)) ∧
  (∀ s : State, s.booting = true → s.agenda = [] → firstDue s.clk s.inbox = none → ∃ u, step s = .next u ∧ u.clk = s.clk + 1 ∧
    u.threads = s.threads ∧ u.dram = s.dram ∧ (u.bootStep = s.bootStep ∨ u.bootStep = s.bootStep + 1) ∧
    (bootBounds.getD s.bootStep 0 ≤ s.clk + 1 → u.bootStep = s.bootStep + 1)) ∧
  (∀ s : State, let u := s.bootNext
    u.bootStep = s.bootStep + 1 ∧ u.dram = s.dram ∧ u.threads = s.threads ∧
    (s.bootStep = 0 → u.devidx = s.fuseIdx ∧ ∀ d, d < 2 → (u.die d).power.bootst = 1) ∧
    (s.bootStep = 1 → u.svnFloor = s.svnFloor ∧
      (s.firmware = none → u.tripped = true ∧ ∀ d, d < 2 → (u.die d).power.bootst = 8) ∧
      (∀ slot svn, s.firmware = some (slot, svn) → u.tripped = s.tripped ∧
        (∀ d, d < 2 → (u.die d).power.bootst = 2 ∧ (u.die d).power.bootSlot = slot ∧ (u.die d).power.bootSvn = svn) ∧
        let i := if slot = 0 then s.slotA else s.slotB
        svn = i.svn ∧ s.svnFloor ≤ svn ∧ Config.sm3 i.key = s.keyDigest ∧ Config.sm2Verify i.key (Config.sm3 i.rest) i.sig = true ∧
          (slot ≠ 0 → s.accepts s.slotA = false))) ∧
    (s.bootStep = 2 → ∀ d, d < 2 → (u.die d).power.temp = Config.sensorTemp d (s.clk / Config.windowCc) &&& 0xFFFF#32 ∧
      (u.die d).power.tf = thermalFactor (u.die d).power.temp.toNat (s.die d).power.tfth.toNat) ∧
    (s.bootStep = 4 → u.svnFloor = max s.svnFloor (s.die 0).power.bootSvn ∧ ∀ d, d < 2 → (u.die d).power.bootst = 3))

/-- R122, R124, R129, R365, R437, R439, R441, R475, R476: the commands of the range-register windows and of the translators, and the responder of the
root of trust. The bytes of its messages (log entry 12) are the model's choice. -/
def Obligations.CommandEvents : Prop :=
  (∀ (s : State) who,
    (rangeOk (s.window who).staged = true → ∃ u, exec (.rrcommitCommit who) s = .next u ∧
      Tbl.getD u.ranges (s.window who).key 0#192 = BitVec.ofNat 192 (s.window who).staged ∧
      (∀ k, k ≠ (s.window who).key → Tbl.getD u.ranges k 0#192 = Tbl.getD s.ranges k 0#192) ∧
      (u.window who).rrsel.getLsbD 31 = false ∧ u.dram = s.dram ∧ u.threads = s.threads ∧
      ((u.window who).busy = false → u.commitWaits (u.window who) = false)) ∧
    (rangeOk (s.window who).staged = false → ∃ u, exec (.rrcommitCommit who) s = .next u ∧ u.ranges = s.ranges ∧
      (u.window who).rrsel.getLsbD 31 = true ∧ (u.window who).busy = false ∧ u.dram = s.dram ∧ u.threads = s.threads) ∧
    (∃ u, exec (.rrcommitFetch who) s = .next u ∧ u.ranges = s.ranges ∧
      (u.window who).staged = (Tbl.getD s.ranges (s.window who).key 0#192).toNat ∧ (u.window who).rrsel = (s.window who).rrsel)) ∧
  (∀ (s : State),
    (s.noneLogged 8 → ∃ u, exec .hainv s = .next u ∧ u.hatlb = [] ∧ u.dram = s.dram ∧ u.threads = s.threads ∧ ∀ p ∈ u.reqs, p.2.waiting ≠ some 8) ∧
    (s.noneLogged 9 → ∃ u, exec .piinv s = .next u ∧ u.pitlb = [] ∧ u.dram = s.dram ∧ u.threads = s.threads) ∧
    (s.noneLogged 10 → ∃ u, exec .cminv s = .next u ∧ u.cmtlb = [] ∧ u.dram = s.dram ∧ u.threads = s.threads)) ∧
  (∀ s : State,
    let six := [Instr.spdmGetCapabilities, .spdmNegotiateAlgorithms, .spdmGetDigests, .spdmGetCertificate, .spdmChallenge, .spdmGetMeasurements]
    (s.booting = true → ∀ i ∈ .spdmGetVersion :: six, exec i s = .next (s.emit .hostRetry)) ∧
    (s.tripped = true → ∀ i ∈ six, exec i s = .next s)) ∧
  (∀ s : State, s.booting = false → ∃ u r, exec .spdmGetVersion s = .next u ∧ s.sends u (.spdm r) ∧ r.drop 6 = [0x00#8, 0x13#8] ∧
    u.spdm = ⟨true, false, false, s.msg.data ++ r⟩) ∧
  (∀ s : State, s.failed = false →
    (s.spdm.version = true → ∃ u r, exec .spdmGetCapabilities s = .next u ∧ s.sends u (.spdm r) ∧ r.take 2 = [0x13#8, 0x61#8] ∧ u.spdm.caps = true ∧
      r.length = 20 ∧ (r.drop 8).take 4 = leBytes 4 0x16 ∧
      u.spdm.transcript = s.spdm.transcript ++ s.msg.data ++ r) ∧
    (s.spdm.caps = true → ∃ u r, exec .spdmNegotiateAlgorithms s = .next u ∧ s.sends u (.spdm r) ∧ r.take 2 = [0x13#8, 0x63#8] ∧ u.spdm.algs = true ∧
      (r.drop 8).take 12 = leBytes 4 0x80 ++ leBytes 4 0x200 ++ leBytes 4 0x40 ∧
      u.spdm.transcript = s.spdm.transcript ++ s.msg.data ++ r) ∧
    (s.spdm.algs = true →
      (∃ u, exec .spdmGetDigests s = .next u ∧
        s.sends u (.spdm ([0x13#8, 0x01#8, 0x03#8, 0x03#8] ++ Config.sm3 (s.chain 0) ++ Config.sm3 (s.chain 1)))) ∧
      ((s.msg.data.getD 2 0#8).toNat % 16 ≤ 1 → ∃ u r, exec .spdmGetCertificate s = .next u ∧ s.sends u (.spdm r) ∧
        r.drop 8 = ((s.chain ((s.msg.data.getD 2 0#8).toNat % 16)).drop ((s.msg.data.getD 4 0#8).toNat + 256 * (s.msg.data.getD 5 0#8).toNat)).take
          ((s.msg.data.getD 6 0#8).toNat + 256 * (s.msg.data.getD 7 0#8).toNat)) ∧
      ((s.msg.data.getD 2 0#8).toNat % 16 ≤ 1 → ∃ u r, exec .spdmChallenge s = .next u ∧
        s.sends u (.spdm (r ++ Config.sm2Sign ((s.msg.data.getD 2 0#8).toNat % 16) (s.spdm.transcript ++ s.msg.data ++ r)))) ∧
      ((s.msg.data.getD 3 0#8).toNat ≤ 5 → (s.msg.data.getD 2 0#8).toNat % 2 = 1 → ∃ u r, exec .spdmGetMeasurements s = .next u ∧
        s.sends u (.spdm (r ++ Config.sm2Sign 0 (s.spdm.transcript ++ s.msg.data ++ r))) ∧ r.take 2 = [0x13#8, 0x60#8])) ∧
    (s.spdm.algs = false → ∀ i, i ∈ [Instr.spdmGetDigests, .spdmGetCertificate, .spdmChallenge, .spdmGetMeasurements] →
      exec i s = .next (s.emit (.spdm [0x13#8, 0x7F#8, 0x04#8, 0#8]))))

/-! ## Encodings and reset -/

/-- R215, R216, R226 to R236, R238: words written out bit by bit (C, opcode, G, N, D, A, B, with the pieces of B that a format gives apart), one or
more for each family, decode to the instruction they stand for; an unallocated major opcode, a nonzero reserved field, and a LIT32 without its
data word are refused. -/
def Obligations.DecodeWords : Prop :=
  decodeTableWord 32 0b0_0010000_01_0_0000011_0000001_0000010 = some (.iadd ⟨false, 1⟩ ⟨false, 3, 1, 2⟩) ∧
  decodeTableWord 32 0b0_0101001_00_0_01_00011_0000001_0000010 = some (.isetpN ⟨false, 0⟩ ⟨1, 3, 1, 2⟩) ∧
  decodeTableWord 32 0b1_0110010_00_1_0000000_0000110_0000111 = some (.fmul ⟨true, 0⟩ ⟨true, 0, 6, 7⟩) ∧
  decodeTableWord 32 0b0_0000001_11_1_1111111_1111111_1111110 = some (.br ⟨false, 3⟩ ⟨0x3FFFFE⟩) ∧
  decodeTableWord 64 (0b1_0001101_00_0_0000101_0000000_0000000 + 2 ^ 32 * 0xDEADBEEF) = some (.lit32 ⟨true, 0⟩ ⟨5, 0xDEADBEEF⟩) ∧
  decodeTableWord 32 0b0_1010101_00_1_0001000_0000100_01_00010 = some (.ld64 ⟨false, 0⟩ ⟨true, 8, 4, 1, 2⟩) ∧
  decodeTableWord 32 0b0_1011010_00_0_0000100_0000010_00_00010 = some (.st32 ⟨false, 0⟩ ⟨false, 4, 2, 0, 2⟩) ∧
  decodeTableWord 32 0b0_1100110_00_0_0000010_0000100_0000_000 = some (.atom32Add ⟨false, 0⟩ ⟨false, 2, 4, 0⟩) ∧
  decodeTableWord 32 0b0_1110100_00_0_0000010_0010000_1100_001 = some (.cpbox ⟨false, 0⟩ ⟨2, 16, 12, 1⟩) ∧
  decodeTableWord 32 0b0_1111101_00_0_0001000_01000100000001 = some (.syswr ⟨false, 0⟩ ⟨8, 0x1101⟩) ∧
  decodeTableWord 32 0b0_1111111_00_0_0000000_0000100_0_1_1_0_001 = some (.nmbkMac ⟨false, 0⟩ ⟨4, false, true, true⟩) ∧
  decodeTableWord 32 0b0_0000000_00_0_0000000_0000000_0000001 = none ∧
  Sys2Proof.decode [0b0_0001101_00_0_0000101_0000000_0000000] = .error .truncated

/-- R215, R216, R226 to R236, R238: decoding the words of a well-formed instruction, whatever words follow them, gives that instruction and leaves those
words; and words from which an instruction is decoded are its own words, before those that are left. So no bit of a word is dropped and no two
words stand for one instruction. -/
def Obligations.DecodeEncode : Prop :=
  (∀ i, i.wf = true → ∀ rest, Sys2Proof.decode (encode i ++ rest) = .ok (i, rest)) ∧
  (∀ ws i rest, Sys2Proof.decode ws = .ok (i, rest) → i.wf = true ∧ ws = encode i ++ rest)

/-- R5, R71, R364, R399, R473, R477: the machine in the first cycle of its reset sequence, where CLK is 0, holds no work, and its memories and caches
are empty; its registers read the reset values that R364, R399 and R477 give. The two fuse values are the model's choice (log entry 3). -/
def Obligations.ResetState : Prop :=
  State.reset.memOk = true ∧ State.reset.dram = [] ∧ State.reset.threads = [] ∧ State.reset.wgs = [] ∧ State.reset.launches = [] ∧
  State.reset.reqs = [] ∧ State.reset.agenda = [] ∧ State.reset.ranges = [] ∧ State.reset.tripped = false ∧
  (∀ c, (State.reset.core c).l1d = [] ∧ (State.reset.core c).l1i = [] ∧ (State.reset.core c).scratch = [] ∧ (State.reset.core c).leaveWait = 0) ∧
  (∀ p, p < 8 → (∀ k, k < 16 → State.reset.sysRead .host (0x1000 + 16 * p + k) = some (if k = 4 then 10000 else if k = 5 then 1000 else 0))) ∧
  (∀ n, 0x1100 ≤ n → n ≤ 0x1104 → State.reset.sysRead .host n = some 0) ∧
  (∀ k, k < 8 → (∀ j, j < 6 → State.reset.sysRead .host (0x1200 + 8 * k + j) = some 0) ∧ State.reset.sysRead .host (0x1206 + 8 * k) = some 768) ∧
  (∀ n, 0x1240 ≤ n → n ≤ 0x1245 → State.reset.sysRead .host n = some 0) ∧
  (∀ n, 0x1301 ≤ n → n ≤ 0x1308 → State.reset.sysRead .host n = some 0) ∧
  (∀ d, d < 2 → ∀ x ∈ [(0, 1200), (1, 400), (2, 0), (3, 0x06900550), (4, 0x0730), (5, 16), (6, 0), (7, 0), (8, 430), (9, 420), (10, 300), (11, 12),
      (12, 0x001E0014), (13, 22), (0x10, 0), (0x11, 0), (0x12, 0), (0x13, 0)], State.reset.sysRead .host (0x3000 + 0x80 * d + x.1) = some x.2) ∧
  State.reset.clk = 0 ∧ State.reset.bootStep = 0 ∧
  (∀ d, d < 2 → (State.reset.die d).power.bootst = 0 ∧ (State.reset.die d).power.remaining = 800000 * 1024)

/-- R130, R473: whatever a step of the machine does, every byte of DRAM, of the scratch of a core and of host memory has one place and one value
after it: the memories stay in the canonical form that the model keeps them in (the form, and the value 0 of a byte that nothing has written, are
the model's, log entry 14). -/
def Obligations.MemoryInvariant : Prop := ∀ s t : State, s.memOk = true → step s = .next t → t.memOk = true
end

