-- ==== Sys2Proof/Laws/Tbl.lean ====
section
/-! SUPPORT. Sparse tables and memories: read after write, and that every operation keeps the canonical form. -/

namespace Sys2Proof.Machine

variable {α : Type}

/-- Reading the key just put gives the value put. -/
@[simp] theorem Tbl.get?_put_same (t : Tbl α) (x : Nat) (v : α) : Tbl.get? (Tbl.put t x v) x = some v := by
  induction t with
  | nil => simp [Tbl.put, Tbl.get?]
  | cons p r ih =>
    obtain ⟨k, w⟩ := p
    simp only [Tbl.put]
    split
    · simp [Tbl.get?]
    · split
      · simp [Tbl.get?]
      · rename_i h
        simp [Tbl.get?, Ne.symm h, ih]

/-- Putting one key leaves every other. -/
theorem Tbl.get?_put_ne (t : Tbl α) {x y : Nat} (v : α) (h : y ≠ x) : Tbl.get? (Tbl.put t x v) y = Tbl.get? t y := by
  induction t with
  | nil => simp [Tbl.put, Tbl.get?, Ne.symm h]
  | cons p r ih =>
    obtain ⟨k, w⟩ := p
    simp only [Tbl.put]
    split
    · simp [Tbl.get?, Ne.symm h]
    · split
      · rename_i h'
        subst h'
        simp [Tbl.get?, Ne.symm h]
      · simp [Tbl.get?, ih]

theorem Tbl.get?_put (t : Tbl α) (x y : Nat) (v : α) :
    Tbl.get? (Tbl.put t x v) y = if y = x then some v else Tbl.get? t y := by
  split
  · rename_i h
    rw [h, Tbl.get?_put_same]
  · rename_i h
    exact Tbl.get?_put_ne t v h

@[simp] theorem Tbl.get?_del_same (t : Tbl α) (x : Nat) : Tbl.get? (Tbl.del t x) x = none := by
  induction t with
  | nil => rfl
  | cons p r ih =>
    obtain ⟨k, w⟩ := p
    unfold Tbl.del at *
    simp only [List.filter_cons]
    split
    · rename_i h
      simp only [Tbl.get?]
      rw [if_neg (by simpa using h)]
      exact ih
    · exact ih

theorem Tbl.get?_del_ne (t : Tbl α) {x y : Nat} (h : y ≠ x) : Tbl.get? (Tbl.del t x) y = Tbl.get? t y := by
  induction t with
  | nil => rfl
  | cons p r ih =>
    obtain ⟨k, w⟩ := p
    unfold Tbl.del at *
    simp only [List.filter_cons]
    split
    · simp only [Tbl.get?, ih]
    · rename_i h'
      have hk : k = x := by simpa using h'
      rw [ih, hk]
      simp [Tbl.get?, Ne.symm h]

/-- Read after write, where an unlisted key reads as the default. -/
theorem Tbl.getD_set [DecidableEq α] (t : Tbl α) (d : α) (x y : Nat) (v : α) :
    Tbl.getD (Tbl.set t d x v) y d = if y = x then v else Tbl.getD t y d := by
  unfold Tbl.set Tbl.getD
  by_cases hv : v = d
  · rw [if_pos hv]
    by_cases h : y = x
    · rw [h, Tbl.get?_del_same, if_pos rfl, hv]
      rfl
    · rw [Tbl.get?_del_ne t h, if_neg h]
  · rw [if_neg hv, Tbl.get?_put]
    split <;> rfl

theorem Tbl.getD_put (t : Tbl α) (x y : Nat) (v d : α) :
    Tbl.getD (Tbl.put t x v) y d = if y = x then v else Tbl.getD t y d := by
  unfold Tbl.getD
  rw [Tbl.get?_put]
  split <;> rfl

/-- Changing the entry of a key changes what that key holds, where it is listed, and nothing else. -/
theorem Tbl.get?_mod (t : Tbl α) (x y : Nat) (f : α → α) :
    Tbl.get? (Tbl.mod t x f) y = if y = x then (Tbl.get? t y).map f else Tbl.get? t y := by
  induction t with
  | nil => simp [Tbl.mod, Tbl.get?]
  | cons p r ih =>
    obtain ⟨k, w⟩ := p
    unfold Tbl.mod at *
    simp only [List.map_cons]
    by_cases hk : k = x
    · subst hk
      by_cases hy : y = k
      · subst hy; simp [Tbl.get?]
      · simp [Tbl.get?, Ne.symm hy, ih, hy]
    · by_cases hy : k = y
      · subst hy; simp [Tbl.get?, hk]
      · simp [Tbl.get?, hk, hy, ih]

/-! ## The canonical form -/

theorem Tbl.sorted_tail {p : Nat × α} {r : Tbl α} (h : Tbl.sorted (p :: r) = true) : Tbl.sorted r = true := by
  obtain ⟨k, w⟩ := p
  cases r with
  | nil => rfl
  | cons q r =>
    obtain ⟨l, u⟩ := q
    simp only [Tbl.sorted, Bool.and_eq_true] at h
    exact h.2

theorem Tbl.sorted_lt {k : Nat} {w : α} {r : Tbl α} (h : Tbl.sorted ((k, w) :: r) = true) : ∀ p ∈ r, k < p.1 := by
  induction r generalizing k w with
  | nil => simp
  | cons q r ih =>
    obtain ⟨l, u⟩ := q
    simp only [Tbl.sorted, Bool.and_eq_true, decide_eq_true_eq] at h
    intro p hp
    rcases List.mem_cons.mp hp with rfl | hp
    · exact h.1
    · exact Nat.lt_trans h.1 (ih h.2 p hp)

theorem Tbl.sorted_cons {k : Nat} {w : α} {r : Tbl α} (h : Tbl.sorted r = true) (hk : ∀ p ∈ r, k < p.1) :
    Tbl.sorted ((k, w) :: r) = true := by
  cases r with
  | nil => rfl
  | cons q r =>
    obtain ⟨l, u⟩ := q
    simp only [Tbl.sorted, Bool.and_eq_true, decide_eq_true_eq]
    exact ⟨hk (l, u) (List.mem_cons_self ..), h⟩

theorem Tbl.mem_put {t : Tbl α} {x : Nat} {v : α} {p : Nat × α} (h : p ∈ Tbl.put t x v) : p = (x, v) ∨ p ∈ t := by
  induction t with
  | nil => simpa [Tbl.put] using h
  | cons q r ih =>
    obtain ⟨k, w⟩ := q
    simp only [Tbl.put] at h
    split at h
    · simpa using h
    · split at h
      · rcases List.mem_cons.mp h with h | h
        · exact .inl h
        · exact .inr (List.mem_cons_of_mem _ h)
      · rcases List.mem_cons.mp h with h | h
        · exact .inr (by simp [h])
        · rcases ih h with h | h
          · exact .inl h
          · exact .inr (List.mem_cons_of_mem _ h)

theorem Tbl.sorted_put {t : Tbl α} (x : Nat) (v : α) (h : Tbl.sorted t = true) : Tbl.sorted (Tbl.put t x v) = true := by
  induction t with
  | nil => rfl
  | cons q r ih =>
    obtain ⟨k, w⟩ := q
    simp only [Tbl.put]
    split
    · rename_i hx
      refine Tbl.sorted_cons h ?_
      intro p hp
      rcases List.mem_cons.mp hp with rfl | hp
      · exact hx
      · exact Nat.lt_trans hx (Tbl.sorted_lt h p hp)
    · split
      · rename_i hx
        subst hx
        exact Tbl.sorted_cons (Tbl.sorted_tail h) (Tbl.sorted_lt h)
      · rename_i h1 h2
        refine Tbl.sorted_cons (ih (Tbl.sorted_tail h)) ?_
        intro p hp
        rcases Tbl.mem_put hp with rfl | hp
        · simp only; omega
        · exact Tbl.sorted_lt h p hp

theorem Tbl.sorted_filter {t : Tbl α} (f : Nat × α → Bool) (h : Tbl.sorted t = true) : Tbl.sorted (t.filter f) = true := by
  induction t with
  | nil => rfl
  | cons q r ih =>
    obtain ⟨k, w⟩ := q
    simp only [List.filter_cons]
    split
    · exact Tbl.sorted_cons (ih (Tbl.sorted_tail h)) (fun p hp => Tbl.sorted_lt h p (List.mem_filter.mp hp).1)
    · exact ih (Tbl.sorted_tail h)

/-- A write keeps the canonical form. -/
theorem Tbl.wf_set [DecidableEq α] {d : α} {t : Tbl α} (x : Nat) (v : α) (h : Tbl.wf d t = true) :
    Tbl.wf d (Tbl.set t d x v) = true := by
  simp only [Tbl.wf, Bool.and_eq_true, List.all_eq_true, decide_eq_true_eq] at *
  unfold Tbl.set
  split
  · exact ⟨Tbl.sorted_filter _ h.1, fun p hp => h.2 p (List.mem_filter.mp hp).1⟩
  · rename_i hv
    refine ⟨Tbl.sorted_put x v h.1, fun p hp => ?_⟩
    rcases Tbl.mem_put hp with rfl | hp
    · exact hv
    · exact h.2 p hp

/-- Dropping entries keeps the canonical form. -/
theorem Tbl.wf_filter [DecidableEq α] {d : α} {t : Tbl α} (f : Nat × α → Bool) (h : Tbl.wf d t = true) :
    Tbl.wf d (t.filter f) = true := by
  simp only [Tbl.wf, Bool.and_eq_true, List.all_eq_true, decide_eq_true_eq] at *
  exact ⟨Tbl.sorted_filter _ h.1, fun p hp => h.2 p (List.mem_filter.mp hp).1⟩

/-- Writing a run of bytes keeps a memory's canonical form. -/
theorem Memory.wf_writes {m : Mem} (l : List (Byte × Nat)) (h : Memory.wf m = true) :
    Memory.wf (l.foldl (fun m p => Tbl.set m 0#8 p.2 p.1) m) = true := by
  induction l generalizing m with
  | nil => exact h
  | cons p r ih => exact ih (Tbl.wf_set _ _ h)

/-- A byte outside a run of bytes written reads as before. -/
theorem Memory.getD_writes_other {m : Mem} {a : Nat} (l : List (Byte × Nat)) (h : ∀ p ∈ l, a ≠ p.2) :
    Tbl.getD (l.foldl (fun m p => Tbl.set m 0#8 p.2 p.1) m) a 0#8 = Tbl.getD m a 0#8 := by
  induction l generalizing m with
  | nil => rfl
  | cons p r ih =>
    simp only [List.foldl_cons]
    rw [ih (fun q hq => h q (List.mem_cons_of_mem _ hq)), Tbl.getD_set, if_neg (h p (List.mem_cons_self ..))]

/-- Memory after reset is in its canonical form. -/
theorem Memory.wf_reset : Memory.wf State.reset.dram = true := by decide

end Sys2Proof.Machine
end

