-- ==== Sys2Proof/Laws/State.lean ====
section
/-! SUPPORT. What each named update of the state does to each field. -/

namespace Sys2Proof.Machine

/-! ## `State.modThr` -/

@[simp] theorem State.modThr_clk (s : State) (wg t : Nat) (f : Thread → Thread) : (s.modThr wg t f).clk = s.clk := rfl
@[simp] theorem State.modThr_seq (s : State) (wg t : Nat) (f : Thread → Thread) : (s.modThr wg t f).seq = s.seq := rfl
@[simp] theorem State.modThr_nextId (s : State) (wg t : Nat) (f : Thread → Thread) : (s.modThr wg t f).nextId = s.nextId := rfl
@[simp] theorem State.modThr_draws (s : State) (wg t : Nat) (f : Thread → Thread) : (s.modThr wg t f).draws = s.draws := rfl
@[simp] theorem State.modThr_cur (s : State) (wg t : Nat) (f : Thread → Thread) : (s.modThr wg t f).cur = s.cur := rfl
@[simp] theorem State.modThr_agenda (s : State) (wg t : Nat) (f : Thread → Thread) : (s.modThr wg t f).agenda = s.agenda := rfl
@[simp] theorem State.modThr_inbox (s : State) (wg t : Nat) (f : Thread → Thread) : (s.modThr wg t f).inbox = s.inbox := rfl
@[simp] theorem State.modThr_msg (s : State) (wg t : Nat) (f : Thread → Thread) : (s.modThr wg t f).msg = s.msg := rfl
@[simp] theorem State.modThr_outbox (s : State) (wg t : Nat) (f : Thread → Thread) : (s.modThr wg t f).outbox = s.outbox := rfl
@[simp] theorem State.modThr_threads (s : State) (wg t : Nat) (f : Thread → Thread) : (s.modThr wg t f).threads = Tbl.mod s.threads (tkey wg t) f := rfl
@[simp] theorem State.modThr_braids (s : State) (wg t : Nat) (f : Thread → Thread) : (s.modThr wg t f).braids = s.braids := rfl
@[simp] theorem State.modThr_wgs (s : State) (wg t : Nat) (f : Thread → Thread) : (s.modThr wg t f).wgs = s.wgs := rfl
@[simp] theorem State.modThr_cores (s : State) (wg t : Nat) (f : Thread → Thread) : (s.modThr wg t f).cores = s.cores := rfl
@[simp] theorem State.modThr_clusters (s : State) (wg t : Nat) (f : Thread → Thread) : (s.modThr wg t f).clusters = s.clusters := rfl
@[simp] theorem State.modThr_dies (s : State) (wg t : Nat) (f : Thread → Thread) : (s.modThr wg t f).dies = s.dies := rfl
@[simp] theorem State.modThr_stackTbl (s : State) (wg t : Nat) (f : Thread → Thread) : (s.modThr wg t f).stackTbl = s.stackTbl := rfl
@[simp] theorem State.modThr_parts (s : State) (wg t : Nat) (f : Thread → Thread) : (s.modThr wg t f).parts = s.parts := rfl
@[simp] theorem State.modThr_launches (s : State) (wg t : Nat) (f : Thread → Thread) : (s.modThr wg t f).launches = s.launches := rfl
@[simp] theorem State.modThr_reqs (s : State) (wg t : Nat) (f : Thread → Thread) : (s.modThr wg t f).reqs = s.reqs := rfl
@[simp] theorem State.modThr_formed (s : State) (wg t : Nat) (f : Thread → Thread) : (s.modThr wg t f).formed = s.formed := rfl
@[simp] theorem State.modThr_qfences (s : State) (wg t : Nat) (f : Thread → Thread) : (s.modThr wg t f).qfences = s.qfences := rfl
@[simp] theorem State.modThr_ranges (s : State) (wg t : Nat) (f : Thread → Thread) : (s.modThr wg t f).ranges = s.ranges := rfl
@[simp] theorem State.modThr_hostWindow (s : State) (wg t : Nat) (f : Thread → Thread) : (s.modThr wg t f).hostWindow = s.hostWindow := rfl
@[simp] theorem State.modThr_dram (s : State) (wg t : Nat) (f : Thread → Thread) : (s.modThr wg t f).dram = s.dram := rfl
@[simp] theorem State.modThr_dramPoison (s : State) (wg t : Nat) (f : Thread → Thread) : (s.modThr wg t f).dramPoison = s.dramPoison := rfl
@[simp] theorem State.modThr_hostMem (s : State) (wg t : Nat) (f : Thread → Thread) : (s.modThr wg t f).hostMem = s.hostMem := rfl
@[simp] theorem State.modThr_hostPoison (s : State) (wg t : Nat) (f : Thread → Thread) : (s.modThr wg t f).hostPoison = s.hostPoison := rfl
@[simp] theorem State.modThr_haroot (s : State) (wg t : Nat) (f : Thread → Thread) : (s.modThr wg t f).haroot = s.haroot := rfl
@[simp] theorem State.modThr_piroot (s : State) (wg t : Nat) (f : Thread → Thread) : (s.modThr wg t f).piroot = s.piroot := rfl
@[simp] theorem State.modThr_cmroot (s : State) (wg t : Nat) (f : Thread → Thread) : (s.modThr wg t f).cmroot = s.cmroot := rfl
@[simp] theorem State.modThr_hatlb (s : State) (wg t : Nat) (f : Thread → Thread) : (s.modThr wg t f).hatlb = s.hatlb := rfl
@[simp] theorem State.modThr_pitlb (s : State) (wg t : Nat) (f : Thread → Thread) : (s.modThr wg t f).pitlb = s.pitlb := rfl
@[simp] theorem State.modThr_cmtlb (s : State) (wg t : Nat) (f : Thread → Thread) : (s.modThr wg t f).cmtlb = s.cmtlb := rfl
@[simp] theorem State.modThr_devidx (s : State) (wg t : Nat) (f : Thread → Thread) : (s.modThr wg t f).devidx = s.devidx := rfl
@[simp] theorem State.modThr_ports (s : State) (wg t : Nat) (f : Thread → Thread) : (s.modThr wg t f).ports = s.ports := rfl
@[simp] theorem State.modThr_lost (s : State) (wg t : Nat) (f : Thread → Thread) : (s.modThr wg t f).lost = s.lost := rfl
@[simp] theorem State.modThr_peerMem (s : State) (wg t : Nat) (f : Thread → Thread) : (s.modThr wg t f).peerMem = s.peerMem := rfl
@[simp] theorem State.modThr_peerOpen (s : State) (wg t : Nat) (f : Thread → Thread) : (s.modThr wg t f).peerOpen = s.peerOpen := rfl
@[simp] theorem State.modThr_peerDone (s : State) (wg t : Nat) (f : Thread → Thread) : (s.modThr wg t f).peerDone = s.peerDone := rfl
@[simp] theorem State.modThr_peerReqs (s : State) (wg t : Nat) (f : Thread → Thread) : (s.modThr wg t f).peerReqs = s.peerReqs := rfl
@[simp] theorem State.modThr_cxlUp (s : State) (wg t : Nat) (f : Thread → Thread) : (s.modThr wg t f).cxlUp = s.cxlUp := rfl
@[simp] theorem State.modThr_hdmBase (s : State) (wg t : Nat) (f : Thread → Thread) : (s.modThr wg t f).hdmBase = s.hdmBase := rfl
@[simp] theorem State.modThr_hdmSize (s : State) (wg t : Nat) (f : Thread → Thread) : (s.modThr wg t f).hdmSize = s.hdmSize := rfl
@[simp] theorem State.modThr_cxlRegs (s : State) (wg t : Nat) (f : Thread → Thread) : (s.modThr wg t f).cxlRegs = s.cxlRegs := rfl
@[simp] theorem State.modThr_msixMask (s : State) (wg t : Nat) (f : Thread → Thread) : (s.modThr wg t f).msixMask = s.msixMask := rfl
@[simp] theorem State.modThr_msixPend (s : State) (wg t : Nat) (f : Thread → Thread) : (s.modThr wg t f).msixPend = s.msixPend := rfl
@[simp] theorem State.modThr_msixTable (s : State) (wg t : Nat) (f : Thread → Thread) : (s.modThr wg t f).msixTable = s.msixTable := rfl
@[simp] theorem State.modThr_failedAdds (s : State) (wg t : Nat) (f : Thread → Thread) : (s.modThr wg t f).failedAdds = s.failedAdds := rfl
@[simp] theorem State.modThr_heldAdds (s : State) (wg t : Nat) (f : Thread → Thread) : (s.modThr wg t f).heldAdds = s.heldAdds := rfl
@[simp] theorem State.modThr_heldBacks (s : State) (wg t : Nat) (f : Thread → Thread) : (s.modThr wg t f).heldBacks = s.heldBacks := rfl
@[simp] theorem State.modThr_regionFaults (s : State) (wg t : Nat) (f : Thread → Thread) : (s.modThr wg t f).regionFaults = s.regionFaults := rfl
@[simp] theorem State.modThr_slotA (s : State) (wg t : Nat) (f : Thread → Thread) : (s.modThr wg t f).slotA = s.slotA := rfl
@[simp] theorem State.modThr_slotB (s : State) (wg t : Nat) (f : Thread → Thread) : (s.modThr wg t f).slotB = s.slotB := rfl
@[simp] theorem State.modThr_bootStep (s : State) (wg t : Nat) (f : Thread → Thread) : (s.modThr wg t f).bootStep = s.bootStep := rfl
@[simp] theorem State.modThr_fuseIdx (s : State) (wg t : Nat) (f : Thread → Thread) : (s.modThr wg t f).fuseIdx = s.fuseIdx := rfl
@[simp] theorem State.modThr_keyDigest (s : State) (wg t : Nat) (f : Thread → Thread) : (s.modThr wg t f).keyDigest = s.keyDigest := rfl
@[simp] theorem State.modThr_svnFloor (s : State) (wg t : Nat) (f : Thread → Thread) : (s.modThr wg t f).svnFloor = s.svnFloor := rfl
@[simp] theorem State.modThr_reserveUsed (s : State) (wg t : Nat) (f : Thread → Thread) : (s.modThr wg t f).reserveUsed = s.reserveUsed := rfl
@[simp] theorem State.modThr_removed (s : State) (wg t : Nat) (f : Thread → Thread) : (s.modThr wg t f).removed = s.removed := rfl
@[simp] theorem State.modThr_tripped (s : State) (wg t : Nat) (f : Thread → Thread) : (s.modThr wg t f).tripped = s.tripped := rfl
@[simp] theorem State.modThr_spdm (s : State) (wg t : Nat) (f : Thread → Thread) : (s.modThr wg t f).spdm = s.spdm := rfl

/-! ## `State.modBrd` -/

@[simp] theorem State.modBrd_clk (s : State) (wg b : Nat) (f : Braid → Braid) : (s.modBrd wg b f).clk = s.clk := rfl
@[simp] theorem State.modBrd_seq (s : State) (wg b : Nat) (f : Braid → Braid) : (s.modBrd wg b f).seq = s.seq := rfl
@[simp] theorem State.modBrd_nextId (s : State) (wg b : Nat) (f : Braid → Braid) : (s.modBrd wg b f).nextId = s.nextId := rfl
@[simp] theorem State.modBrd_draws (s : State) (wg b : Nat) (f : Braid → Braid) : (s.modBrd wg b f).draws = s.draws := rfl
@[simp] theorem State.modBrd_cur (s : State) (wg b : Nat) (f : Braid → Braid) : (s.modBrd wg b f).cur = s.cur := rfl
@[simp] theorem State.modBrd_agenda (s : State) (wg b : Nat) (f : Braid → Braid) : (s.modBrd wg b f).agenda = s.agenda := rfl
@[simp] theorem State.modBrd_inbox (s : State) (wg b : Nat) (f : Braid → Braid) : (s.modBrd wg b f).inbox = s.inbox := rfl
@[simp] theorem State.modBrd_msg (s : State) (wg b : Nat) (f : Braid → Braid) : (s.modBrd wg b f).msg = s.msg := rfl
@[simp] theorem State.modBrd_outbox (s : State) (wg b : Nat) (f : Braid → Braid) : (s.modBrd wg b f).outbox = s.outbox := rfl
@[simp] theorem State.modBrd_threads (s : State) (wg b : Nat) (f : Braid → Braid) : (s.modBrd wg b f).threads = s.threads := rfl
@[simp] theorem State.modBrd_braids (s : State) (wg b : Nat) (f : Braid → Braid) : (s.modBrd wg b f).braids = Tbl.mod s.braids (bkey wg b) f := rfl
@[simp] theorem State.modBrd_wgs (s : State) (wg b : Nat) (f : Braid → Braid) : (s.modBrd wg b f).wgs = s.wgs := rfl
@[simp] theorem State.modBrd_cores (s : State) (wg b : Nat) (f : Braid → Braid) : (s.modBrd wg b f).cores = s.cores := rfl
@[simp] theorem State.modBrd_clusters (s : State) (wg b : Nat) (f : Braid → Braid) : (s.modBrd wg b f).clusters = s.clusters := rfl
@[simp] theorem State.modBrd_dies (s : State) (wg b : Nat) (f : Braid → Braid) : (s.modBrd wg b f).dies = s.dies := rfl
@[simp] theorem State.modBrd_stackTbl (s : State) (wg b : Nat) (f : Braid → Braid) : (s.modBrd wg b f).stackTbl = s.stackTbl := rfl
@[simp] theorem State.modBrd_parts (s : State) (wg b : Nat) (f : Braid → Braid) : (s.modBrd wg b f).parts = s.parts := rfl
@[simp] theorem State.modBrd_launches (s : State) (wg b : Nat) (f : Braid → Braid) : (s.modBrd wg b f).launches = s.launches := rfl
@[simp] theorem State.modBrd_reqs (s : State) (wg b : Nat) (f : Braid → Braid) : (s.modBrd wg b f).reqs = s.reqs := rfl
@[simp] theorem State.modBrd_formed (s : State) (wg b : Nat) (f : Braid → Braid) : (s.modBrd wg b f).formed = s.formed := rfl
@[simp] theorem State.modBrd_qfences (s : State) (wg b : Nat) (f : Braid → Braid) : (s.modBrd wg b f).qfences = s.qfences := rfl
@[simp] theorem State.modBrd_ranges (s : State) (wg b : Nat) (f : Braid → Braid) : (s.modBrd wg b f).ranges = s.ranges := rfl
@[simp] theorem State.modBrd_hostWindow (s : State) (wg b : Nat) (f : Braid → Braid) : (s.modBrd wg b f).hostWindow = s.hostWindow := rfl
@[simp] theorem State.modBrd_dram (s : State) (wg b : Nat) (f : Braid → Braid) : (s.modBrd wg b f).dram = s.dram := rfl
@[simp] theorem State.modBrd_dramPoison (s : State) (wg b : Nat) (f : Braid → Braid) : (s.modBrd wg b f).dramPoison = s.dramPoison := rfl
@[simp] theorem State.modBrd_hostMem (s : State) (wg b : Nat) (f : Braid → Braid) : (s.modBrd wg b f).hostMem = s.hostMem := rfl
@[simp] theorem State.modBrd_hostPoison (s : State) (wg b : Nat) (f : Braid → Braid) : (s.modBrd wg b f).hostPoison = s.hostPoison := rfl
@[simp] theorem State.modBrd_haroot (s : State) (wg b : Nat) (f : Braid → Braid) : (s.modBrd wg b f).haroot = s.haroot := rfl
@[simp] theorem State.modBrd_piroot (s : State) (wg b : Nat) (f : Braid → Braid) : (s.modBrd wg b f).piroot = s.piroot := rfl
@[simp] theorem State.modBrd_cmroot (s : State) (wg b : Nat) (f : Braid → Braid) : (s.modBrd wg b f).cmroot = s.cmroot := rfl
@[simp] theorem State.modBrd_hatlb (s : State) (wg b : Nat) (f : Braid → Braid) : (s.modBrd wg b f).hatlb = s.hatlb := rfl
@[simp] theorem State.modBrd_pitlb (s : State) (wg b : Nat) (f : Braid → Braid) : (s.modBrd wg b f).pitlb = s.pitlb := rfl
@[simp] theorem State.modBrd_cmtlb (s : State) (wg b : Nat) (f : Braid → Braid) : (s.modBrd wg b f).cmtlb = s.cmtlb := rfl
@[simp] theorem State.modBrd_devidx (s : State) (wg b : Nat) (f : Braid → Braid) : (s.modBrd wg b f).devidx = s.devidx := rfl
@[simp] theorem State.modBrd_ports (s : State) (wg b : Nat) (f : Braid → Braid) : (s.modBrd wg b f).ports = s.ports := rfl
@[simp] theorem State.modBrd_lost (s : State) (wg b : Nat) (f : Braid → Braid) : (s.modBrd wg b f).lost = s.lost := rfl
@[simp] theorem State.modBrd_peerMem (s : State) (wg b : Nat) (f : Braid → Braid) : (s.modBrd wg b f).peerMem = s.peerMem := rfl
@[simp] theorem State.modBrd_peerOpen (s : State) (wg b : Nat) (f : Braid → Braid) : (s.modBrd wg b f).peerOpen = s.peerOpen := rfl
@[simp] theorem State.modBrd_peerDone (s : State) (wg b : Nat) (f : Braid → Braid) : (s.modBrd wg b f).peerDone = s.peerDone := rfl
@[simp] theorem State.modBrd_peerReqs (s : State) (wg b : Nat) (f : Braid → Braid) : (s.modBrd wg b f).peerReqs = s.peerReqs := rfl
@[simp] theorem State.modBrd_cxlUp (s : State) (wg b : Nat) (f : Braid → Braid) : (s.modBrd wg b f).cxlUp = s.cxlUp := rfl
@[simp] theorem State.modBrd_hdmBase (s : State) (wg b : Nat) (f : Braid → Braid) : (s.modBrd wg b f).hdmBase = s.hdmBase := rfl
@[simp] theorem State.modBrd_hdmSize (s : State) (wg b : Nat) (f : Braid → Braid) : (s.modBrd wg b f).hdmSize = s.hdmSize := rfl
@[simp] theorem State.modBrd_cxlRegs (s : State) (wg b : Nat) (f : Braid → Braid) : (s.modBrd wg b f).cxlRegs = s.cxlRegs := rfl
@[simp] theorem State.modBrd_msixMask (s : State) (wg b : Nat) (f : Braid → Braid) : (s.modBrd wg b f).msixMask = s.msixMask := rfl
@[simp] theorem State.modBrd_msixPend (s : State) (wg b : Nat) (f : Braid → Braid) : (s.modBrd wg b f).msixPend = s.msixPend := rfl
@[simp] theorem State.modBrd_msixTable (s : State) (wg b : Nat) (f : Braid → Braid) : (s.modBrd wg b f).msixTable = s.msixTable := rfl
@[simp] theorem State.modBrd_failedAdds (s : State) (wg b : Nat) (f : Braid → Braid) : (s.modBrd wg b f).failedAdds = s.failedAdds := rfl
@[simp] theorem State.modBrd_heldAdds (s : State) (wg b : Nat) (f : Braid → Braid) : (s.modBrd wg b f).heldAdds = s.heldAdds := rfl
@[simp] theorem State.modBrd_heldBacks (s : State) (wg b : Nat) (f : Braid → Braid) : (s.modBrd wg b f).heldBacks = s.heldBacks := rfl
@[simp] theorem State.modBrd_regionFaults (s : State) (wg b : Nat) (f : Braid → Braid) : (s.modBrd wg b f).regionFaults = s.regionFaults := rfl
@[simp] theorem State.modBrd_slotA (s : State) (wg b : Nat) (f : Braid → Braid) : (s.modBrd wg b f).slotA = s.slotA := rfl
@[simp] theorem State.modBrd_slotB (s : State) (wg b : Nat) (f : Braid → Braid) : (s.modBrd wg b f).slotB = s.slotB := rfl
@[simp] theorem State.modBrd_bootStep (s : State) (wg b : Nat) (f : Braid → Braid) : (s.modBrd wg b f).bootStep = s.bootStep := rfl
@[simp] theorem State.modBrd_fuseIdx (s : State) (wg b : Nat) (f : Braid → Braid) : (s.modBrd wg b f).fuseIdx = s.fuseIdx := rfl
@[simp] theorem State.modBrd_keyDigest (s : State) (wg b : Nat) (f : Braid → Braid) : (s.modBrd wg b f).keyDigest = s.keyDigest := rfl
@[simp] theorem State.modBrd_svnFloor (s : State) (wg b : Nat) (f : Braid → Braid) : (s.modBrd wg b f).svnFloor = s.svnFloor := rfl
@[simp] theorem State.modBrd_reserveUsed (s : State) (wg b : Nat) (f : Braid → Braid) : (s.modBrd wg b f).reserveUsed = s.reserveUsed := rfl
@[simp] theorem State.modBrd_removed (s : State) (wg b : Nat) (f : Braid → Braid) : (s.modBrd wg b f).removed = s.removed := rfl
@[simp] theorem State.modBrd_tripped (s : State) (wg b : Nat) (f : Braid → Braid) : (s.modBrd wg b f).tripped = s.tripped := rfl
@[simp] theorem State.modBrd_spdm (s : State) (wg b : Nat) (f : Braid → Braid) : (s.modBrd wg b f).spdm = s.spdm := rfl

/-! ## `State.modWg` -/

@[simp] theorem State.modWg_clk (s : State) (wg : Nat) (f : Workgroup → Workgroup) : (s.modWg wg f).clk = s.clk := rfl
@[simp] theorem State.modWg_seq (s : State) (wg : Nat) (f : Workgroup → Workgroup) : (s.modWg wg f).seq = s.seq := rfl
@[simp] theorem State.modWg_nextId (s : State) (wg : Nat) (f : Workgroup → Workgroup) : (s.modWg wg f).nextId = s.nextId := rfl
@[simp] theorem State.modWg_draws (s : State) (wg : Nat) (f : Workgroup → Workgroup) : (s.modWg wg f).draws = s.draws := rfl
@[simp] theorem State.modWg_cur (s : State) (wg : Nat) (f : Workgroup → Workgroup) : (s.modWg wg f).cur = s.cur := rfl
@[simp] theorem State.modWg_agenda (s : State) (wg : Nat) (f : Workgroup → Workgroup) : (s.modWg wg f).agenda = s.agenda := rfl
@[simp] theorem State.modWg_inbox (s : State) (wg : Nat) (f : Workgroup → Workgroup) : (s.modWg wg f).inbox = s.inbox := rfl
@[simp] theorem State.modWg_msg (s : State) (wg : Nat) (f : Workgroup → Workgroup) : (s.modWg wg f).msg = s.msg := rfl
@[simp] theorem State.modWg_outbox (s : State) (wg : Nat) (f : Workgroup → Workgroup) : (s.modWg wg f).outbox = s.outbox := rfl
@[simp] theorem State.modWg_threads (s : State) (wg : Nat) (f : Workgroup → Workgroup) : (s.modWg wg f).threads = s.threads := rfl
@[simp] theorem State.modWg_braids (s : State) (wg : Nat) (f : Workgroup → Workgroup) : (s.modWg wg f).braids = s.braids := rfl
@[simp] theorem State.modWg_wgs (s : State) (wg : Nat) (f : Workgroup → Workgroup) : (s.modWg wg f).wgs = Tbl.mod s.wgs wg f := rfl
@[simp] theorem State.modWg_cores (s : State) (wg : Nat) (f : Workgroup → Workgroup) : (s.modWg wg f).cores = s.cores := rfl
@[simp] theorem State.modWg_clusters (s : State) (wg : Nat) (f : Workgroup → Workgroup) : (s.modWg wg f).clusters = s.clusters := rfl
@[simp] theorem State.modWg_dies (s : State) (wg : Nat) (f : Workgroup → Workgroup) : (s.modWg wg f).dies = s.dies := rfl
@[simp] theorem State.modWg_stackTbl (s : State) (wg : Nat) (f : Workgroup → Workgroup) : (s.modWg wg f).stackTbl = s.stackTbl := rfl
@[simp] theorem State.modWg_parts (s : State) (wg : Nat) (f : Workgroup → Workgroup) : (s.modWg wg f).parts = s.parts := rfl
@[simp] theorem State.modWg_launches (s : State) (wg : Nat) (f : Workgroup → Workgroup) : (s.modWg wg f).launches = s.launches := rfl
@[simp] theorem State.modWg_reqs (s : State) (wg : Nat) (f : Workgroup → Workgroup) : (s.modWg wg f).reqs = s.reqs := rfl
@[simp] theorem State.modWg_formed (s : State) (wg : Nat) (f : Workgroup → Workgroup) : (s.modWg wg f).formed = s.formed := rfl
@[simp] theorem State.modWg_qfences (s : State) (wg : Nat) (f : Workgroup → Workgroup) : (s.modWg wg f).qfences = s.qfences := rfl
@[simp] theorem State.modWg_ranges (s : State) (wg : Nat) (f : Workgroup → Workgroup) : (s.modWg wg f).ranges = s.ranges := rfl
@[simp] theorem State.modWg_hostWindow (s : State) (wg : Nat) (f : Workgroup → Workgroup) : (s.modWg wg f).hostWindow = s.hostWindow := rfl
@[simp] theorem State.modWg_dram (s : State) (wg : Nat) (f : Workgroup → Workgroup) : (s.modWg wg f).dram = s.dram := rfl
@[simp] theorem State.modWg_dramPoison (s : State) (wg : Nat) (f : Workgroup → Workgroup) : (s.modWg wg f).dramPoison = s.dramPoison := rfl
@[simp] theorem State.modWg_hostMem (s : State) (wg : Nat) (f : Workgroup → Workgroup) : (s.modWg wg f).hostMem = s.hostMem := rfl
@[simp] theorem State.modWg_hostPoison (s : State) (wg : Nat) (f : Workgroup → Workgroup) : (s.modWg wg f).hostPoison = s.hostPoison := rfl
@[simp] theorem State.modWg_haroot (s : State) (wg : Nat) (f : Workgroup → Workgroup) : (s.modWg wg f).haroot = s.haroot := rfl
@[simp] theorem State.modWg_piroot (s : State) (wg : Nat) (f : Workgroup → Workgroup) : (s.modWg wg f).piroot = s.piroot := rfl
@[simp] theorem State.modWg_cmroot (s : State) (wg : Nat) (f : Workgroup → Workgroup) : (s.modWg wg f).cmroot = s.cmroot := rfl
@[simp] theorem State.modWg_hatlb (s : State) (wg : Nat) (f : Workgroup → Workgroup) : (s.modWg wg f).hatlb = s.hatlb := rfl
@[simp] theorem State.modWg_pitlb (s : State) (wg : Nat) (f : Workgroup → Workgroup) : (s.modWg wg f).pitlb = s.pitlb := rfl
@[simp] theorem State.modWg_cmtlb (s : State) (wg : Nat) (f : Workgroup → Workgroup) : (s.modWg wg f).cmtlb = s.cmtlb := rfl
@[simp] theorem State.modWg_devidx (s : State) (wg : Nat) (f : Workgroup → Workgroup) : (s.modWg wg f).devidx = s.devidx := rfl
@[simp] theorem State.modWg_ports (s : State) (wg : Nat) (f : Workgroup → Workgroup) : (s.modWg wg f).ports = s.ports := rfl
@[simp] theorem State.modWg_lost (s : State) (wg : Nat) (f : Workgroup → Workgroup) : (s.modWg wg f).lost = s.lost := rfl
@[simp] theorem State.modWg_peerMem (s : State) (wg : Nat) (f : Workgroup → Workgroup) : (s.modWg wg f).peerMem = s.peerMem := rfl
@[simp] theorem State.modWg_peerOpen (s : State) (wg : Nat) (f : Workgroup → Workgroup) : (s.modWg wg f).peerOpen = s.peerOpen := rfl
@[simp] theorem State.modWg_peerDone (s : State) (wg : Nat) (f : Workgroup → Workgroup) : (s.modWg wg f).peerDone = s.peerDone := rfl
@[simp] theorem State.modWg_peerReqs (s : State) (wg : Nat) (f : Workgroup → Workgroup) : (s.modWg wg f).peerReqs = s.peerReqs := rfl
@[simp] theorem State.modWg_cxlUp (s : State) (wg : Nat) (f : Workgroup → Workgroup) : (s.modWg wg f).cxlUp = s.cxlUp := rfl
@[simp] theorem State.modWg_hdmBase (s : State) (wg : Nat) (f : Workgroup → Workgroup) : (s.modWg wg f).hdmBase = s.hdmBase := rfl
@[simp] theorem State.modWg_hdmSize (s : State) (wg : Nat) (f : Workgroup → Workgroup) : (s.modWg wg f).hdmSize = s.hdmSize := rfl
@[simp] theorem State.modWg_cxlRegs (s : State) (wg : Nat) (f : Workgroup → Workgroup) : (s.modWg wg f).cxlRegs = s.cxlRegs := rfl
@[simp] theorem State.modWg_msixMask (s : State) (wg : Nat) (f : Workgroup → Workgroup) : (s.modWg wg f).msixMask = s.msixMask := rfl
@[simp] theorem State.modWg_msixPend (s : State) (wg : Nat) (f : Workgroup → Workgroup) : (s.modWg wg f).msixPend = s.msixPend := rfl
@[simp] theorem State.modWg_msixTable (s : State) (wg : Nat) (f : Workgroup → Workgroup) : (s.modWg wg f).msixTable = s.msixTable := rfl
@[simp] theorem State.modWg_failedAdds (s : State) (wg : Nat) (f : Workgroup → Workgroup) : (s.modWg wg f).failedAdds = s.failedAdds := rfl
@[simp] theorem State.modWg_heldAdds (s : State) (wg : Nat) (f : Workgroup → Workgroup) : (s.modWg wg f).heldAdds = s.heldAdds := rfl
@[simp] theorem State.modWg_heldBacks (s : State) (wg : Nat) (f : Workgroup → Workgroup) : (s.modWg wg f).heldBacks = s.heldBacks := rfl
@[simp] theorem State.modWg_regionFaults (s : State) (wg : Nat) (f : Workgroup → Workgroup) : (s.modWg wg f).regionFaults = s.regionFaults := rfl
@[simp] theorem State.modWg_slotA (s : State) (wg : Nat) (f : Workgroup → Workgroup) : (s.modWg wg f).slotA = s.slotA := rfl
@[simp] theorem State.modWg_slotB (s : State) (wg : Nat) (f : Workgroup → Workgroup) : (s.modWg wg f).slotB = s.slotB := rfl
@[simp] theorem State.modWg_bootStep (s : State) (wg : Nat) (f : Workgroup → Workgroup) : (s.modWg wg f).bootStep = s.bootStep := rfl
@[simp] theorem State.modWg_fuseIdx (s : State) (wg : Nat) (f : Workgroup → Workgroup) : (s.modWg wg f).fuseIdx = s.fuseIdx := rfl
@[simp] theorem State.modWg_keyDigest (s : State) (wg : Nat) (f : Workgroup → Workgroup) : (s.modWg wg f).keyDigest = s.keyDigest := rfl
@[simp] theorem State.modWg_svnFloor (s : State) (wg : Nat) (f : Workgroup → Workgroup) : (s.modWg wg f).svnFloor = s.svnFloor := rfl
@[simp] theorem State.modWg_reserveUsed (s : State) (wg : Nat) (f : Workgroup → Workgroup) : (s.modWg wg f).reserveUsed = s.reserveUsed := rfl
@[simp] theorem State.modWg_removed (s : State) (wg : Nat) (f : Workgroup → Workgroup) : (s.modWg wg f).removed = s.removed := rfl
@[simp] theorem State.modWg_tripped (s : State) (wg : Nat) (f : Workgroup → Workgroup) : (s.modWg wg f).tripped = s.tripped := rfl
@[simp] theorem State.modWg_spdm (s : State) (wg : Nat) (f : Workgroup → Workgroup) : (s.modWg wg f).spdm = s.spdm := rfl

/-! ## `State.modCore` -/

@[simp] theorem State.modCore_clk (s : State) (c : Nat) (f : Core → Core) : (s.modCore c f).clk = s.clk := rfl
@[simp] theorem State.modCore_seq (s : State) (c : Nat) (f : Core → Core) : (s.modCore c f).seq = s.seq := rfl
@[simp] theorem State.modCore_nextId (s : State) (c : Nat) (f : Core → Core) : (s.modCore c f).nextId = s.nextId := rfl
@[simp] theorem State.modCore_draws (s : State) (c : Nat) (f : Core → Core) : (s.modCore c f).draws = s.draws := rfl
@[simp] theorem State.modCore_cur (s : State) (c : Nat) (f : Core → Core) : (s.modCore c f).cur = s.cur := rfl
@[simp] theorem State.modCore_agenda (s : State) (c : Nat) (f : Core → Core) : (s.modCore c f).agenda = s.agenda := rfl
@[simp] theorem State.modCore_inbox (s : State) (c : Nat) (f : Core → Core) : (s.modCore c f).inbox = s.inbox := rfl
@[simp] theorem State.modCore_msg (s : State) (c : Nat) (f : Core → Core) : (s.modCore c f).msg = s.msg := rfl
@[simp] theorem State.modCore_outbox (s : State) (c : Nat) (f : Core → Core) : (s.modCore c f).outbox = s.outbox := rfl
@[simp] theorem State.modCore_threads (s : State) (c : Nat) (f : Core → Core) : (s.modCore c f).threads = s.threads := rfl
@[simp] theorem State.modCore_braids (s : State) (c : Nat) (f : Core → Core) : (s.modCore c f).braids = s.braids := rfl
@[simp] theorem State.modCore_wgs (s : State) (c : Nat) (f : Core → Core) : (s.modCore c f).wgs = s.wgs := rfl
@[simp] theorem State.modCore_cores (s : State) (c : Nat) (f : Core → Core) : (s.modCore c f).cores = Tbl.put s.cores c (f (s.core c)) := rfl
@[simp] theorem State.modCore_clusters (s : State) (c : Nat) (f : Core → Core) : (s.modCore c f).clusters = s.clusters := rfl
@[simp] theorem State.modCore_dies (s : State) (c : Nat) (f : Core → Core) : (s.modCore c f).dies = s.dies := rfl
@[simp] theorem State.modCore_stackTbl (s : State) (c : Nat) (f : Core → Core) : (s.modCore c f).stackTbl = s.stackTbl := rfl
@[simp] theorem State.modCore_parts (s : State) (c : Nat) (f : Core → Core) : (s.modCore c f).parts = s.parts := rfl
@[simp] theorem State.modCore_launches (s : State) (c : Nat) (f : Core → Core) : (s.modCore c f).launches = s.launches := rfl
@[simp] theorem State.modCore_reqs (s : State) (c : Nat) (f : Core → Core) : (s.modCore c f).reqs = s.reqs := rfl
@[simp] theorem State.modCore_formed (s : State) (c : Nat) (f : Core → Core) : (s.modCore c f).formed = s.formed := rfl
@[simp] theorem State.modCore_qfences (s : State) (c : Nat) (f : Core → Core) : (s.modCore c f).qfences = s.qfences := rfl
@[simp] theorem State.modCore_ranges (s : State) (c : Nat) (f : Core → Core) : (s.modCore c f).ranges = s.ranges := rfl
@[simp] theorem State.modCore_hostWindow (s : State) (c : Nat) (f : Core → Core) : (s.modCore c f).hostWindow = s.hostWindow := rfl
@[simp] theorem State.modCore_dram (s : State) (c : Nat) (f : Core → Core) : (s.modCore c f).dram = s.dram := rfl
@[simp] theorem State.modCore_dramPoison (s : State) (c : Nat) (f : Core → Core) : (s.modCore c f).dramPoison = s.dramPoison := rfl
@[simp] theorem State.modCore_hostMem (s : State) (c : Nat) (f : Core → Core) : (s.modCore c f).hostMem = s.hostMem := rfl
@[simp] theorem State.modCore_hostPoison (s : State) (c : Nat) (f : Core → Core) : (s.modCore c f).hostPoison = s.hostPoison := rfl
@[simp] theorem State.modCore_haroot (s : State) (c : Nat) (f : Core → Core) : (s.modCore c f).haroot = s.haroot := rfl
@[simp] theorem State.modCore_piroot (s : State) (c : Nat) (f : Core → Core) : (s.modCore c f).piroot = s.piroot := rfl
@[simp] theorem State.modCore_cmroot (s : State) (c : Nat) (f : Core → Core) : (s.modCore c f).cmroot = s.cmroot := rfl
@[simp] theorem State.modCore_hatlb (s : State) (c : Nat) (f : Core → Core) : (s.modCore c f).hatlb = s.hatlb := rfl
@[simp] theorem State.modCore_pitlb (s : State) (c : Nat) (f : Core → Core) : (s.modCore c f).pitlb = s.pitlb := rfl
@[simp] theorem State.modCore_cmtlb (s : State) (c : Nat) (f : Core → Core) : (s.modCore c f).cmtlb = s.cmtlb := rfl
@[simp] theorem State.modCore_devidx (s : State) (c : Nat) (f : Core → Core) : (s.modCore c f).devidx = s.devidx := rfl
@[simp] theorem State.modCore_ports (s : State) (c : Nat) (f : Core → Core) : (s.modCore c f).ports = s.ports := rfl
@[simp] theorem State.modCore_lost (s : State) (c : Nat) (f : Core → Core) : (s.modCore c f).lost = s.lost := rfl
@[simp] theorem State.modCore_peerMem (s : State) (c : Nat) (f : Core → Core) : (s.modCore c f).peerMem = s.peerMem := rfl
@[simp] theorem State.modCore_peerOpen (s : State) (c : Nat) (f : Core → Core) : (s.modCore c f).peerOpen = s.peerOpen := rfl
@[simp] theorem State.modCore_peerDone (s : State) (c : Nat) (f : Core → Core) : (s.modCore c f).peerDone = s.peerDone := rfl
@[simp] theorem State.modCore_peerReqs (s : State) (c : Nat) (f : Core → Core) : (s.modCore c f).peerReqs = s.peerReqs := rfl
@[simp] theorem State.modCore_cxlUp (s : State) (c : Nat) (f : Core → Core) : (s.modCore c f).cxlUp = s.cxlUp := rfl
@[simp] theorem State.modCore_hdmBase (s : State) (c : Nat) (f : Core → Core) : (s.modCore c f).hdmBase = s.hdmBase := rfl
@[simp] theorem State.modCore_hdmSize (s : State) (c : Nat) (f : Core → Core) : (s.modCore c f).hdmSize = s.hdmSize := rfl
@[simp] theorem State.modCore_cxlRegs (s : State) (c : Nat) (f : Core → Core) : (s.modCore c f).cxlRegs = s.cxlRegs := rfl
@[simp] theorem State.modCore_msixMask (s : State) (c : Nat) (f : Core → Core) : (s.modCore c f).msixMask = s.msixMask := rfl
@[simp] theorem State.modCore_msixPend (s : State) (c : Nat) (f : Core → Core) : (s.modCore c f).msixPend = s.msixPend := rfl
@[simp] theorem State.modCore_msixTable (s : State) (c : Nat) (f : Core → Core) : (s.modCore c f).msixTable = s.msixTable := rfl
@[simp] theorem State.modCore_failedAdds (s : State) (c : Nat) (f : Core → Core) : (s.modCore c f).failedAdds = s.failedAdds := rfl
@[simp] theorem State.modCore_heldAdds (s : State) (c : Nat) (f : Core → Core) : (s.modCore c f).heldAdds = s.heldAdds := rfl
@[simp] theorem State.modCore_heldBacks (s : State) (c : Nat) (f : Core → Core) : (s.modCore c f).heldBacks = s.heldBacks := rfl
@[simp] theorem State.modCore_regionFaults (s : State) (c : Nat) (f : Core → Core) : (s.modCore c f).regionFaults = s.regionFaults := rfl
@[simp] theorem State.modCore_slotA (s : State) (c : Nat) (f : Core → Core) : (s.modCore c f).slotA = s.slotA := rfl
@[simp] theorem State.modCore_slotB (s : State) (c : Nat) (f : Core → Core) : (s.modCore c f).slotB = s.slotB := rfl
@[simp] theorem State.modCore_bootStep (s : State) (c : Nat) (f : Core → Core) : (s.modCore c f).bootStep = s.bootStep := rfl
@[simp] theorem State.modCore_fuseIdx (s : State) (c : Nat) (f : Core → Core) : (s.modCore c f).fuseIdx = s.fuseIdx := rfl
@[simp] theorem State.modCore_keyDigest (s : State) (c : Nat) (f : Core → Core) : (s.modCore c f).keyDigest = s.keyDigest := rfl
@[simp] theorem State.modCore_svnFloor (s : State) (c : Nat) (f : Core → Core) : (s.modCore c f).svnFloor = s.svnFloor := rfl
@[simp] theorem State.modCore_reserveUsed (s : State) (c : Nat) (f : Core → Core) : (s.modCore c f).reserveUsed = s.reserveUsed := rfl
@[simp] theorem State.modCore_removed (s : State) (c : Nat) (f : Core → Core) : (s.modCore c f).removed = s.removed := rfl
@[simp] theorem State.modCore_tripped (s : State) (c : Nat) (f : Core → Core) : (s.modCore c f).tripped = s.tripped := rfl
@[simp] theorem State.modCore_spdm (s : State) (c : Nat) (f : Core → Core) : (s.modCore c f).spdm = s.spdm := rfl

/-! ## `State.modCluster` -/

@[simp] theorem State.modCluster_clk (s : State) (c : Nat) (f : Cluster → Cluster) : (s.modCluster c f).clk = s.clk := rfl
@[simp] theorem State.modCluster_seq (s : State) (c : Nat) (f : Cluster → Cluster) : (s.modCluster c f).seq = s.seq := rfl
@[simp] theorem State.modCluster_nextId (s : State) (c : Nat) (f : Cluster → Cluster) : (s.modCluster c f).nextId = s.nextId := rfl
@[simp] theorem State.modCluster_draws (s : State) (c : Nat) (f : Cluster → Cluster) : (s.modCluster c f).draws = s.draws := rfl
@[simp] theorem State.modCluster_cur (s : State) (c : Nat) (f : Cluster → Cluster) : (s.modCluster c f).cur = s.cur := rfl
@[simp] theorem State.modCluster_agenda (s : State) (c : Nat) (f : Cluster → Cluster) : (s.modCluster c f).agenda = s.agenda := rfl
@[simp] theorem State.modCluster_inbox (s : State) (c : Nat) (f : Cluster → Cluster) : (s.modCluster c f).inbox = s.inbox := rfl
@[simp] theorem State.modCluster_msg (s : State) (c : Nat) (f : Cluster → Cluster) : (s.modCluster c f).msg = s.msg := rfl
@[simp] theorem State.modCluster_outbox (s : State) (c : Nat) (f : Cluster → Cluster) : (s.modCluster c f).outbox = s.outbox := rfl
@[simp] theorem State.modCluster_threads (s : State) (c : Nat) (f : Cluster → Cluster) : (s.modCluster c f).threads = s.threads := rfl
@[simp] theorem State.modCluster_braids (s : State) (c : Nat) (f : Cluster → Cluster) : (s.modCluster c f).braids = s.braids := rfl
@[simp] theorem State.modCluster_wgs (s : State) (c : Nat) (f : Cluster → Cluster) : (s.modCluster c f).wgs = s.wgs := rfl
@[simp] theorem State.modCluster_cores (s : State) (c : Nat) (f : Cluster → Cluster) : (s.modCluster c f).cores = s.cores := rfl
@[simp] theorem State.modCluster_clusters (s : State) (c : Nat) (f : Cluster → Cluster) : (s.modCluster c f).clusters = Tbl.put s.clusters c (f (s.cluster c)) := rfl
@[simp] theorem State.modCluster_dies (s : State) (c : Nat) (f : Cluster → Cluster) : (s.modCluster c f).dies = s.dies := rfl
@[simp] theorem State.modCluster_stackTbl (s : State) (c : Nat) (f : Cluster → Cluster) : (s.modCluster c f).stackTbl = s.stackTbl := rfl
@[simp] theorem State.modCluster_parts (s : State) (c : Nat) (f : Cluster → Cluster) : (s.modCluster c f).parts = s.parts := rfl
@[simp] theorem State.modCluster_launches (s : State) (c : Nat) (f : Cluster → Cluster) : (s.modCluster c f).launches = s.launches := rfl
@[simp] theorem State.modCluster_reqs (s : State) (c : Nat) (f : Cluster → Cluster) : (s.modCluster c f).reqs = s.reqs := rfl
@[simp] theorem State.modCluster_formed (s : State) (c : Nat) (f : Cluster → Cluster) : (s.modCluster c f).formed = s.formed := rfl
@[simp] theorem State.modCluster_qfences (s : State) (c : Nat) (f : Cluster → Cluster) : (s.modCluster c f).qfences = s.qfences := rfl
@[simp] theorem State.modCluster_ranges (s : State) (c : Nat) (f : Cluster → Cluster) : (s.modCluster c f).ranges = s.ranges := rfl
@[simp] theorem State.modCluster_hostWindow (s : State) (c : Nat) (f : Cluster → Cluster) : (s.modCluster c f).hostWindow = s.hostWindow := rfl
@[simp] theorem State.modCluster_dram (s : State) (c : Nat) (f : Cluster → Cluster) : (s.modCluster c f).dram = s.dram := rfl
@[simp] theorem State.modCluster_dramPoison (s : State) (c : Nat) (f : Cluster → Cluster) : (s.modCluster c f).dramPoison = s.dramPoison := rfl
@[simp] theorem State.modCluster_hostMem (s : State) (c : Nat) (f : Cluster → Cluster) : (s.modCluster c f).hostMem = s.hostMem := rfl
@[simp] theorem State.modCluster_hostPoison (s : State) (c : Nat) (f : Cluster → Cluster) : (s.modCluster c f).hostPoison = s.hostPoison := rfl
@[simp] theorem State.modCluster_haroot (s : State) (c : Nat) (f : Cluster → Cluster) : (s.modCluster c f).haroot = s.haroot := rfl
@[simp] theorem State.modCluster_piroot (s : State) (c : Nat) (f : Cluster → Cluster) : (s.modCluster c f).piroot = s.piroot := rfl
@[simp] theorem State.modCluster_cmroot (s : State) (c : Nat) (f : Cluster → Cluster) : (s.modCluster c f).cmroot = s.cmroot := rfl
@[simp] theorem State.modCluster_hatlb (s : State) (c : Nat) (f : Cluster → Cluster) : (s.modCluster c f).hatlb = s.hatlb := rfl
@[simp] theorem State.modCluster_pitlb (s : State) (c : Nat) (f : Cluster → Cluster) : (s.modCluster c f).pitlb = s.pitlb := rfl
@[simp] theorem State.modCluster_cmtlb (s : State) (c : Nat) (f : Cluster → Cluster) : (s.modCluster c f).cmtlb = s.cmtlb := rfl
@[simp] theorem State.modCluster_devidx (s : State) (c : Nat) (f : Cluster → Cluster) : (s.modCluster c f).devidx = s.devidx := rfl
@[simp] theorem State.modCluster_ports (s : State) (c : Nat) (f : Cluster → Cluster) : (s.modCluster c f).ports = s.ports := rfl
@[simp] theorem State.modCluster_lost (s : State) (c : Nat) (f : Cluster → Cluster) : (s.modCluster c f).lost = s.lost := rfl
@[simp] theorem State.modCluster_peerMem (s : State) (c : Nat) (f : Cluster → Cluster) : (s.modCluster c f).peerMem = s.peerMem := rfl
@[simp] theorem State.modCluster_peerOpen (s : State) (c : Nat) (f : Cluster → Cluster) : (s.modCluster c f).peerOpen = s.peerOpen := rfl
@[simp] theorem State.modCluster_peerDone (s : State) (c : Nat) (f : Cluster → Cluster) : (s.modCluster c f).peerDone = s.peerDone := rfl
@[simp] theorem State.modCluster_peerReqs (s : State) (c : Nat) (f : Cluster → Cluster) : (s.modCluster c f).peerReqs = s.peerReqs := rfl
@[simp] theorem State.modCluster_cxlUp (s : State) (c : Nat) (f : Cluster → Cluster) : (s.modCluster c f).cxlUp = s.cxlUp := rfl
@[simp] theorem State.modCluster_hdmBase (s : State) (c : Nat) (f : Cluster → Cluster) : (s.modCluster c f).hdmBase = s.hdmBase := rfl
@[simp] theorem State.modCluster_hdmSize (s : State) (c : Nat) (f : Cluster → Cluster) : (s.modCluster c f).hdmSize = s.hdmSize := rfl
@[simp] theorem State.modCluster_cxlRegs (s : State) (c : Nat) (f : Cluster → Cluster) : (s.modCluster c f).cxlRegs = s.cxlRegs := rfl
@[simp] theorem State.modCluster_msixMask (s : State) (c : Nat) (f : Cluster → Cluster) : (s.modCluster c f).msixMask = s.msixMask := rfl
@[simp] theorem State.modCluster_msixPend (s : State) (c : Nat) (f : Cluster → Cluster) : (s.modCluster c f).msixPend = s.msixPend := rfl
@[simp] theorem State.modCluster_msixTable (s : State) (c : Nat) (f : Cluster → Cluster) : (s.modCluster c f).msixTable = s.msixTable := rfl
@[simp] theorem State.modCluster_failedAdds (s : State) (c : Nat) (f : Cluster → Cluster) : (s.modCluster c f).failedAdds = s.failedAdds := rfl
@[simp] theorem State.modCluster_heldAdds (s : State) (c : Nat) (f : Cluster → Cluster) : (s.modCluster c f).heldAdds = s.heldAdds := rfl
@[simp] theorem State.modCluster_heldBacks (s : State) (c : Nat) (f : Cluster → Cluster) : (s.modCluster c f).heldBacks = s.heldBacks := rfl
@[simp] theorem State.modCluster_regionFaults (s : State) (c : Nat) (f : Cluster → Cluster) : (s.modCluster c f).regionFaults = s.regionFaults := rfl
@[simp] theorem State.modCluster_slotA (s : State) (c : Nat) (f : Cluster → Cluster) : (s.modCluster c f).slotA = s.slotA := rfl
@[simp] theorem State.modCluster_slotB (s : State) (c : Nat) (f : Cluster → Cluster) : (s.modCluster c f).slotB = s.slotB := rfl
@[simp] theorem State.modCluster_bootStep (s : State) (c : Nat) (f : Cluster → Cluster) : (s.modCluster c f).bootStep = s.bootStep := rfl
@[simp] theorem State.modCluster_fuseIdx (s : State) (c : Nat) (f : Cluster → Cluster) : (s.modCluster c f).fuseIdx = s.fuseIdx := rfl
@[simp] theorem State.modCluster_keyDigest (s : State) (c : Nat) (f : Cluster → Cluster) : (s.modCluster c f).keyDigest = s.keyDigest := rfl
@[simp] theorem State.modCluster_svnFloor (s : State) (c : Nat) (f : Cluster → Cluster) : (s.modCluster c f).svnFloor = s.svnFloor := rfl
@[simp] theorem State.modCluster_reserveUsed (s : State) (c : Nat) (f : Cluster → Cluster) : (s.modCluster c f).reserveUsed = s.reserveUsed := rfl
@[simp] theorem State.modCluster_removed (s : State) (c : Nat) (f : Cluster → Cluster) : (s.modCluster c f).removed = s.removed := rfl
@[simp] theorem State.modCluster_tripped (s : State) (c : Nat) (f : Cluster → Cluster) : (s.modCluster c f).tripped = s.tripped := rfl
@[simp] theorem State.modCluster_spdm (s : State) (c : Nat) (f : Cluster → Cluster) : (s.modCluster c f).spdm = s.spdm := rfl

/-! ## `State.modDie` -/

@[simp] theorem State.modDie_clk (s : State) (d : Nat) (f : Die → Die) : (s.modDie d f).clk = s.clk := rfl
@[simp] theorem State.modDie_seq (s : State) (d : Nat) (f : Die → Die) : (s.modDie d f).seq = s.seq := rfl
@[simp] theorem State.modDie_nextId (s : State) (d : Nat) (f : Die → Die) : (s.modDie d f).nextId = s.nextId := rfl
@[simp] theorem State.modDie_draws (s : State) (d : Nat) (f : Die → Die) : (s.modDie d f).draws = s.draws := rfl
@[simp] theorem State.modDie_cur (s : State) (d : Nat) (f : Die → Die) : (s.modDie d f).cur = s.cur := rfl
@[simp] theorem State.modDie_agenda (s : State) (d : Nat) (f : Die → Die) : (s.modDie d f).agenda = s.agenda := rfl
@[simp] theorem State.modDie_inbox (s : State) (d : Nat) (f : Die → Die) : (s.modDie d f).inbox = s.inbox := rfl
@[simp] theorem State.modDie_msg (s : State) (d : Nat) (f : Die → Die) : (s.modDie d f).msg = s.msg := rfl
@[simp] theorem State.modDie_outbox (s : State) (d : Nat) (f : Die → Die) : (s.modDie d f).outbox = s.outbox := rfl
@[simp] theorem State.modDie_threads (s : State) (d : Nat) (f : Die → Die) : (s.modDie d f).threads = s.threads := rfl
@[simp] theorem State.modDie_braids (s : State) (d : Nat) (f : Die → Die) : (s.modDie d f).braids = s.braids := rfl
@[simp] theorem State.modDie_wgs (s : State) (d : Nat) (f : Die → Die) : (s.modDie d f).wgs = s.wgs := rfl
@[simp] theorem State.modDie_cores (s : State) (d : Nat) (f : Die → Die) : (s.modDie d f).cores = s.cores := rfl
@[simp] theorem State.modDie_clusters (s : State) (d : Nat) (f : Die → Die) : (s.modDie d f).clusters = s.clusters := rfl
@[simp] theorem State.modDie_dies (s : State) (d : Nat) (f : Die → Die) : (s.modDie d f).dies = Tbl.put s.dies d (f (s.die d)) := rfl
@[simp] theorem State.modDie_stackTbl (s : State) (d : Nat) (f : Die → Die) : (s.modDie d f).stackTbl = s.stackTbl := rfl
@[simp] theorem State.modDie_parts (s : State) (d : Nat) (f : Die → Die) : (s.modDie d f).parts = s.parts := rfl
@[simp] theorem State.modDie_launches (s : State) (d : Nat) (f : Die → Die) : (s.modDie d f).launches = s.launches := rfl
@[simp] theorem State.modDie_reqs (s : State) (d : Nat) (f : Die → Die) : (s.modDie d f).reqs = s.reqs := rfl
@[simp] theorem State.modDie_formed (s : State) (d : Nat) (f : Die → Die) : (s.modDie d f).formed = s.formed := rfl
@[simp] theorem State.modDie_qfences (s : State) (d : Nat) (f : Die → Die) : (s.modDie d f).qfences = s.qfences := rfl
@[simp] theorem State.modDie_ranges (s : State) (d : Nat) (f : Die → Die) : (s.modDie d f).ranges = s.ranges := rfl
@[simp] theorem State.modDie_hostWindow (s : State) (d : Nat) (f : Die → Die) : (s.modDie d f).hostWindow = s.hostWindow := rfl
@[simp] theorem State.modDie_dram (s : State) (d : Nat) (f : Die → Die) : (s.modDie d f).dram = s.dram := rfl
@[simp] theorem State.modDie_dramPoison (s : State) (d : Nat) (f : Die → Die) : (s.modDie d f).dramPoison = s.dramPoison := rfl
@[simp] theorem State.modDie_hostMem (s : State) (d : Nat) (f : Die → Die) : (s.modDie d f).hostMem = s.hostMem := rfl
@[simp] theorem State.modDie_hostPoison (s : State) (d : Nat) (f : Die → Die) : (s.modDie d f).hostPoison = s.hostPoison := rfl
@[simp] theorem State.modDie_haroot (s : State) (d : Nat) (f : Die → Die) : (s.modDie d f).haroot = s.haroot := rfl
@[simp] theorem State.modDie_piroot (s : State) (d : Nat) (f : Die → Die) : (s.modDie d f).piroot = s.piroot := rfl
@[simp] theorem State.modDie_cmroot (s : State) (d : Nat) (f : Die → Die) : (s.modDie d f).cmroot = s.cmroot := rfl
@[simp] theorem State.modDie_hatlb (s : State) (d : Nat) (f : Die → Die) : (s.modDie d f).hatlb = s.hatlb := rfl
@[simp] theorem State.modDie_pitlb (s : State) (d : Nat) (f : Die → Die) : (s.modDie d f).pitlb = s.pitlb := rfl
@[simp] theorem State.modDie_cmtlb (s : State) (d : Nat) (f : Die → Die) : (s.modDie d f).cmtlb = s.cmtlb := rfl
@[simp] theorem State.modDie_devidx (s : State) (d : Nat) (f : Die → Die) : (s.modDie d f).devidx = s.devidx := rfl
@[simp] theorem State.modDie_ports (s : State) (d : Nat) (f : Die → Die) : (s.modDie d f).ports = s.ports := rfl
@[simp] theorem State.modDie_lost (s : State) (d : Nat) (f : Die → Die) : (s.modDie d f).lost = s.lost := rfl
@[simp] theorem State.modDie_peerMem (s : State) (d : Nat) (f : Die → Die) : (s.modDie d f).peerMem = s.peerMem := rfl
@[simp] theorem State.modDie_peerOpen (s : State) (d : Nat) (f : Die → Die) : (s.modDie d f).peerOpen = s.peerOpen := rfl
@[simp] theorem State.modDie_peerDone (s : State) (d : Nat) (f : Die → Die) : (s.modDie d f).peerDone = s.peerDone := rfl
@[simp] theorem State.modDie_peerReqs (s : State) (d : Nat) (f : Die → Die) : (s.modDie d f).peerReqs = s.peerReqs := rfl
@[simp] theorem State.modDie_cxlUp (s : State) (d : Nat) (f : Die → Die) : (s.modDie d f).cxlUp = s.cxlUp := rfl
@[simp] theorem State.modDie_hdmBase (s : State) (d : Nat) (f : Die → Die) : (s.modDie d f).hdmBase = s.hdmBase := rfl
@[simp] theorem State.modDie_hdmSize (s : State) (d : Nat) (f : Die → Die) : (s.modDie d f).hdmSize = s.hdmSize := rfl
@[simp] theorem State.modDie_cxlRegs (s : State) (d : Nat) (f : Die → Die) : (s.modDie d f).cxlRegs = s.cxlRegs := rfl
@[simp] theorem State.modDie_msixMask (s : State) (d : Nat) (f : Die → Die) : (s.modDie d f).msixMask = s.msixMask := rfl
@[simp] theorem State.modDie_msixPend (s : State) (d : Nat) (f : Die → Die) : (s.modDie d f).msixPend = s.msixPend := rfl
@[simp] theorem State.modDie_msixTable (s : State) (d : Nat) (f : Die → Die) : (s.modDie d f).msixTable = s.msixTable := rfl
@[simp] theorem State.modDie_failedAdds (s : State) (d : Nat) (f : Die → Die) : (s.modDie d f).failedAdds = s.failedAdds := rfl
@[simp] theorem State.modDie_heldAdds (s : State) (d : Nat) (f : Die → Die) : (s.modDie d f).heldAdds = s.heldAdds := rfl
@[simp] theorem State.modDie_heldBacks (s : State) (d : Nat) (f : Die → Die) : (s.modDie d f).heldBacks = s.heldBacks := rfl
@[simp] theorem State.modDie_regionFaults (s : State) (d : Nat) (f : Die → Die) : (s.modDie d f).regionFaults = s.regionFaults := rfl
@[simp] theorem State.modDie_slotA (s : State) (d : Nat) (f : Die → Die) : (s.modDie d f).slotA = s.slotA := rfl
@[simp] theorem State.modDie_slotB (s : State) (d : Nat) (f : Die → Die) : (s.modDie d f).slotB = s.slotB := rfl
@[simp] theorem State.modDie_bootStep (s : State) (d : Nat) (f : Die → Die) : (s.modDie d f).bootStep = s.bootStep := rfl
@[simp] theorem State.modDie_fuseIdx (s : State) (d : Nat) (f : Die → Die) : (s.modDie d f).fuseIdx = s.fuseIdx := rfl
@[simp] theorem State.modDie_keyDigest (s : State) (d : Nat) (f : Die → Die) : (s.modDie d f).keyDigest = s.keyDigest := rfl
@[simp] theorem State.modDie_svnFloor (s : State) (d : Nat) (f : Die → Die) : (s.modDie d f).svnFloor = s.svnFloor := rfl
@[simp] theorem State.modDie_reserveUsed (s : State) (d : Nat) (f : Die → Die) : (s.modDie d f).reserveUsed = s.reserveUsed := rfl
@[simp] theorem State.modDie_removed (s : State) (d : Nat) (f : Die → Die) : (s.modDie d f).removed = s.removed := rfl
@[simp] theorem State.modDie_tripped (s : State) (d : Nat) (f : Die → Die) : (s.modDie d f).tripped = s.tripped := rfl
@[simp] theorem State.modDie_spdm (s : State) (d : Nat) (f : Die → Die) : (s.modDie d f).spdm = s.spdm := rfl

/-! ## `State.modStack` -/

@[simp] theorem State.modStack_clk (s : State) (k : Nat) (f : Stack → Stack) : (s.modStack k f).clk = s.clk := rfl
@[simp] theorem State.modStack_seq (s : State) (k : Nat) (f : Stack → Stack) : (s.modStack k f).seq = s.seq := rfl
@[simp] theorem State.modStack_nextId (s : State) (k : Nat) (f : Stack → Stack) : (s.modStack k f).nextId = s.nextId := rfl
@[simp] theorem State.modStack_draws (s : State) (k : Nat) (f : Stack → Stack) : (s.modStack k f).draws = s.draws := rfl
@[simp] theorem State.modStack_cur (s : State) (k : Nat) (f : Stack → Stack) : (s.modStack k f).cur = s.cur := rfl
@[simp] theorem State.modStack_agenda (s : State) (k : Nat) (f : Stack → Stack) : (s.modStack k f).agenda = s.agenda := rfl
@[simp] theorem State.modStack_inbox (s : State) (k : Nat) (f : Stack → Stack) : (s.modStack k f).inbox = s.inbox := rfl
@[simp] theorem State.modStack_msg (s : State) (k : Nat) (f : Stack → Stack) : (s.modStack k f).msg = s.msg := rfl
@[simp] theorem State.modStack_outbox (s : State) (k : Nat) (f : Stack → Stack) : (s.modStack k f).outbox = s.outbox := rfl
@[simp] theorem State.modStack_threads (s : State) (k : Nat) (f : Stack → Stack) : (s.modStack k f).threads = s.threads := rfl
@[simp] theorem State.modStack_braids (s : State) (k : Nat) (f : Stack → Stack) : (s.modStack k f).braids = s.braids := rfl
@[simp] theorem State.modStack_wgs (s : State) (k : Nat) (f : Stack → Stack) : (s.modStack k f).wgs = s.wgs := rfl
@[simp] theorem State.modStack_cores (s : State) (k : Nat) (f : Stack → Stack) : (s.modStack k f).cores = s.cores := rfl
@[simp] theorem State.modStack_clusters (s : State) (k : Nat) (f : Stack → Stack) : (s.modStack k f).clusters = s.clusters := rfl
@[simp] theorem State.modStack_dies (s : State) (k : Nat) (f : Stack → Stack) : (s.modStack k f).dies = s.dies := rfl
@[simp] theorem State.modStack_stackTbl (s : State) (k : Nat) (f : Stack → Stack) : (s.modStack k f).stackTbl = Tbl.put s.stackTbl k (f (s.stack k)) := rfl
@[simp] theorem State.modStack_parts (s : State) (k : Nat) (f : Stack → Stack) : (s.modStack k f).parts = s.parts := rfl
@[simp] theorem State.modStack_launches (s : State) (k : Nat) (f : Stack → Stack) : (s.modStack k f).launches = s.launches := rfl
@[simp] theorem State.modStack_reqs (s : State) (k : Nat) (f : Stack → Stack) : (s.modStack k f).reqs = s.reqs := rfl
@[simp] theorem State.modStack_formed (s : State) (k : Nat) (f : Stack → Stack) : (s.modStack k f).formed = s.formed := rfl
@[simp] theorem State.modStack_qfences (s : State) (k : Nat) (f : Stack → Stack) : (s.modStack k f).qfences = s.qfences := rfl
@[simp] theorem State.modStack_ranges (s : State) (k : Nat) (f : Stack → Stack) : (s.modStack k f).ranges = s.ranges := rfl
@[simp] theorem State.modStack_hostWindow (s : State) (k : Nat) (f : Stack → Stack) : (s.modStack k f).hostWindow = s.hostWindow := rfl
@[simp] theorem State.modStack_dram (s : State) (k : Nat) (f : Stack → Stack) : (s.modStack k f).dram = s.dram := rfl
@[simp] theorem State.modStack_dramPoison (s : State) (k : Nat) (f : Stack → Stack) : (s.modStack k f).dramPoison = s.dramPoison := rfl
@[simp] theorem State.modStack_hostMem (s : State) (k : Nat) (f : Stack → Stack) : (s.modStack k f).hostMem = s.hostMem := rfl
@[simp] theorem State.modStack_hostPoison (s : State) (k : Nat) (f : Stack → Stack) : (s.modStack k f).hostPoison = s.hostPoison := rfl
@[simp] theorem State.modStack_haroot (s : State) (k : Nat) (f : Stack → Stack) : (s.modStack k f).haroot = s.haroot := rfl
@[simp] theorem State.modStack_piroot (s : State) (k : Nat) (f : Stack → Stack) : (s.modStack k f).piroot = s.piroot := rfl
@[simp] theorem State.modStack_cmroot (s : State) (k : Nat) (f : Stack → Stack) : (s.modStack k f).cmroot = s.cmroot := rfl
@[simp] theorem State.modStack_hatlb (s : State) (k : Nat) (f : Stack → Stack) : (s.modStack k f).hatlb = s.hatlb := rfl
@[simp] theorem State.modStack_pitlb (s : State) (k : Nat) (f : Stack → Stack) : (s.modStack k f).pitlb = s.pitlb := rfl
@[simp] theorem State.modStack_cmtlb (s : State) (k : Nat) (f : Stack → Stack) : (s.modStack k f).cmtlb = s.cmtlb := rfl
@[simp] theorem State.modStack_devidx (s : State) (k : Nat) (f : Stack → Stack) : (s.modStack k f).devidx = s.devidx := rfl
@[simp] theorem State.modStack_ports (s : State) (k : Nat) (f : Stack → Stack) : (s.modStack k f).ports = s.ports := rfl
@[simp] theorem State.modStack_lost (s : State) (k : Nat) (f : Stack → Stack) : (s.modStack k f).lost = s.lost := rfl
@[simp] theorem State.modStack_peerMem (s : State) (k : Nat) (f : Stack → Stack) : (s.modStack k f).peerMem = s.peerMem := rfl
@[simp] theorem State.modStack_peerOpen (s : State) (k : Nat) (f : Stack → Stack) : (s.modStack k f).peerOpen = s.peerOpen := rfl
@[simp] theorem State.modStack_peerDone (s : State) (k : Nat) (f : Stack → Stack) : (s.modStack k f).peerDone = s.peerDone := rfl
@[simp] theorem State.modStack_peerReqs (s : State) (k : Nat) (f : Stack → Stack) : (s.modStack k f).peerReqs = s.peerReqs := rfl
@[simp] theorem State.modStack_cxlUp (s : State) (k : Nat) (f : Stack → Stack) : (s.modStack k f).cxlUp = s.cxlUp := rfl
@[simp] theorem State.modStack_hdmBase (s : State) (k : Nat) (f : Stack → Stack) : (s.modStack k f).hdmBase = s.hdmBase := rfl
@[simp] theorem State.modStack_hdmSize (s : State) (k : Nat) (f : Stack → Stack) : (s.modStack k f).hdmSize = s.hdmSize := rfl
@[simp] theorem State.modStack_cxlRegs (s : State) (k : Nat) (f : Stack → Stack) : (s.modStack k f).cxlRegs = s.cxlRegs := rfl
@[simp] theorem State.modStack_msixMask (s : State) (k : Nat) (f : Stack → Stack) : (s.modStack k f).msixMask = s.msixMask := rfl
@[simp] theorem State.modStack_msixPend (s : State) (k : Nat) (f : Stack → Stack) : (s.modStack k f).msixPend = s.msixPend := rfl
@[simp] theorem State.modStack_msixTable (s : State) (k : Nat) (f : Stack → Stack) : (s.modStack k f).msixTable = s.msixTable := rfl
@[simp] theorem State.modStack_failedAdds (s : State) (k : Nat) (f : Stack → Stack) : (s.modStack k f).failedAdds = s.failedAdds := rfl
@[simp] theorem State.modStack_heldAdds (s : State) (k : Nat) (f : Stack → Stack) : (s.modStack k f).heldAdds = s.heldAdds := rfl
@[simp] theorem State.modStack_heldBacks (s : State) (k : Nat) (f : Stack → Stack) : (s.modStack k f).heldBacks = s.heldBacks := rfl
@[simp] theorem State.modStack_regionFaults (s : State) (k : Nat) (f : Stack → Stack) : (s.modStack k f).regionFaults = s.regionFaults := rfl
@[simp] theorem State.modStack_slotA (s : State) (k : Nat) (f : Stack → Stack) : (s.modStack k f).slotA = s.slotA := rfl
@[simp] theorem State.modStack_slotB (s : State) (k : Nat) (f : Stack → Stack) : (s.modStack k f).slotB = s.slotB := rfl
@[simp] theorem State.modStack_bootStep (s : State) (k : Nat) (f : Stack → Stack) : (s.modStack k f).bootStep = s.bootStep := rfl
@[simp] theorem State.modStack_fuseIdx (s : State) (k : Nat) (f : Stack → Stack) : (s.modStack k f).fuseIdx = s.fuseIdx := rfl
@[simp] theorem State.modStack_keyDigest (s : State) (k : Nat) (f : Stack → Stack) : (s.modStack k f).keyDigest = s.keyDigest := rfl
@[simp] theorem State.modStack_svnFloor (s : State) (k : Nat) (f : Stack → Stack) : (s.modStack k f).svnFloor = s.svnFloor := rfl
@[simp] theorem State.modStack_reserveUsed (s : State) (k : Nat) (f : Stack → Stack) : (s.modStack k f).reserveUsed = s.reserveUsed := rfl
@[simp] theorem State.modStack_removed (s : State) (k : Nat) (f : Stack → Stack) : (s.modStack k f).removed = s.removed := rfl
@[simp] theorem State.modStack_tripped (s : State) (k : Nat) (f : Stack → Stack) : (s.modStack k f).tripped = s.tripped := rfl
@[simp] theorem State.modStack_spdm (s : State) (k : Nat) (f : Stack → Stack) : (s.modStack k f).spdm = s.spdm := rfl

/-! ## `State.modPart` -/

@[simp] theorem State.modPart_clk (s : State) (p : Nat) (f : Partition → Partition) : (s.modPart p f).clk = s.clk := rfl
@[simp] theorem State.modPart_seq (s : State) (p : Nat) (f : Partition → Partition) : (s.modPart p f).seq = s.seq := rfl
@[simp] theorem State.modPart_nextId (s : State) (p : Nat) (f : Partition → Partition) : (s.modPart p f).nextId = s.nextId := rfl
@[simp] theorem State.modPart_draws (s : State) (p : Nat) (f : Partition → Partition) : (s.modPart p f).draws = s.draws := rfl
@[simp] theorem State.modPart_cur (s : State) (p : Nat) (f : Partition → Partition) : (s.modPart p f).cur = s.cur := rfl
@[simp] theorem State.modPart_agenda (s : State) (p : Nat) (f : Partition → Partition) : (s.modPart p f).agenda = s.agenda := rfl
@[simp] theorem State.modPart_inbox (s : State) (p : Nat) (f : Partition → Partition) : (s.modPart p f).inbox = s.inbox := rfl
@[simp] theorem State.modPart_msg (s : State) (p : Nat) (f : Partition → Partition) : (s.modPart p f).msg = s.msg := rfl
@[simp] theorem State.modPart_outbox (s : State) (p : Nat) (f : Partition → Partition) : (s.modPart p f).outbox = s.outbox := rfl
@[simp] theorem State.modPart_threads (s : State) (p : Nat) (f : Partition → Partition) : (s.modPart p f).threads = s.threads := rfl
@[simp] theorem State.modPart_braids (s : State) (p : Nat) (f : Partition → Partition) : (s.modPart p f).braids = s.braids := rfl
@[simp] theorem State.modPart_wgs (s : State) (p : Nat) (f : Partition → Partition) : (s.modPart p f).wgs = s.wgs := rfl
@[simp] theorem State.modPart_cores (s : State) (p : Nat) (f : Partition → Partition) : (s.modPart p f).cores = s.cores := rfl
@[simp] theorem State.modPart_clusters (s : State) (p : Nat) (f : Partition → Partition) : (s.modPart p f).clusters = s.clusters := rfl
@[simp] theorem State.modPart_dies (s : State) (p : Nat) (f : Partition → Partition) : (s.modPart p f).dies = s.dies := rfl
@[simp] theorem State.modPart_stackTbl (s : State) (p : Nat) (f : Partition → Partition) : (s.modPart p f).stackTbl = s.stackTbl := rfl
@[simp] theorem State.modPart_parts (s : State) (p : Nat) (f : Partition → Partition) : (s.modPart p f).parts = Tbl.put s.parts p (f (s.part p)) := rfl
@[simp] theorem State.modPart_launches (s : State) (p : Nat) (f : Partition → Partition) : (s.modPart p f).launches = s.launches := rfl
@[simp] theorem State.modPart_reqs (s : State) (p : Nat) (f : Partition → Partition) : (s.modPart p f).reqs = s.reqs := rfl
@[simp] theorem State.modPart_formed (s : State) (p : Nat) (f : Partition → Partition) : (s.modPart p f).formed = s.formed := rfl
@[simp] theorem State.modPart_qfences (s : State) (p : Nat) (f : Partition → Partition) : (s.modPart p f).qfences = s.qfences := rfl
@[simp] theorem State.modPart_ranges (s : State) (p : Nat) (f : Partition → Partition) : (s.modPart p f).ranges = s.ranges := rfl
@[simp] theorem State.modPart_hostWindow (s : State) (p : Nat) (f : Partition → Partition) : (s.modPart p f).hostWindow = s.hostWindow := rfl
@[simp] theorem State.modPart_dram (s : State) (p : Nat) (f : Partition → Partition) : (s.modPart p f).dram = s.dram := rfl
@[simp] theorem State.modPart_dramPoison (s : State) (p : Nat) (f : Partition → Partition) : (s.modPart p f).dramPoison = s.dramPoison := rfl
@[simp] theorem State.modPart_hostMem (s : State) (p : Nat) (f : Partition → Partition) : (s.modPart p f).hostMem = s.hostMem := rfl
@[simp] theorem State.modPart_hostPoison (s : State) (p : Nat) (f : Partition → Partition) : (s.modPart p f).hostPoison = s.hostPoison := rfl
@[simp] theorem State.modPart_haroot (s : State) (p : Nat) (f : Partition → Partition) : (s.modPart p f).haroot = s.haroot := rfl
@[simp] theorem State.modPart_piroot (s : State) (p : Nat) (f : Partition → Partition) : (s.modPart p f).piroot = s.piroot := rfl
@[simp] theorem State.modPart_cmroot (s : State) (p : Nat) (f : Partition → Partition) : (s.modPart p f).cmroot = s.cmroot := rfl
@[simp] theorem State.modPart_hatlb (s : State) (p : Nat) (f : Partition → Partition) : (s.modPart p f).hatlb = s.hatlb := rfl
@[simp] theorem State.modPart_pitlb (s : State) (p : Nat) (f : Partition → Partition) : (s.modPart p f).pitlb = s.pitlb := rfl
@[simp] theorem State.modPart_cmtlb (s : State) (p : Nat) (f : Partition → Partition) : (s.modPart p f).cmtlb = s.cmtlb := rfl
@[simp] theorem State.modPart_devidx (s : State) (p : Nat) (f : Partition → Partition) : (s.modPart p f).devidx = s.devidx := rfl
@[simp] theorem State.modPart_ports (s : State) (p : Nat) (f : Partition → Partition) : (s.modPart p f).ports = s.ports := rfl
@[simp] theorem State.modPart_lost (s : State) (p : Nat) (f : Partition → Partition) : (s.modPart p f).lost = s.lost := rfl
@[simp] theorem State.modPart_peerMem (s : State) (p : Nat) (f : Partition → Partition) : (s.modPart p f).peerMem = s.peerMem := rfl
@[simp] theorem State.modPart_peerOpen (s : State) (p : Nat) (f : Partition → Partition) : (s.modPart p f).peerOpen = s.peerOpen := rfl
@[simp] theorem State.modPart_peerDone (s : State) (p : Nat) (f : Partition → Partition) : (s.modPart p f).peerDone = s.peerDone := rfl
@[simp] theorem State.modPart_peerReqs (s : State) (p : Nat) (f : Partition → Partition) : (s.modPart p f).peerReqs = s.peerReqs := rfl
@[simp] theorem State.modPart_cxlUp (s : State) (p : Nat) (f : Partition → Partition) : (s.modPart p f).cxlUp = s.cxlUp := rfl
@[simp] theorem State.modPart_hdmBase (s : State) (p : Nat) (f : Partition → Partition) : (s.modPart p f).hdmBase = s.hdmBase := rfl
@[simp] theorem State.modPart_hdmSize (s : State) (p : Nat) (f : Partition → Partition) : (s.modPart p f).hdmSize = s.hdmSize := rfl
@[simp] theorem State.modPart_cxlRegs (s : State) (p : Nat) (f : Partition → Partition) : (s.modPart p f).cxlRegs = s.cxlRegs := rfl
@[simp] theorem State.modPart_msixMask (s : State) (p : Nat) (f : Partition → Partition) : (s.modPart p f).msixMask = s.msixMask := rfl
@[simp] theorem State.modPart_msixPend (s : State) (p : Nat) (f : Partition → Partition) : (s.modPart p f).msixPend = s.msixPend := rfl
@[simp] theorem State.modPart_msixTable (s : State) (p : Nat) (f : Partition → Partition) : (s.modPart p f).msixTable = s.msixTable := rfl
@[simp] theorem State.modPart_failedAdds (s : State) (p : Nat) (f : Partition → Partition) : (s.modPart p f).failedAdds = s.failedAdds := rfl
@[simp] theorem State.modPart_heldAdds (s : State) (p : Nat) (f : Partition → Partition) : (s.modPart p f).heldAdds = s.heldAdds := rfl
@[simp] theorem State.modPart_heldBacks (s : State) (p : Nat) (f : Partition → Partition) : (s.modPart p f).heldBacks = s.heldBacks := rfl
@[simp] theorem State.modPart_regionFaults (s : State) (p : Nat) (f : Partition → Partition) : (s.modPart p f).regionFaults = s.regionFaults := rfl
@[simp] theorem State.modPart_slotA (s : State) (p : Nat) (f : Partition → Partition) : (s.modPart p f).slotA = s.slotA := rfl
@[simp] theorem State.modPart_slotB (s : State) (p : Nat) (f : Partition → Partition) : (s.modPart p f).slotB = s.slotB := rfl
@[simp] theorem State.modPart_bootStep (s : State) (p : Nat) (f : Partition → Partition) : (s.modPart p f).bootStep = s.bootStep := rfl
@[simp] theorem State.modPart_fuseIdx (s : State) (p : Nat) (f : Partition → Partition) : (s.modPart p f).fuseIdx = s.fuseIdx := rfl
@[simp] theorem State.modPart_keyDigest (s : State) (p : Nat) (f : Partition → Partition) : (s.modPart p f).keyDigest = s.keyDigest := rfl
@[simp] theorem State.modPart_svnFloor (s : State) (p : Nat) (f : Partition → Partition) : (s.modPart p f).svnFloor = s.svnFloor := rfl
@[simp] theorem State.modPart_reserveUsed (s : State) (p : Nat) (f : Partition → Partition) : (s.modPart p f).reserveUsed = s.reserveUsed := rfl
@[simp] theorem State.modPart_removed (s : State) (p : Nat) (f : Partition → Partition) : (s.modPart p f).removed = s.removed := rfl
@[simp] theorem State.modPart_tripped (s : State) (p : Nat) (f : Partition → Partition) : (s.modPart p f).tripped = s.tripped := rfl
@[simp] theorem State.modPart_spdm (s : State) (p : Nat) (f : Partition → Partition) : (s.modPart p f).spdm = s.spdm := rfl

/-! ## `State.due` -/

@[simp] theorem State.due_clk (s : State) (a : Act) : (s.due a).clk = s.clk := rfl
@[simp] theorem State.due_seq (s : State) (a : Act) : (s.due a).seq = s.seq := rfl
@[simp] theorem State.due_nextId (s : State) (a : Act) : (s.due a).nextId = s.nextId := rfl
@[simp] theorem State.due_draws (s : State) (a : Act) : (s.due a).draws = s.draws := rfl
@[simp] theorem State.due_cur (s : State) (a : Act) : (s.due a).cur = s.cur := rfl
@[simp] theorem State.due_agenda (s : State) (a : Act) : (s.due a).agenda = s.agenda ++ [a] := rfl
@[simp] theorem State.due_inbox (s : State) (a : Act) : (s.due a).inbox = s.inbox := rfl
@[simp] theorem State.due_msg (s : State) (a : Act) : (s.due a).msg = s.msg := rfl
@[simp] theorem State.due_outbox (s : State) (a : Act) : (s.due a).outbox = s.outbox := rfl
@[simp] theorem State.due_threads (s : State) (a : Act) : (s.due a).threads = s.threads := rfl
@[simp] theorem State.due_braids (s : State) (a : Act) : (s.due a).braids = s.braids := rfl
@[simp] theorem State.due_wgs (s : State) (a : Act) : (s.due a).wgs = s.wgs := rfl
@[simp] theorem State.due_cores (s : State) (a : Act) : (s.due a).cores = s.cores := rfl
@[simp] theorem State.due_clusters (s : State) (a : Act) : (s.due a).clusters = s.clusters := rfl
@[simp] theorem State.due_dies (s : State) (a : Act) : (s.due a).dies = s.dies := rfl
@[simp] theorem State.due_stackTbl (s : State) (a : Act) : (s.due a).stackTbl = s.stackTbl := rfl
@[simp] theorem State.due_parts (s : State) (a : Act) : (s.due a).parts = s.parts := rfl
@[simp] theorem State.due_launches (s : State) (a : Act) : (s.due a).launches = s.launches := rfl
@[simp] theorem State.due_reqs (s : State) (a : Act) : (s.due a).reqs = s.reqs := rfl
@[simp] theorem State.due_formed (s : State) (a : Act) : (s.due a).formed = s.formed := rfl
@[simp] theorem State.due_qfences (s : State) (a : Act) : (s.due a).qfences = s.qfences := rfl
@[simp] theorem State.due_ranges (s : State) (a : Act) : (s.due a).ranges = s.ranges := rfl
@[simp] theorem State.due_hostWindow (s : State) (a : Act) : (s.due a).hostWindow = s.hostWindow := rfl
@[simp] theorem State.due_dram (s : State) (a : Act) : (s.due a).dram = s.dram := rfl
@[simp] theorem State.due_dramPoison (s : State) (a : Act) : (s.due a).dramPoison = s.dramPoison := rfl
@[simp] theorem State.due_hostMem (s : State) (a : Act) : (s.due a).hostMem = s.hostMem := rfl
@[simp] theorem State.due_hostPoison (s : State) (a : Act) : (s.due a).hostPoison = s.hostPoison := rfl
@[simp] theorem State.due_haroot (s : State) (a : Act) : (s.due a).haroot = s.haroot := rfl
@[simp] theorem State.due_piroot (s : State) (a : Act) : (s.due a).piroot = s.piroot := rfl
@[simp] theorem State.due_cmroot (s : State) (a : Act) : (s.due a).cmroot = s.cmroot := rfl
@[simp] theorem State.due_hatlb (s : State) (a : Act) : (s.due a).hatlb = s.hatlb := rfl
@[simp] theorem State.due_pitlb (s : State) (a : Act) : (s.due a).pitlb = s.pitlb := rfl
@[simp] theorem State.due_cmtlb (s : State) (a : Act) : (s.due a).cmtlb = s.cmtlb := rfl
@[simp] theorem State.due_devidx (s : State) (a : Act) : (s.due a).devidx = s.devidx := rfl
@[simp] theorem State.due_ports (s : State) (a : Act) : (s.due a).ports = s.ports := rfl
@[simp] theorem State.due_lost (s : State) (a : Act) : (s.due a).lost = s.lost := rfl
@[simp] theorem State.due_peerMem (s : State) (a : Act) : (s.due a).peerMem = s.peerMem := rfl
@[simp] theorem State.due_peerOpen (s : State) (a : Act) : (s.due a).peerOpen = s.peerOpen := rfl
@[simp] theorem State.due_peerDone (s : State) (a : Act) : (s.due a).peerDone = s.peerDone := rfl
@[simp] theorem State.due_peerReqs (s : State) (a : Act) : (s.due a).peerReqs = s.peerReqs := rfl
@[simp] theorem State.due_cxlUp (s : State) (a : Act) : (s.due a).cxlUp = s.cxlUp := rfl
@[simp] theorem State.due_hdmBase (s : State) (a : Act) : (s.due a).hdmBase = s.hdmBase := rfl
@[simp] theorem State.due_hdmSize (s : State) (a : Act) : (s.due a).hdmSize = s.hdmSize := rfl
@[simp] theorem State.due_cxlRegs (s : State) (a : Act) : (s.due a).cxlRegs = s.cxlRegs := rfl
@[simp] theorem State.due_msixMask (s : State) (a : Act) : (s.due a).msixMask = s.msixMask := rfl
@[simp] theorem State.due_msixPend (s : State) (a : Act) : (s.due a).msixPend = s.msixPend := rfl
@[simp] theorem State.due_msixTable (s : State) (a : Act) : (s.due a).msixTable = s.msixTable := rfl
@[simp] theorem State.due_failedAdds (s : State) (a : Act) : (s.due a).failedAdds = s.failedAdds := rfl
@[simp] theorem State.due_heldAdds (s : State) (a : Act) : (s.due a).heldAdds = s.heldAdds := rfl
@[simp] theorem State.due_heldBacks (s : State) (a : Act) : (s.due a).heldBacks = s.heldBacks := rfl
@[simp] theorem State.due_regionFaults (s : State) (a : Act) : (s.due a).regionFaults = s.regionFaults := rfl
@[simp] theorem State.due_slotA (s : State) (a : Act) : (s.due a).slotA = s.slotA := rfl
@[simp] theorem State.due_slotB (s : State) (a : Act) : (s.due a).slotB = s.slotB := rfl
@[simp] theorem State.due_bootStep (s : State) (a : Act) : (s.due a).bootStep = s.bootStep := rfl
@[simp] theorem State.due_fuseIdx (s : State) (a : Act) : (s.due a).fuseIdx = s.fuseIdx := rfl
@[simp] theorem State.due_keyDigest (s : State) (a : Act) : (s.due a).keyDigest = s.keyDigest := rfl
@[simp] theorem State.due_svnFloor (s : State) (a : Act) : (s.due a).svnFloor = s.svnFloor := rfl
@[simp] theorem State.due_reserveUsed (s : State) (a : Act) : (s.due a).reserveUsed = s.reserveUsed := rfl
@[simp] theorem State.due_removed (s : State) (a : Act) : (s.due a).removed = s.removed := rfl
@[simp] theorem State.due_tripped (s : State) (a : Act) : (s.due a).tripped = s.tripped := rfl
@[simp] theorem State.due_spdm (s : State) (a : Act) : (s.due a).spdm = s.spdm := rfl

/-! ## `State.dueNext` -/

@[simp] theorem State.dueNext_clk (s : State) (l : List Act) : (s.dueNext l).clk = s.clk := rfl
@[simp] theorem State.dueNext_seq (s : State) (l : List Act) : (s.dueNext l).seq = s.seq := rfl
@[simp] theorem State.dueNext_nextId (s : State) (l : List Act) : (s.dueNext l).nextId = s.nextId := rfl
@[simp] theorem State.dueNext_draws (s : State) (l : List Act) : (s.dueNext l).draws = s.draws := rfl
@[simp] theorem State.dueNext_cur (s : State) (l : List Act) : (s.dueNext l).cur = s.cur := rfl
@[simp] theorem State.dueNext_agenda (s : State) (l : List Act) : (s.dueNext l).agenda = l ++ s.agenda := rfl
@[simp] theorem State.dueNext_inbox (s : State) (l : List Act) : (s.dueNext l).inbox = s.inbox := rfl
@[simp] theorem State.dueNext_msg (s : State) (l : List Act) : (s.dueNext l).msg = s.msg := rfl
@[simp] theorem State.dueNext_outbox (s : State) (l : List Act) : (s.dueNext l).outbox = s.outbox := rfl
@[simp] theorem State.dueNext_threads (s : State) (l : List Act) : (s.dueNext l).threads = s.threads := rfl
@[simp] theorem State.dueNext_braids (s : State) (l : List Act) : (s.dueNext l).braids = s.braids := rfl
@[simp] theorem State.dueNext_wgs (s : State) (l : List Act) : (s.dueNext l).wgs = s.wgs := rfl
@[simp] theorem State.dueNext_cores (s : State) (l : List Act) : (s.dueNext l).cores = s.cores := rfl
@[simp] theorem State.dueNext_clusters (s : State) (l : List Act) : (s.dueNext l).clusters = s.clusters := rfl
@[simp] theorem State.dueNext_dies (s : State) (l : List Act) : (s.dueNext l).dies = s.dies := rfl
@[simp] theorem State.dueNext_stackTbl (s : State) (l : List Act) : (s.dueNext l).stackTbl = s.stackTbl := rfl
@[simp] theorem State.dueNext_parts (s : State) (l : List Act) : (s.dueNext l).parts = s.parts := rfl
@[simp] theorem State.dueNext_launches (s : State) (l : List Act) : (s.dueNext l).launches = s.launches := rfl
@[simp] theorem State.dueNext_reqs (s : State) (l : List Act) : (s.dueNext l).reqs = s.reqs := rfl
@[simp] theorem State.dueNext_formed (s : State) (l : List Act) : (s.dueNext l).formed = s.formed := rfl
@[simp] theorem State.dueNext_qfences (s : State) (l : List Act) : (s.dueNext l).qfences = s.qfences := rfl
@[simp] theorem State.dueNext_ranges (s : State) (l : List Act) : (s.dueNext l).ranges = s.ranges := rfl
@[simp] theorem State.dueNext_hostWindow (s : State) (l : List Act) : (s.dueNext l).hostWindow = s.hostWindow := rfl
@[simp] theorem State.dueNext_dram (s : State) (l : List Act) : (s.dueNext l).dram = s.dram := rfl
@[simp] theorem State.dueNext_dramPoison (s : State) (l : List Act) : (s.dueNext l).dramPoison = s.dramPoison := rfl
@[simp] theorem State.dueNext_hostMem (s : State) (l : List Act) : (s.dueNext l).hostMem = s.hostMem := rfl
@[simp] theorem State.dueNext_hostPoison (s : State) (l : List Act) : (s.dueNext l).hostPoison = s.hostPoison := rfl
@[simp] theorem State.dueNext_haroot (s : State) (l : List Act) : (s.dueNext l).haroot = s.haroot := rfl
@[simp] theorem State.dueNext_piroot (s : State) (l : List Act) : (s.dueNext l).piroot = s.piroot := rfl
@[simp] theorem State.dueNext_cmroot (s : State) (l : List Act) : (s.dueNext l).cmroot = s.cmroot := rfl
@[simp] theorem State.dueNext_hatlb (s : State) (l : List Act) : (s.dueNext l).hatlb = s.hatlb := rfl
@[simp] theorem State.dueNext_pitlb (s : State) (l : List Act) : (s.dueNext l).pitlb = s.pitlb := rfl
@[simp] theorem State.dueNext_cmtlb (s : State) (l : List Act) : (s.dueNext l).cmtlb = s.cmtlb := rfl
@[simp] theorem State.dueNext_devidx (s : State) (l : List Act) : (s.dueNext l).devidx = s.devidx := rfl
@[simp] theorem State.dueNext_ports (s : State) (l : List Act) : (s.dueNext l).ports = s.ports := rfl
@[simp] theorem State.dueNext_lost (s : State) (l : List Act) : (s.dueNext l).lost = s.lost := rfl
@[simp] theorem State.dueNext_peerMem (s : State) (l : List Act) : (s.dueNext l).peerMem = s.peerMem := rfl
@[simp] theorem State.dueNext_peerOpen (s : State) (l : List Act) : (s.dueNext l).peerOpen = s.peerOpen := rfl
@[simp] theorem State.dueNext_peerDone (s : State) (l : List Act) : (s.dueNext l).peerDone = s.peerDone := rfl
@[simp] theorem State.dueNext_peerReqs (s : State) (l : List Act) : (s.dueNext l).peerReqs = s.peerReqs := rfl
@[simp] theorem State.dueNext_cxlUp (s : State) (l : List Act) : (s.dueNext l).cxlUp = s.cxlUp := rfl
@[simp] theorem State.dueNext_hdmBase (s : State) (l : List Act) : (s.dueNext l).hdmBase = s.hdmBase := rfl
@[simp] theorem State.dueNext_hdmSize (s : State) (l : List Act) : (s.dueNext l).hdmSize = s.hdmSize := rfl
@[simp] theorem State.dueNext_cxlRegs (s : State) (l : List Act) : (s.dueNext l).cxlRegs = s.cxlRegs := rfl
@[simp] theorem State.dueNext_msixMask (s : State) (l : List Act) : (s.dueNext l).msixMask = s.msixMask := rfl
@[simp] theorem State.dueNext_msixPend (s : State) (l : List Act) : (s.dueNext l).msixPend = s.msixPend := rfl
@[simp] theorem State.dueNext_msixTable (s : State) (l : List Act) : (s.dueNext l).msixTable = s.msixTable := rfl
@[simp] theorem State.dueNext_failedAdds (s : State) (l : List Act) : (s.dueNext l).failedAdds = s.failedAdds := rfl
@[simp] theorem State.dueNext_heldAdds (s : State) (l : List Act) : (s.dueNext l).heldAdds = s.heldAdds := rfl
@[simp] theorem State.dueNext_heldBacks (s : State) (l : List Act) : (s.dueNext l).heldBacks = s.heldBacks := rfl
@[simp] theorem State.dueNext_regionFaults (s : State) (l : List Act) : (s.dueNext l).regionFaults = s.regionFaults := rfl
@[simp] theorem State.dueNext_slotA (s : State) (l : List Act) : (s.dueNext l).slotA = s.slotA := rfl
@[simp] theorem State.dueNext_slotB (s : State) (l : List Act) : (s.dueNext l).slotB = s.slotB := rfl
@[simp] theorem State.dueNext_bootStep (s : State) (l : List Act) : (s.dueNext l).bootStep = s.bootStep := rfl
@[simp] theorem State.dueNext_fuseIdx (s : State) (l : List Act) : (s.dueNext l).fuseIdx = s.fuseIdx := rfl
@[simp] theorem State.dueNext_keyDigest (s : State) (l : List Act) : (s.dueNext l).keyDigest = s.keyDigest := rfl
@[simp] theorem State.dueNext_svnFloor (s : State) (l : List Act) : (s.dueNext l).svnFloor = s.svnFloor := rfl
@[simp] theorem State.dueNext_reserveUsed (s : State) (l : List Act) : (s.dueNext l).reserveUsed = s.reserveUsed := rfl
@[simp] theorem State.dueNext_removed (s : State) (l : List Act) : (s.dueNext l).removed = s.removed := rfl
@[simp] theorem State.dueNext_tripped (s : State) (l : List Act) : (s.dueNext l).tripped = s.tripped := rfl
@[simp] theorem State.dueNext_spdm (s : State) (l : List Act) : (s.dueNext l).spdm = s.spdm := rfl

/-! ## `State.emit` -/

@[simp] theorem State.emit_clk (s : State) (o : Out) : (s.emit o).clk = s.clk := rfl
@[simp] theorem State.emit_seq (s : State) (o : Out) : (s.emit o).seq = s.seq := rfl
@[simp] theorem State.emit_nextId (s : State) (o : Out) : (s.emit o).nextId = s.nextId := rfl
@[simp] theorem State.emit_draws (s : State) (o : Out) : (s.emit o).draws = s.draws := rfl
@[simp] theorem State.emit_cur (s : State) (o : Out) : (s.emit o).cur = s.cur := rfl
@[simp] theorem State.emit_agenda (s : State) (o : Out) : (s.emit o).agenda = s.agenda := rfl
@[simp] theorem State.emit_inbox (s : State) (o : Out) : (s.emit o).inbox = s.inbox := rfl
@[simp] theorem State.emit_msg (s : State) (o : Out) : (s.emit o).msg = s.msg := rfl
@[simp] theorem State.emit_outbox (s : State) (o : Out) : (s.emit o).outbox = s.outbox ++ [o] := rfl
@[simp] theorem State.emit_threads (s : State) (o : Out) : (s.emit o).threads = s.threads := rfl
@[simp] theorem State.emit_braids (s : State) (o : Out) : (s.emit o).braids = s.braids := rfl
@[simp] theorem State.emit_wgs (s : State) (o : Out) : (s.emit o).wgs = s.wgs := rfl
@[simp] theorem State.emit_cores (s : State) (o : Out) : (s.emit o).cores = s.cores := rfl
@[simp] theorem State.emit_clusters (s : State) (o : Out) : (s.emit o).clusters = s.clusters := rfl
@[simp] theorem State.emit_dies (s : State) (o : Out) : (s.emit o).dies = s.dies := rfl
@[simp] theorem State.emit_stackTbl (s : State) (o : Out) : (s.emit o).stackTbl = s.stackTbl := rfl
@[simp] theorem State.emit_parts (s : State) (o : Out) : (s.emit o).parts = s.parts := rfl
@[simp] theorem State.emit_launches (s : State) (o : Out) : (s.emit o).launches = s.launches := rfl
@[simp] theorem State.emit_reqs (s : State) (o : Out) : (s.emit o).reqs = s.reqs := rfl
@[simp] theorem State.emit_formed (s : State) (o : Out) : (s.emit o).formed = s.formed := rfl
@[simp] theorem State.emit_qfences (s : State) (o : Out) : (s.emit o).qfences = s.qfences := rfl
@[simp] theorem State.emit_ranges (s : State) (o : Out) : (s.emit o).ranges = s.ranges := rfl
@[simp] theorem State.emit_hostWindow (s : State) (o : Out) : (s.emit o).hostWindow = s.hostWindow := rfl
@[simp] theorem State.emit_dram (s : State) (o : Out) : (s.emit o).dram = s.dram := rfl
@[simp] theorem State.emit_dramPoison (s : State) (o : Out) : (s.emit o).dramPoison = s.dramPoison := rfl
@[simp] theorem State.emit_hostMem (s : State) (o : Out) : (s.emit o).hostMem = s.hostMem := rfl
@[simp] theorem State.emit_hostPoison (s : State) (o : Out) : (s.emit o).hostPoison = s.hostPoison := rfl
@[simp] theorem State.emit_haroot (s : State) (o : Out) : (s.emit o).haroot = s.haroot := rfl
@[simp] theorem State.emit_piroot (s : State) (o : Out) : (s.emit o).piroot = s.piroot := rfl
@[simp] theorem State.emit_cmroot (s : State) (o : Out) : (s.emit o).cmroot = s.cmroot := rfl
@[simp] theorem State.emit_hatlb (s : State) (o : Out) : (s.emit o).hatlb = s.hatlb := rfl
@[simp] theorem State.emit_pitlb (s : State) (o : Out) : (s.emit o).pitlb = s.pitlb := rfl
@[simp] theorem State.emit_cmtlb (s : State) (o : Out) : (s.emit o).cmtlb = s.cmtlb := rfl
@[simp] theorem State.emit_devidx (s : State) (o : Out) : (s.emit o).devidx = s.devidx := rfl
@[simp] theorem State.emit_ports (s : State) (o : Out) : (s.emit o).ports = s.ports := rfl
@[simp] theorem State.emit_lost (s : State) (o : Out) : (s.emit o).lost = s.lost := rfl
@[simp] theorem State.emit_peerMem (s : State) (o : Out) : (s.emit o).peerMem = s.peerMem := rfl
@[simp] theorem State.emit_peerOpen (s : State) (o : Out) : (s.emit o).peerOpen = s.peerOpen := rfl
@[simp] theorem State.emit_peerDone (s : State) (o : Out) : (s.emit o).peerDone = s.peerDone := rfl
@[simp] theorem State.emit_peerReqs (s : State) (o : Out) : (s.emit o).peerReqs = s.peerReqs := rfl
@[simp] theorem State.emit_cxlUp (s : State) (o : Out) : (s.emit o).cxlUp = s.cxlUp := rfl
@[simp] theorem State.emit_hdmBase (s : State) (o : Out) : (s.emit o).hdmBase = s.hdmBase := rfl
@[simp] theorem State.emit_hdmSize (s : State) (o : Out) : (s.emit o).hdmSize = s.hdmSize := rfl
@[simp] theorem State.emit_cxlRegs (s : State) (o : Out) : (s.emit o).cxlRegs = s.cxlRegs := rfl
@[simp] theorem State.emit_msixMask (s : State) (o : Out) : (s.emit o).msixMask = s.msixMask := rfl
@[simp] theorem State.emit_msixPend (s : State) (o : Out) : (s.emit o).msixPend = s.msixPend := rfl
@[simp] theorem State.emit_msixTable (s : State) (o : Out) : (s.emit o).msixTable = s.msixTable := rfl
@[simp] theorem State.emit_failedAdds (s : State) (o : Out) : (s.emit o).failedAdds = s.failedAdds := rfl
@[simp] theorem State.emit_heldAdds (s : State) (o : Out) : (s.emit o).heldAdds = s.heldAdds := rfl
@[simp] theorem State.emit_heldBacks (s : State) (o : Out) : (s.emit o).heldBacks = s.heldBacks := rfl
@[simp] theorem State.emit_regionFaults (s : State) (o : Out) : (s.emit o).regionFaults = s.regionFaults := rfl
@[simp] theorem State.emit_slotA (s : State) (o : Out) : (s.emit o).slotA = s.slotA := rfl
@[simp] theorem State.emit_slotB (s : State) (o : Out) : (s.emit o).slotB = s.slotB := rfl
@[simp] theorem State.emit_bootStep (s : State) (o : Out) : (s.emit o).bootStep = s.bootStep := rfl
@[simp] theorem State.emit_fuseIdx (s : State) (o : Out) : (s.emit o).fuseIdx = s.fuseIdx := rfl
@[simp] theorem State.emit_keyDigest (s : State) (o : Out) : (s.emit o).keyDigest = s.keyDigest := rfl
@[simp] theorem State.emit_svnFloor (s : State) (o : Out) : (s.emit o).svnFloor = s.svnFloor := rfl
@[simp] theorem State.emit_reserveUsed (s : State) (o : Out) : (s.emit o).reserveUsed = s.reserveUsed := rfl
@[simp] theorem State.emit_removed (s : State) (o : Out) : (s.emit o).removed = s.removed := rfl
@[simp] theorem State.emit_tripped (s : State) (o : Out) : (s.emit o).tripped = s.tripped := rfl
@[simp] theorem State.emit_spdm (s : State) (o : Out) : (s.emit o).spdm = s.spdm := rfl

/-! ## `State.freshSeq` -/

@[simp] theorem State.freshSeq_snd (s : State) : s.freshSeq.2 = s.seq := rfl
@[simp] theorem State.freshSeq_clk (s : State) : s.freshSeq.1.clk = s.clk := rfl
@[simp] theorem State.freshSeq_seq (s : State) : s.freshSeq.1.seq = s.seq + 1 := rfl
@[simp] theorem State.freshSeq_nextId (s : State) : s.freshSeq.1.nextId = s.nextId := rfl
@[simp] theorem State.freshSeq_draws (s : State) : s.freshSeq.1.draws = s.draws := rfl
@[simp] theorem State.freshSeq_cur (s : State) : s.freshSeq.1.cur = s.cur := rfl
@[simp] theorem State.freshSeq_agenda (s : State) : s.freshSeq.1.agenda = s.agenda := rfl
@[simp] theorem State.freshSeq_inbox (s : State) : s.freshSeq.1.inbox = s.inbox := rfl
@[simp] theorem State.freshSeq_msg (s : State) : s.freshSeq.1.msg = s.msg := rfl
@[simp] theorem State.freshSeq_outbox (s : State) : s.freshSeq.1.outbox = s.outbox := rfl
@[simp] theorem State.freshSeq_threads (s : State) : s.freshSeq.1.threads = s.threads := rfl
@[simp] theorem State.freshSeq_braids (s : State) : s.freshSeq.1.braids = s.braids := rfl
@[simp] theorem State.freshSeq_wgs (s : State) : s.freshSeq.1.wgs = s.wgs := rfl
@[simp] theorem State.freshSeq_cores (s : State) : s.freshSeq.1.cores = s.cores := rfl
@[simp] theorem State.freshSeq_clusters (s : State) : s.freshSeq.1.clusters = s.clusters := rfl
@[simp] theorem State.freshSeq_dies (s : State) : s.freshSeq.1.dies = s.dies := rfl
@[simp] theorem State.freshSeq_stackTbl (s : State) : s.freshSeq.1.stackTbl = s.stackTbl := rfl
@[simp] theorem State.freshSeq_parts (s : State) : s.freshSeq.1.parts = s.parts := rfl
@[simp] theorem State.freshSeq_launches (s : State) : s.freshSeq.1.launches = s.launches := rfl
@[simp] theorem State.freshSeq_reqs (s : State) : s.freshSeq.1.reqs = s.reqs := rfl
@[simp] theorem State.freshSeq_formed (s : State) : s.freshSeq.1.formed = s.formed := rfl
@[simp] theorem State.freshSeq_qfences (s : State) : s.freshSeq.1.qfences = s.qfences := rfl
@[simp] theorem State.freshSeq_ranges (s : State) : s.freshSeq.1.ranges = s.ranges := rfl
@[simp] theorem State.freshSeq_hostWindow (s : State) : s.freshSeq.1.hostWindow = s.hostWindow := rfl
@[simp] theorem State.freshSeq_dram (s : State) : s.freshSeq.1.dram = s.dram := rfl
@[simp] theorem State.freshSeq_dramPoison (s : State) : s.freshSeq.1.dramPoison = s.dramPoison := rfl
@[simp] theorem State.freshSeq_hostMem (s : State) : s.freshSeq.1.hostMem = s.hostMem := rfl
@[simp] theorem State.freshSeq_hostPoison (s : State) : s.freshSeq.1.hostPoison = s.hostPoison := rfl
@[simp] theorem State.freshSeq_haroot (s : State) : s.freshSeq.1.haroot = s.haroot := rfl
@[simp] theorem State.freshSeq_piroot (s : State) : s.freshSeq.1.piroot = s.piroot := rfl
@[simp] theorem State.freshSeq_cmroot (s : State) : s.freshSeq.1.cmroot = s.cmroot := rfl
@[simp] theorem State.freshSeq_hatlb (s : State) : s.freshSeq.1.hatlb = s.hatlb := rfl
@[simp] theorem State.freshSeq_pitlb (s : State) : s.freshSeq.1.pitlb = s.pitlb := rfl
@[simp] theorem State.freshSeq_cmtlb (s : State) : s.freshSeq.1.cmtlb = s.cmtlb := rfl
@[simp] theorem State.freshSeq_devidx (s : State) : s.freshSeq.1.devidx = s.devidx := rfl
@[simp] theorem State.freshSeq_ports (s : State) : s.freshSeq.1.ports = s.ports := rfl
@[simp] theorem State.freshSeq_lost (s : State) : s.freshSeq.1.lost = s.lost := rfl
@[simp] theorem State.freshSeq_peerMem (s : State) : s.freshSeq.1.peerMem = s.peerMem := rfl
@[simp] theorem State.freshSeq_peerOpen (s : State) : s.freshSeq.1.peerOpen = s.peerOpen := rfl
@[simp] theorem State.freshSeq_peerDone (s : State) : s.freshSeq.1.peerDone = s.peerDone := rfl
@[simp] theorem State.freshSeq_peerReqs (s : State) : s.freshSeq.1.peerReqs = s.peerReqs := rfl
@[simp] theorem State.freshSeq_cxlUp (s : State) : s.freshSeq.1.cxlUp = s.cxlUp := rfl
@[simp] theorem State.freshSeq_hdmBase (s : State) : s.freshSeq.1.hdmBase = s.hdmBase := rfl
@[simp] theorem State.freshSeq_hdmSize (s : State) : s.freshSeq.1.hdmSize = s.hdmSize := rfl
@[simp] theorem State.freshSeq_cxlRegs (s : State) : s.freshSeq.1.cxlRegs = s.cxlRegs := rfl
@[simp] theorem State.freshSeq_msixMask (s : State) : s.freshSeq.1.msixMask = s.msixMask := rfl
@[simp] theorem State.freshSeq_msixPend (s : State) : s.freshSeq.1.msixPend = s.msixPend := rfl
@[simp] theorem State.freshSeq_msixTable (s : State) : s.freshSeq.1.msixTable = s.msixTable := rfl
@[simp] theorem State.freshSeq_failedAdds (s : State) : s.freshSeq.1.failedAdds = s.failedAdds := rfl
@[simp] theorem State.freshSeq_heldAdds (s : State) : s.freshSeq.1.heldAdds = s.heldAdds := rfl
@[simp] theorem State.freshSeq_heldBacks (s : State) : s.freshSeq.1.heldBacks = s.heldBacks := rfl
@[simp] theorem State.freshSeq_regionFaults (s : State) : s.freshSeq.1.regionFaults = s.regionFaults := rfl
@[simp] theorem State.freshSeq_slotA (s : State) : s.freshSeq.1.slotA = s.slotA := rfl
@[simp] theorem State.freshSeq_slotB (s : State) : s.freshSeq.1.slotB = s.slotB := rfl
@[simp] theorem State.freshSeq_bootStep (s : State) : s.freshSeq.1.bootStep = s.bootStep := rfl
@[simp] theorem State.freshSeq_fuseIdx (s : State) : s.freshSeq.1.fuseIdx = s.fuseIdx := rfl
@[simp] theorem State.freshSeq_keyDigest (s : State) : s.freshSeq.1.keyDigest = s.keyDigest := rfl
@[simp] theorem State.freshSeq_svnFloor (s : State) : s.freshSeq.1.svnFloor = s.svnFloor := rfl
@[simp] theorem State.freshSeq_reserveUsed (s : State) : s.freshSeq.1.reserveUsed = s.reserveUsed := rfl
@[simp] theorem State.freshSeq_removed (s : State) : s.freshSeq.1.removed = s.removed := rfl
@[simp] theorem State.freshSeq_tripped (s : State) : s.freshSeq.1.tripped = s.tripped := rfl
@[simp] theorem State.freshSeq_spdm (s : State) : s.freshSeq.1.spdm = s.spdm := rfl

/-! ## `State.freshId` -/

@[simp] theorem State.freshId_snd (s : State) : s.freshId.2 = s.nextId := rfl
@[simp] theorem State.freshId_clk (s : State) : s.freshId.1.clk = s.clk := rfl
@[simp] theorem State.freshId_seq (s : State) : s.freshId.1.seq = s.seq := rfl
@[simp] theorem State.freshId_nextId (s : State) : s.freshId.1.nextId = s.nextId + 1 := rfl
@[simp] theorem State.freshId_draws (s : State) : s.freshId.1.draws = s.draws := rfl
@[simp] theorem State.freshId_cur (s : State) : s.freshId.1.cur = s.cur := rfl
@[simp] theorem State.freshId_agenda (s : State) : s.freshId.1.agenda = s.agenda := rfl
@[simp] theorem State.freshId_inbox (s : State) : s.freshId.1.inbox = s.inbox := rfl
@[simp] theorem State.freshId_msg (s : State) : s.freshId.1.msg = s.msg := rfl
@[simp] theorem State.freshId_outbox (s : State) : s.freshId.1.outbox = s.outbox := rfl
@[simp] theorem State.freshId_threads (s : State) : s.freshId.1.threads = s.threads := rfl
@[simp] theorem State.freshId_braids (s : State) : s.freshId.1.braids = s.braids := rfl
@[simp] theorem State.freshId_wgs (s : State) : s.freshId.1.wgs = s.wgs := rfl
@[simp] theorem State.freshId_cores (s : State) : s.freshId.1.cores = s.cores := rfl
@[simp] theorem State.freshId_clusters (s : State) : s.freshId.1.clusters = s.clusters := rfl
@[simp] theorem State.freshId_dies (s : State) : s.freshId.1.dies = s.dies := rfl
@[simp] theorem State.freshId_stackTbl (s : State) : s.freshId.1.stackTbl = s.stackTbl := rfl
@[simp] theorem State.freshId_parts (s : State) : s.freshId.1.parts = s.parts := rfl
@[simp] theorem State.freshId_launches (s : State) : s.freshId.1.launches = s.launches := rfl
@[simp] theorem State.freshId_reqs (s : State) : s.freshId.1.reqs = s.reqs := rfl
@[simp] theorem State.freshId_formed (s : State) : s.freshId.1.formed = s.formed := rfl
@[simp] theorem State.freshId_qfences (s : State) : s.freshId.1.qfences = s.qfences := rfl
@[simp] theorem State.freshId_ranges (s : State) : s.freshId.1.ranges = s.ranges := rfl
@[simp] theorem State.freshId_hostWindow (s : State) : s.freshId.1.hostWindow = s.hostWindow := rfl
@[simp] theorem State.freshId_dram (s : State) : s.freshId.1.dram = s.dram := rfl
@[simp] theorem State.freshId_dramPoison (s : State) : s.freshId.1.dramPoison = s.dramPoison := rfl
@[simp] theorem State.freshId_hostMem (s : State) : s.freshId.1.hostMem = s.hostMem := rfl
@[simp] theorem State.freshId_hostPoison (s : State) : s.freshId.1.hostPoison = s.hostPoison := rfl
@[simp] theorem State.freshId_haroot (s : State) : s.freshId.1.haroot = s.haroot := rfl
@[simp] theorem State.freshId_piroot (s : State) : s.freshId.1.piroot = s.piroot := rfl
@[simp] theorem State.freshId_cmroot (s : State) : s.freshId.1.cmroot = s.cmroot := rfl
@[simp] theorem State.freshId_hatlb (s : State) : s.freshId.1.hatlb = s.hatlb := rfl
@[simp] theorem State.freshId_pitlb (s : State) : s.freshId.1.pitlb = s.pitlb := rfl
@[simp] theorem State.freshId_cmtlb (s : State) : s.freshId.1.cmtlb = s.cmtlb := rfl
@[simp] theorem State.freshId_devidx (s : State) : s.freshId.1.devidx = s.devidx := rfl
@[simp] theorem State.freshId_ports (s : State) : s.freshId.1.ports = s.ports := rfl
@[simp] theorem State.freshId_lost (s : State) : s.freshId.1.lost = s.lost := rfl
@[simp] theorem State.freshId_peerMem (s : State) : s.freshId.1.peerMem = s.peerMem := rfl
@[simp] theorem State.freshId_peerOpen (s : State) : s.freshId.1.peerOpen = s.peerOpen := rfl
@[simp] theorem State.freshId_peerDone (s : State) : s.freshId.1.peerDone = s.peerDone := rfl
@[simp] theorem State.freshId_peerReqs (s : State) : s.freshId.1.peerReqs = s.peerReqs := rfl
@[simp] theorem State.freshId_cxlUp (s : State) : s.freshId.1.cxlUp = s.cxlUp := rfl
@[simp] theorem State.freshId_hdmBase (s : State) : s.freshId.1.hdmBase = s.hdmBase := rfl
@[simp] theorem State.freshId_hdmSize (s : State) : s.freshId.1.hdmSize = s.hdmSize := rfl
@[simp] theorem State.freshId_cxlRegs (s : State) : s.freshId.1.cxlRegs = s.cxlRegs := rfl
@[simp] theorem State.freshId_msixMask (s : State) : s.freshId.1.msixMask = s.msixMask := rfl
@[simp] theorem State.freshId_msixPend (s : State) : s.freshId.1.msixPend = s.msixPend := rfl
@[simp] theorem State.freshId_msixTable (s : State) : s.freshId.1.msixTable = s.msixTable := rfl
@[simp] theorem State.freshId_failedAdds (s : State) : s.freshId.1.failedAdds = s.failedAdds := rfl
@[simp] theorem State.freshId_heldAdds (s : State) : s.freshId.1.heldAdds = s.heldAdds := rfl
@[simp] theorem State.freshId_heldBacks (s : State) : s.freshId.1.heldBacks = s.heldBacks := rfl
@[simp] theorem State.freshId_regionFaults (s : State) : s.freshId.1.regionFaults = s.regionFaults := rfl
@[simp] theorem State.freshId_slotA (s : State) : s.freshId.1.slotA = s.slotA := rfl
@[simp] theorem State.freshId_slotB (s : State) : s.freshId.1.slotB = s.slotB := rfl
@[simp] theorem State.freshId_bootStep (s : State) : s.freshId.1.bootStep = s.bootStep := rfl
@[simp] theorem State.freshId_fuseIdx (s : State) : s.freshId.1.fuseIdx = s.fuseIdx := rfl
@[simp] theorem State.freshId_keyDigest (s : State) : s.freshId.1.keyDigest = s.keyDigest := rfl
@[simp] theorem State.freshId_svnFloor (s : State) : s.freshId.1.svnFloor = s.svnFloor := rfl
@[simp] theorem State.freshId_reserveUsed (s : State) : s.freshId.1.reserveUsed = s.reserveUsed := rfl
@[simp] theorem State.freshId_removed (s : State) : s.freshId.1.removed = s.removed := rfl
@[simp] theorem State.freshId_tripped (s : State) : s.freshId.1.tripped = s.tripped := rfl
@[simp] theorem State.freshId_spdm (s : State) : s.freshId.1.spdm = s.spdm := rfl

/-! ## `State.draw` -/

@[simp] theorem State.draw_snd (s : State) : s.draw.2 = s.draws := rfl
@[simp] theorem State.draw_clk (s : State) : s.draw.1.clk = s.clk := rfl
@[simp] theorem State.draw_seq (s : State) : s.draw.1.seq = s.seq := rfl
@[simp] theorem State.draw_nextId (s : State) : s.draw.1.nextId = s.nextId := rfl
@[simp] theorem State.draw_draws (s : State) : s.draw.1.draws = s.draws + 1 := rfl
@[simp] theorem State.draw_cur (s : State) : s.draw.1.cur = s.cur := rfl
@[simp] theorem State.draw_agenda (s : State) : s.draw.1.agenda = s.agenda := rfl
@[simp] theorem State.draw_inbox (s : State) : s.draw.1.inbox = s.inbox := rfl
@[simp] theorem State.draw_msg (s : State) : s.draw.1.msg = s.msg := rfl
@[simp] theorem State.draw_outbox (s : State) : s.draw.1.outbox = s.outbox := rfl
@[simp] theorem State.draw_threads (s : State) : s.draw.1.threads = s.threads := rfl
@[simp] theorem State.draw_braids (s : State) : s.draw.1.braids = s.braids := rfl
@[simp] theorem State.draw_wgs (s : State) : s.draw.1.wgs = s.wgs := rfl
@[simp] theorem State.draw_cores (s : State) : s.draw.1.cores = s.cores := rfl
@[simp] theorem State.draw_clusters (s : State) : s.draw.1.clusters = s.clusters := rfl
@[simp] theorem State.draw_dies (s : State) : s.draw.1.dies = s.dies := rfl
@[simp] theorem State.draw_stackTbl (s : State) : s.draw.1.stackTbl = s.stackTbl := rfl
@[simp] theorem State.draw_parts (s : State) : s.draw.1.parts = s.parts := rfl
@[simp] theorem State.draw_launches (s : State) : s.draw.1.launches = s.launches := rfl
@[simp] theorem State.draw_reqs (s : State) : s.draw.1.reqs = s.reqs := rfl
@[simp] theorem State.draw_formed (s : State) : s.draw.1.formed = s.formed := rfl
@[simp] theorem State.draw_qfences (s : State) : s.draw.1.qfences = s.qfences := rfl
@[simp] theorem State.draw_ranges (s : State) : s.draw.1.ranges = s.ranges := rfl
@[simp] theorem State.draw_hostWindow (s : State) : s.draw.1.hostWindow = s.hostWindow := rfl
@[simp] theorem State.draw_dram (s : State) : s.draw.1.dram = s.dram := rfl
@[simp] theorem State.draw_dramPoison (s : State) : s.draw.1.dramPoison = s.dramPoison := rfl
@[simp] theorem State.draw_hostMem (s : State) : s.draw.1.hostMem = s.hostMem := rfl
@[simp] theorem State.draw_hostPoison (s : State) : s.draw.1.hostPoison = s.hostPoison := rfl
@[simp] theorem State.draw_haroot (s : State) : s.draw.1.haroot = s.haroot := rfl
@[simp] theorem State.draw_piroot (s : State) : s.draw.1.piroot = s.piroot := rfl
@[simp] theorem State.draw_cmroot (s : State) : s.draw.1.cmroot = s.cmroot := rfl
@[simp] theorem State.draw_hatlb (s : State) : s.draw.1.hatlb = s.hatlb := rfl
@[simp] theorem State.draw_pitlb (s : State) : s.draw.1.pitlb = s.pitlb := rfl
@[simp] theorem State.draw_cmtlb (s : State) : s.draw.1.cmtlb = s.cmtlb := rfl
@[simp] theorem State.draw_devidx (s : State) : s.draw.1.devidx = s.devidx := rfl
@[simp] theorem State.draw_ports (s : State) : s.draw.1.ports = s.ports := rfl
@[simp] theorem State.draw_lost (s : State) : s.draw.1.lost = s.lost := rfl
@[simp] theorem State.draw_peerMem (s : State) : s.draw.1.peerMem = s.peerMem := rfl
@[simp] theorem State.draw_peerOpen (s : State) : s.draw.1.peerOpen = s.peerOpen := rfl
@[simp] theorem State.draw_peerDone (s : State) : s.draw.1.peerDone = s.peerDone := rfl
@[simp] theorem State.draw_peerReqs (s : State) : s.draw.1.peerReqs = s.peerReqs := rfl
@[simp] theorem State.draw_cxlUp (s : State) : s.draw.1.cxlUp = s.cxlUp := rfl
@[simp] theorem State.draw_hdmBase (s : State) : s.draw.1.hdmBase = s.hdmBase := rfl
@[simp] theorem State.draw_hdmSize (s : State) : s.draw.1.hdmSize = s.hdmSize := rfl
@[simp] theorem State.draw_cxlRegs (s : State) : s.draw.1.cxlRegs = s.cxlRegs := rfl
@[simp] theorem State.draw_msixMask (s : State) : s.draw.1.msixMask = s.msixMask := rfl
@[simp] theorem State.draw_msixPend (s : State) : s.draw.1.msixPend = s.msixPend := rfl
@[simp] theorem State.draw_msixTable (s : State) : s.draw.1.msixTable = s.msixTable := rfl
@[simp] theorem State.draw_failedAdds (s : State) : s.draw.1.failedAdds = s.failedAdds := rfl
@[simp] theorem State.draw_heldAdds (s : State) : s.draw.1.heldAdds = s.heldAdds := rfl
@[simp] theorem State.draw_heldBacks (s : State) : s.draw.1.heldBacks = s.heldBacks := rfl
@[simp] theorem State.draw_regionFaults (s : State) : s.draw.1.regionFaults = s.regionFaults := rfl
@[simp] theorem State.draw_slotA (s : State) : s.draw.1.slotA = s.slotA := rfl
@[simp] theorem State.draw_slotB (s : State) : s.draw.1.slotB = s.slotB := rfl
@[simp] theorem State.draw_bootStep (s : State) : s.draw.1.bootStep = s.bootStep := rfl
@[simp] theorem State.draw_fuseIdx (s : State) : s.draw.1.fuseIdx = s.fuseIdx := rfl
@[simp] theorem State.draw_keyDigest (s : State) : s.draw.1.keyDigest = s.keyDigest := rfl
@[simp] theorem State.draw_svnFloor (s : State) : s.draw.1.svnFloor = s.svnFloor := rfl
@[simp] theorem State.draw_reserveUsed (s : State) : s.draw.1.reserveUsed = s.reserveUsed := rfl
@[simp] theorem State.draw_removed (s : State) : s.draw.1.removed = s.removed := rfl
@[simp] theorem State.draw_tripped (s : State) : s.draw.1.tripped = s.tripped := rfl
@[simp] theorem State.draw_spdm (s : State) : s.draw.1.spdm = s.spdm := rfl

/-! ## Derived updates -/

theorem State.modPower_eq (s : State) (d : Nat) (f : Power → Power) :
    s.modPower d f = s.modDie d (fun x => { x with power := f x.power }) := rfl

theorem State.modTile_eq (s : State) (cl t : Nat) (f : Tile → Tile) :
    s.modTile cl t f = s.modCluster cl (fun x => { x with tiles := modAt x.tiles t f }) := rfl

theorem State.modTurn_eq (s : State) (c : Nat) (f : Turn → Turn) :
    s.modTurn c f = s.modCore c (fun x => { x with turn := x.turn.map f }) := rfl

theorem State.atCycleEnd_eq (s : State) (c : Nat) (a : CycAct) :
    s.atCycleEnd c a = s.modTurn c (fun t => { t with acts := t.acts ++ [a] }) := rfl

/-! ## Looking up what was updated -/

theorem State.core_modCore (s : State) (c d : Nat) (f : Core → Core) :
    (s.modCore c f).core d = if d = c then f (s.core c) else s.core d := Tbl.getD_put ..

theorem State.cluster_modCluster (s : State) (c d : Nat) (f : Cluster → Cluster) :
    (s.modCluster c f).cluster d = if d = c then f (s.cluster c) else s.cluster d := Tbl.getD_put ..

theorem State.die_modDie (s : State) (c d : Nat) (f : Die → Die) :
    (s.modDie c f).die d = if d = c then f (s.die c) else s.die d := Tbl.getD_put ..

theorem State.stack_modStack (s : State) (c d : Nat) (f : Stack → Stack) :
    (s.modStack c f).stack d = if d = c then f (s.stack c) else s.stack d := Tbl.getD_put ..

theorem State.part_modPart (s : State) (c d : Nat) (f : Partition → Partition) :
    (s.modPart c f).part d = if d = c then f (s.part c) else s.part d := Tbl.getD_put ..

/-- A thread that is not the one changed is as before. -/
theorem State.thr_modThr_ne (s : State) {wg t wg' t' : Nat} (f : Thread → Thread) (h : tkey wg' t' ≠ tkey wg t) :
    (s.modThr wg t f).thr wg' t' = s.thr wg' t' := by
  simp only [State.thr, State.modThr_threads, Tbl.get?_mod, if_neg h]

/-- A resident thread that is changed. -/
theorem State.thr_modThr_same (s : State) (wg t : Nat) (f : Thread → Thread)
    (h : (Tbl.get? s.threads (tkey wg t)).isSome = true) : (s.modThr wg t f).thr wg t = f (s.thr wg t) := by
  obtain ⟨x, hx⟩ := Option.isSome_iff_exists.mp h
  simp [State.thr, Tbl.get?_mod, hx]

/-- Residence does not change with what a thread holds. -/
@[simp] theorem State.resident_modThr (s : State) (wg t k : Nat) (f : Thread → Thread) :
    (Tbl.get? (s.modThr wg t f).threads k).isSome = (Tbl.get? s.threads k).isSome := by
  simp only [State.modThr_threads, Tbl.get?_mod]
  split <;> simp

theorem State.wgrp_modWg_ne (s : State) {wg w : Nat} (f : Workgroup → Workgroup) (h : w ≠ wg) :
    (s.modWg wg f).wgrp w = s.wgrp w := by
  simp only [State.wgrp, State.modWg_wgs, Tbl.get?_mod, if_neg h]

theorem State.wgrp_modWg_same (s : State) (wg : Nat) (f : Workgroup → Workgroup)
    (h : (Tbl.get? s.wgs wg).isSome = true) : (s.modWg wg f).wgrp wg = f (s.wgrp wg) := by
  obtain ⟨x, hx⟩ := Option.isSome_iff_exists.mp h
  simp [State.wgrp, Tbl.get?_mod, hx]

theorem State.brd_modBrd_ne (s : State) {wg b w c : Nat} (f : Braid → Braid) (h : bkey w c ≠ bkey wg b) :
    (s.modBrd wg b f).brd w c = s.brd w c := by
  simp only [State.brd, State.modBrd_braids, Tbl.get?_mod, if_neg h]

theorem State.brd_modBrd_same (s : State) (wg b : Nat) (f : Braid → Braid)
    (h : (Tbl.get? s.braids (bkey wg b)).isSome = true) : (s.modBrd wg b f).brd wg b = f (s.brd wg b) := by
  obtain ⟨x, hx⟩ := Option.isSome_iff_exists.mp h
  simp [State.brd, Tbl.get?_mod, hx]

end Sys2Proof.Machine
end

