-- ==== Sys2Proof/Laws/Driver.lean ====
section
/-! SUPPORT. The driver of a word: what a word that each thread executes for itself can do, said once for every such word. -/

namespace Sys2Proof.Machine

variable {c : Cur} {K L : Nat → Prop} {s t u : State}

/-! ## `LanesOnly` -/

theorem LanesOnly.refl (c : Cur) (K : Nat → Prop) (s : State) : LanesOnly c K s s :=
  ⟨rfl, fun _ _ => rfl, fun _ => rfl, fun _ => rfl, fun _ _ => rfl, rfl, fun _ _ h _ => h, rfl, List.prefix_rfl⟩

theorem LanesOnly.mono (h : LanesOnly c K s t) (hk : ∀ k, K k → L k) : LanesOnly c L s t :=
  ⟨h.rest, fun k hl => h.thread k (fun x => hl (hk k x)), h.stay, h.core, h.turn, h.keys,
    fun i m hm hl => h.member i m hm (fun x => hl (hk _ x)), h.pc, h.lands⟩

theorem LanesOnly.trans (h : LanesOnly c K s t) (g : LanesOnly c K t u) : LanesOnly c K s u := by
  refine ⟨?_, fun k hk => (g.thread k hk).trans (h.thread k hk), fun k => (g.stay k).trans (h.stay k), fun k => ?_,
    fun k hk => (g.turn k hk).trans (h.turn k hk), g.keys.trans h.keys, fun i m hm hk => g.member i m (h.member i m hm hk) hk,
    g.pc.trans h.pc, h.lands.trans g.lands⟩
  · exact (congrArg (fun x : State => { x with threads := s.threads, cores := s.cores }) g.rest).trans h.rest
  · exact (congrArg (fun x : Core => { x with turn := (s.core k).turn }) (g.core k)).trans (h.core k)

theorem LanesOnly.clk (h : LanesOnly c K s t) : t.clk = s.clk := by rw [← h.rest]
theorem LanesOnly.cur (h : LanesOnly c K s t) : t.cur = s.cur := by rw [← h.rest]
theorem LanesOnly.parts (h : LanesOnly c K s t) : t.parts = s.parts := by rw [← h.rest]

theorem LanesOnly.thr (h : LanesOnly c K s t) {wg x : Nat} (hk : ¬ K (tkey wg x)) : t.thr wg x = s.thr wg x := by
  simp only [State.thr, h.thread _ hk]

theorem LanesOnly.wgrp (h : LanesOnly c K s t) (w : Nat) : t.wgrp w = s.wgrp w := by
  have : t.wgs = s.wgs := by rw [← h.rest]
  simp only [State.wgrp, this]

theorem LanesOnly.brd (h : LanesOnly c K s t) (w b : Nat) : t.brd w b = s.brd w b := by
  have : t.braids = s.braids := by rw [← h.rest]
  simp only [State.brd, this]

theorem LanesOnly.group_length (h : LanesOnly c K s t) : (t.group c).length = (s.group c).length := by
  have := congrArg List.length h.keys
  simpa using this

/-! ## One update at a time -/

theorem LanesOnly.of_modThr (wg x : Nat) (f : Thread → Thread) (hk : K (tkey wg x)) : LanesOnly c K s (s.modThr wg x f) := by
  refine ⟨rfl, fun k h => ?_, fun k => State.resident_modThr s wg x k f, fun _ => rfl, fun _ _ => rfl, rfl,
    fun _ _ h _ => h, rfl, List.prefix_rfl⟩
  rw [State.modThr_threads, Tbl.get?_mod, if_neg]
  rintro rfl
  exact h hk

/-- A thread changes. -/
theorem LanesOnly.of_own (m : Member) (f : Thread → Thread) : LanesOnly c (fun x => x = m.key) s (s.modThr m.wg m.t f) :=
  LanesOnly.of_modThr _ _ _ rfl

theorem State.turnOf_modCore (s : State) (k d : Nat) (f : Core → Core) :
    (s.modCore k f).turnOf d = if d = k then (f (s.core k)).turn else s.turnOf d := by
  simp only [State.turnOf, State.core_modCore]
  split <;> rfl

/-- The packet that a core is issuing, by its place. -/
theorem State.group_eq (s : State) (c : Cur) : s.group c =
    (((s.turnOf c.core).map (fun t => (t.pkts.getD c.pkt ⟨0, [], false, []⟩).members)).getD []) := by
  simp only [State.group, State.members]
  cases s.turnOf c.core <;> rfl

theorem State.pktPc_eq (s : State) (k p : Nat) : s.pktPc k p =
    (((s.turnOf k).map (fun t => (t.pkts.getD p ⟨0, [], false, []⟩).pc)).getD 0) := by
  simp only [State.pktPc]
  cases s.turnOf k <;> rfl

theorem State.turnOf_modTurn (s : State) (k d : Nat) (f : Turn → Turn) :
    (s.modTurn k f).turnOf d = if d = k then (s.turnOf k).map f else s.turnOf d := by
  rw [State.modTurn_eq, State.turnOf_modCore]; rfl

theorem State.landing_eq (s : State) (k : Nat) : s.landing k = ((s.turnOf k).map Turn.acts).getD [] := by
  simp only [State.landing]
  cases s.turnOf k <;> rfl

theorem State.landing_modTurn (s : State) (k : Nat) (f : Turn → Turn) :
    (s.modTurn k f).landing k = ((s.turnOf k).map (fun x => (f x).acts)).getD [] := by
  rw [State.landing_eq, State.turnOf_modTurn, if_pos rfl, Option.map_map]
  rfl

/-- A change of the turn of the core: the group and the PC of its packet may change, what a word leaves alone does not. -/
theorem LanesOnly.of_turn (f : Turn → Turn)
    (hkeys : ((s.modTurn c.core f).group c).map Member.key = (s.group c).map Member.key)
    (hmem : ∀ (i : Nat) (m : Member), (s.group c)[i]? = some m → ¬ K m.key → ((s.modTurn c.core f).group c)[i]? = some m)
    (hpc : (s.modTurn c.core f).pktPc c.core c.pkt = s.pktPc c.core c.pkt) (hl : ∀ x, x.acts <+: (f x).acts) :
    LanesOnly c K s (s.modTurn c.core f) := by
  refine ⟨rfl, fun _ _ => rfl, fun _ => rfl, fun j => ?_, fun j hj => ?_, hkeys, hmem, hpc, ?_⟩
  · rw [State.modTurn_eq, State.core_modCore]
    split
    · rename_i h; rw [h]
    · rfl
  · rw [State.turnOf_modTurn, if_neg hj]
  · rw [State.landing_modTurn, State.landing_eq]
    cases s.turnOf c.core with
    | none => exact List.prefix_rfl
    | some x => exact hl x

/-- The turn of the core changes in no packet. -/
theorem LanesOnly.of_modTurn (f : Turn → Turn) (hf : ∀ x, (f x).pkts = x.pkts) (hl : ∀ x, x.acts <+: (f x).acts) : LanesOnly c K s (s.modTurn c.core f) := by
  have hm : (s.modTurn c.core f).group c = s.group c := by
    rw [State.group_eq, State.group_eq, State.turnOf_modTurn, if_pos rfl]
    cases s.turnOf c.core <;> simp [hf]
  refine LanesOnly.of_turn f (by rw [hm]) (fun i m h _ => by rwa [hm]) ?_ hl
  rw [State.pktPc_eq, State.pktPc_eq, State.turnOf_modTurn, if_pos rfl]
  cases s.turnOf c.core <;> simp [hf]

theorem LanesOnly.of_atCycleEnd (a : CycAct) : LanesOnly c K s (s.atCycleEnd c.core a) :=
  LanesOnly.of_modTurn _ (fun _ => rfl) (fun _ => List.prefix_append ..)

theorem modAt_getElem? {α : Type} (l : List α) (i j : Nat) (f : α → α) :
    (modAt l i f)[j]? = if j = i then (l[j]?).map f else l[j]? := by
  induction l generalizing i j with
  | nil => simp [modAt]
  | cons x r ih =>
    cases i with
    | zero => cases j <;> simp [modAt]
    | succ i =>
      cases j with
      | zero => simp [modAt]
      | succ j => simpa [modAt] using ih i j

/-- The members of the packet in progress change one by one. -/
theorem State.group_modPkt (s : State) (c : Cur) (f : List Member → List Member) (h0 : f [] = []) :
    (s.modTurn c.core (fun t => { t with pkts := modAt t.pkts c.pkt (fun p => { p with members := f p.members }) })).group c =
      f (s.group c) := by
  rw [State.group_eq, State.group_eq, State.turnOf_modTurn, if_pos rfl]
  cases s.turnOf c.core with
  | none => simp [h0]
  | some t =>
    simp only [Option.map_some, Option.getD_some, List.getD_eq_getElem?_getD, modAt_getElem?, if_true]
    cases t.pkts[c.pkt]? <;> simp [h0]

theorem State.pktPc_modPkt (s : State) (c : Cur) (f : List Member → List Member) :
    (s.modTurn c.core (fun t => { t with pkts := modAt t.pkts c.pkt (fun p => { p with members := f p.members }) })).pktPc c.core c.pkt =
      s.pktPc c.core c.pkt := by
  rw [State.pktPc_eq, State.pktPc_eq, State.turnOf_modTurn, if_pos rfl]
  cases s.turnOf c.core with
  | none => rfl
  | some t =>
    simp only [Option.map_some, Option.getD_some, List.getD_eq_getElem?_getD, modAt_getElem?, if_true]
    cases t.pkts[c.pkt]? <;> simp

/-- The group after a change of what the packet holds of one thread. -/
theorem State.group_upd (s : State) (c : Cur) (m : Member) (f : Member → Member) :
    (s.upd c m f).group c = (s.group c).map (fun x => if x.wg = m.wg ∧ x.t = m.t then f x else x) :=
  State.group_modPkt s c _ rfl

theorem State.group_modMember (s : State) (c : Cur) (i : Nat) (f : Member → Member) :
    (s.modMember c.core c.pkt i f).group c = modAt (s.group c) i f :=
  State.group_modPkt s c (fun l => modAt l i f) rfl

theorem LanesOnly.of_upd (m : Member) (f : Member → Member) (hf : ∀ x, (f x).key = x.key) (hk : K m.key) :
    LanesOnly c K s (s.upd c m f) := by
  refine LanesOnly.of_turn _ ?_ ?_ (State.pktPc_modPkt s c _) (fun _ => List.prefix_rfl)
  · rw [show s.modTurn c.core _ = s.upd c m f from rfl, State.group_upd, List.map_map]
    refine List.map_congr_left (fun x _ => ?_)
    simp only [Function.comp]
    split <;> simp [hf]
  · intro i x hx hn
    rw [show s.modTurn c.core _ = s.upd c m f from rfl, State.group_upd, List.getElem?_map, hx, Option.map_some, if_neg]
    rintro ⟨h1, h2⟩
    exact hn (by rw [Member.key, h1, h2]; exact hk)

@[simp] theorem Member.key_addFault (m : Member) (p : Nat) (a : Async) : (m.addFault p a).key = m.key := by
  have : (m.addFault p a).wg = m.wg ∧ (m.addFault p a).t = m.t := by
    unfold Member.addFault
    constructor <;> (dsimp only; repeat' split) <;> rfl
  rw [Member.key, Member.key, this.1, this.2]

/-- What the packet holds of one of its members changes. -/
theorem LanesOnly.of_modMember (i : Nat) (f : Member → Member) (hf : ∀ x, (f x).key = x.key)
    (hk : ∀ m, (s.group c)[i]? = some m → K m.key) : LanesOnly c K s (s.modMember c.core c.pkt i f) := by
  refine LanesOnly.of_turn _ ?_ ?_ (State.pktPc_modPkt s c (fun l => modAt l i f)) (fun _ => List.prefix_rfl)
  · rw [show s.modTurn c.core _ = s.modMember c.core c.pkt i f from rfl, State.group_modMember]
    apply List.ext_getElem?
    intro j
    simp only [List.getElem?_map, modAt_getElem?]
    split
    · have he : Member.key ∘ f = Member.key := funext hf
      rw [Option.map_map, he]
    · rfl
  · intro j m hm hn
    rw [show s.modTurn c.core _ = s.modMember c.core c.pkt i f from rfl, State.group_modMember, modAt_getElem?, if_neg, hm]
    rintro rfl
    exact hn (hk m hm)

/-- R398: a fault is noted for a member of the packet. -/
theorem LanesOnly.of_faultMember (i cause info : Nat) (hk : ∀ m, (s.group c)[i]? = some m → K m.key) :
    LanesOnly c K s (s.faultMember c i cause info) :=
  LanesOnly.of_modMember i _ (fun x => Member.key_addFault x _ _) hk

/-! ## The driver -/

/-- A member executes a word of a kind, header and operands. -/
def runs (k : WKind) (h : Hdr) (ops : List Opn) (signed : Bool) (c : Cur) (s : State) (m : Member) : Bool :=
  !m.skip.getLsbD c.pos && (fieldCause k h ops c.core (s.wgrp m.wg).n (s.thr m.wg m.t).priv (signed && m.guard h)).isNone &&
  (!k.guarded || m.guard h) && !ops.any (Opn.stale (s.thr m.wg m.t).latch)

theorem runs_congr {k : WKind} {h : Hdr} {ops : List Opn} {signed : Bool} {m : Member} (hl : LanesOnly c K s t) (hm : ¬ K m.key) :
    runs k h ops signed c t m = runs k h ops signed c s m := by
  simp only [runs, hl.wgrp, hl.thr hm]

/-- The place of each member of a list in the group. -/
def Placed (s : State) (c : Cur) (l : List Member) (i : Nat) : Prop :=
  ∀ j m, l[j]? = some m → ((s.group c)[i + j]?).map Member.key = some m.key

theorem Placed.tail {l : List Member} {i : Nat} {m : Member} (h : Placed s c (m :: l) i) : Placed s c l (i + 1) := by
  intro j x hx
  have := h (j + 1) x (by simpa using hx)
  rwa [show i + (j + 1) = i + 1 + j by omega] at this

theorem LanesOnly.keyAt (h : LanesOnly c K s t) (j : Nat) : ((t.group c)[j]?).map Member.key = ((s.group c)[j]?).map Member.key := by
  have := congrArg (fun l => l[j]?) h.keys
  simpa using this

theorem Placed.congr {l : List Member} {i : Nat} (h : Placed s c l i) (hl : LanesOnly c K s t) : Placed t c l i :=
  fun j m hm => (hl.keyAt _).trans (h j m hm)

theorem Placed.head {l : List Member} {i : Nat} {m : Member} (h : Placed s c (m :: l) i) :
    ∀ x, (s.group c)[i]? = some x → x.key = m.key := by
  intro x hx
  have := h 0 m rfl
  rw [Nat.add_zero, hx] at this
  simpa using this

theorem LanesOnly.of_pushInvalid (m : Member) (hk : K m.key) : LanesOnly c K s (s.pushInvalid m) :=
  LanesOnly.of_modThr _ _ _ hk

/-- Who is left to execute a word, and what those who are not take of it. -/
theorem liveFrom_spec (k : WKind) (h : Hdr) (ops : List Opn) (signed : Bool) (c : Cur) (l : List Member) (i : Nat) (s : State)
    (hn : (l.map Member.key).Nodup) (hp : Placed s c l i) :
    LanesOnly c (fun x => ∃ m ∈ l, m.key = x ∧ runs k h ops signed c s m = false) s (liveFrom k h ops signed c l i s).1 ∧
    (liveFrom k h ops signed c l i s).2 =
      ((l.zipIdx i).filter (fun p => runs k h ops signed c s p.1)).map (fun p => (p.2, p.1)) := by
  induction l generalizing i s with
  | nil => exact ⟨LanesOnly.refl .., rfl⟩
  | cons m r ih =>
    obtain ⟨hm, hr⟩ := List.nodup_cons.mp (by simpa using hn : (m.key :: r.map Member.key).Nodup)
    have hne : ∀ x ∈ r, x.key ≠ m.key := fun x hx e => hm (e ▸ List.mem_map_of_mem hx)
    -- a member that does not execute the word
    have step : ∀ s1, runs k h ops signed c s m = false → LanesOnly c (fun x => x = m.key) s s1 →
        LanesOnly c (fun x => ∃ y ∈ m :: r, y.key = x ∧ runs k h ops signed c s y = false) s (liveFrom k h ops signed c r (i + 1) s1).1 ∧
        (liveFrom k h ops signed c r (i + 1) s1).2 =
          (((m :: r).zipIdx i).filter (fun p => runs k h ops signed c s p.1)).map (fun p => (p.2, p.1)) := by
      intro s1 hf h1
      have hc : ∀ y ∈ r, runs k h ops signed c s1 y = runs k h ops signed c s y := fun y hy => runs_congr h1 (hne y hy)
      obtain ⟨ha, hb⟩ := ih (i + 1) s1 hr (hp.tail.congr h1)
      refine ⟨(h1.mono ?_).trans (ha.mono ?_), ?_⟩
      · rintro x rfl
        exact ⟨m, List.mem_cons_self .., rfl, hf⟩
      · rintro x ⟨y, hy, rfl, h2⟩
        exact ⟨y, List.mem_cons_of_mem _ hy, rfl, by rwa [hc y hy] at h2⟩
      · rw [hb, List.zipIdx_cons, List.filter_cons, if_neg (by simpa using hf)]
        congr 1
        refine List.filter_congr (fun p hp => ?_)
        exact hc p.1 (List.fst_mem_of_mem_zipIdx hp)
    simp only [liveFrom]
    split
    · rename_i hs
      refine step _ (by simp [runs, hs]) ?_
      split
      · exact LanesOnly.of_pushInvalid m rfl
      · exact LanesOnly.refl ..
    · rename_i hs
      split
      · rename_i cause hfc
        exact step _ (by simp [runs, hfc]) (LanesOnly.of_faultMember i cause 0 hp.head)
      · rename_i hfc
        split
        · rename_i hg
          refine step _ ?_ ?_
          · simp only [Bool.and_eq_true, Bool.not_eq_true'] at hg
            simp [runs, hg.1, hg.2]
          · split
            · exact LanesOnly.of_pushInvalid m rfl
            · exact LanesOnly.refl ..
        · rename_i hg
          split
          · rename_i hx
            exact step _ (by simp [runs, hx]) (LanesOnly.of_faultMember i 0x13 0 hp.head)
          rename_i hx
          have hrun : runs k h ops signed c s m = true := by
            cases hk : k.guarded <;> simp_all [runs]
          obtain ⟨ha, hb⟩ := ih (i + 1) s hr hp.tail
          refine ⟨ha.mono ?_, ?_⟩
          · rintro x ⟨y, hy, rfl, h2⟩
            exact ⟨y, List.mem_cons_of_mem _ hy, rfl, h2⟩
          · show (i, m) :: (liveFrom k h ops signed c r (i + 1) s).2 = _
            rw [hb, List.zipIdx_cons, List.filter_cons, if_pos hrun, List.map_cons]

/-- What a lane function may do: it changes what `LanesOnly` lets the thread change, and nothing of another. -/
def LaneFn (c : Cur) (f : State → Cur → Member → Except (Nat × Nat) State) : Prop :=
  ∀ s m t, f s c m = .ok t → LanesOnly c (fun x => x = m.key) s t

/-- The step of one lane: its result, or its fault. -/
def LaneStep (c : Cur) (f : State → Cur → Member → Except (Nat × Nat) State) (i : Nat) (m : Member) (s t : State) : Prop :=
  f s c m = .ok t ∨ ∃ e, f s c m = .error e ∧ t = if e.1 == 0 then s else s.faultMember c i e.1 e.2

theorem LaneStep.only {f : State → Cur → Member → Except (Nat × Nat) State} {i : Nat} {m : Member} (hf : LaneFn c f)
    (h : LaneStep c f i m s t) (hi : ∀ x, (s.group c)[i]? = some x → x.key = m.key) : LanesOnly c (fun x => x = m.key) s t := by
  rcases h with h | ⟨e, -, rfl⟩
  · exact hf s m t h
  · split
    · exact LanesOnly.refl ..
    · exact LanesOnly.of_faultMember i _ _ hi

/-- A word executed lane by lane: each lane takes its step in a state in which others only have acted, and only others act
after it. -/
theorem lanes_spec {f : State → Cur → Member → Except (Nat × Nat) State} (hf : LaneFn c f) (l : List (Nat × Member)) (s : State)
    (hn : (l.map (fun p => p.2.key)).Nodup) (hp : ∀ p ∈ l, ((s.group c)[p.1]?).map Member.key = some p.2.key) :
    LanesOnly c (fun x => ∃ p ∈ l, p.2.key = x) s (lanes c f l s) ∧
    ∀ p ∈ l, ∃ s1 s2, LanesOnly c (fun x => x ≠ p.2.key) s s1 ∧ LaneStep c f p.1 p.2 s1 s2 ∧
      LanesOnly c (fun x => x ≠ p.2.key) s2 (lanes c f l s) := by
  induction l generalizing s with
  | nil => exact ⟨LanesOnly.refl .., fun _ h => by cases h⟩
  | cons q r ih =>
    obtain ⟨i, m⟩ := q
    obtain ⟨hm, hr⟩ := List.nodup_cons.mp (by simpa using hn : (m.key :: r.map (fun p => p.2.key)).Nodup)
    have hne : ∀ p ∈ r, p.2.key ≠ m.key := fun p hx e => hm (e ▸ List.mem_map_of_mem hx)
    have hi : ∀ x, (s.group c)[i]? = some x → x.key = m.key := by
      intro x hx
      have := hp (i, m) (List.mem_cons_self ..)
      rw [hx] at this
      simpa using this
    obtain ⟨s1, hs1, he⟩ : ∃ s1, LaneStep c f i m s s1 ∧ lanes c f ((i, m) :: r) s = lanes c f r s1 := by
      simp only [lanes]
      cases h : f s c m with
      | ok s' => exact ⟨s', .inl h, rfl⟩
      | error e => exact ⟨_, .inr ⟨e, h, rfl⟩, rfl⟩
    have h1 := hs1.only hf hi
    obtain ⟨ha, hb⟩ := ih s1 hr (fun p hpr => (h1.keyAt _).trans (hp p (List.mem_cons_of_mem _ hpr)))
    rw [he]
    refine ⟨(h1.mono ?_).trans (ha.mono ?_), fun p hpm => ?_⟩
    · rintro x rfl
      exact ⟨(i, m), List.mem_cons_self .., rfl⟩
    · rintro x ⟨p, hpr, rfl⟩
      exact ⟨p, List.mem_cons_of_mem _ hpr, rfl⟩
    · rcases List.mem_cons.mp hpm with rfl | hpr
      · refine ⟨s, s1, LanesOnly.refl .., hs1, ha.mono ?_⟩
        rintro x ⟨p, hpr, rfl⟩
        exact hne p hpr
      · obtain ⟨t1, t2, h2, h3, h4⟩ := hb p hpr
        refine ⟨t1, t2, (h1.mono ?_).trans h2, h3, h4⟩
        rintro x rfl
        exact (hne p hpr).symm

/-- What the driver does with a member that does not execute the word (R221, R225, R398, R404, R416). -/
def SkipStep (k : WKind) (h : Hdr) (ops : List Opn) (signed : Bool) (c : Cur) (i : Nat) (m : Member) (s t : State) : Prop :=
  (m.skip.getLsbD c.pos = true ∧ t = if k.latch then s.pushInvalid m else s) ∨
  (m.skip.getLsbD c.pos = false ∧ ∃ cause, fieldCause k h ops c.core (s.wgrp m.wg).n (s.thr m.wg m.t).priv (signed && m.guard h) = some cause ∧
    t = s.faultMember c i cause 0) ∨
  (m.skip.getLsbD c.pos = false ∧ fieldCause k h ops c.core (s.wgrp m.wg).n (s.thr m.wg m.t).priv (signed && m.guard h) = none ∧
    k.guarded = true ∧ m.guard h = false ∧ t = if k.latch then s.pushInvalid m else s) ∨
  (m.skip.getLsbD c.pos = false ∧ fieldCause k h ops c.core (s.wgrp m.wg).n (s.thr m.wg m.t).priv (signed && m.guard h) = none ∧
    (k.guarded = false ∨ m.guard h = true) ∧ ops.any (Opn.stale (s.thr m.wg m.t).latch) = true ∧ t = s.faultMember c i 0x13 0)

theorem SkipStep.only {k : WKind} {h : Hdr} {ops : List Opn} {signed : Bool} {i : Nat} {m : Member}
    (hs : SkipStep k h ops signed c i m s t) (hi : ∀ x, (s.group c)[i]? = some x → x.key = m.key) :
    LanesOnly c (fun x => x = m.key) s t := by
  rcases hs with ⟨-, rfl⟩ | ⟨-, cause, -, rfl⟩ | ⟨-, -, -, -, rfl⟩ | ⟨-, -, -, -, rfl⟩
  · split
    · exact LanesOnly.of_pushInvalid m rfl
    · exact LanesOnly.refl ..
  · exact LanesOnly.of_faultMember i _ _ hi
  · split
    · exact LanesOnly.of_pushInvalid m rfl
    · exact LanesOnly.refl ..
  · exact LanesOnly.of_faultMember i _ _ hi

/-- A member that does not execute a word: the driver deals with it in a state in which others only have been dealt with. -/
theorem liveFrom_skip (k : WKind) (h : Hdr) (ops : List Opn) (signed : Bool) (c : Cur) (l : List Member) (i : Nat) (s : State)
    (hn : (l.map Member.key).Nodup) (hp : Placed s c l i) (j : Nat) (m : Member) (hj : l[j]? = some m)
    (hr : runs k h ops signed c s m = false) :
    ∃ s1 s2, LanesOnly c (fun x => x ≠ m.key) s s1 ∧ SkipStep k h ops signed c (i + j) m s1 s2 ∧
      LanesOnly c (fun x => x ≠ m.key) s2 (liveFrom k h ops signed c l i s).1 := by
  induction l generalizing i s j with
  | nil => simp at hj
  | cons q r ih =>
    obtain ⟨hm, hrn⟩ := List.nodup_cons.mp (by simpa using hn : (q.key :: r.map Member.key).Nodup)
    have hne : ∀ x ∈ r, x.key ≠ q.key := fun x hx e => hm (e ▸ List.mem_map_of_mem hx)
    by_cases hq : runs k h ops signed c s q = true
    · -- the head executes the word
      have he : (liveFrom k h ops signed c (q :: r) i s).1 = (liveFrom k h ops signed c r (i + 1) s).1 := by
        simp only [runs, Bool.and_eq_true, Bool.not_eq_true', Option.isNone_iff_eq_none] at hq
        have hg : (k.guarded && !q.guard h) = false := by
          cases h1 : k.guarded <;> cases h2 : q.guard h <;> simp_all
        simp only [liveFrom, hq.1.1.1, hq.1.1.2, hg, hq.2]
        rfl
      cases j with
      | zero => simp at hj; subst hj; simp [hq] at hr
      | succ j =>
        obtain ⟨s1, s2, h1, h2, h3⟩ := ih (i + 1) s hrn hp.tail j (by simpa using hj) hr
        rw [show i + (j + 1) = i + 1 + j by omega, he]
        exact ⟨s1, s2, h1, h2, h3⟩
    · have hq : runs k h ops signed c s q = false := by simpa using hq
      obtain ⟨s0, h0, he⟩ : ∃ s0, SkipStep k h ops signed c i q s s0 ∧
          (liveFrom k h ops signed c (q :: r) i s).1 = (liveFrom k h ops signed c r (i + 1) s0).1 := by
        simp only [liveFrom]
        split
        · rename_i hs
          exact ⟨_, .inl ⟨hs, rfl⟩, rfl⟩
        · rename_i hs
          have hs : q.skip.getLsbD c.pos = false := by simpa using hs
          split
          · rename_i cause hfc
            exact ⟨_, .inr (.inl ⟨hs, cause, hfc, rfl⟩), rfl⟩
          · rename_i hfc
            split
            · rename_i hg
              simp only [Bool.and_eq_true, Bool.not_eq_true'] at hg
              exact ⟨_, .inr (.inr (.inl ⟨hs, hfc, hg.1, hg.2, rfl⟩)), rfl⟩
            · rename_i hg
              have hg' : k.guarded = false ∨ q.guard h = true := by
                cases h1 : k.guarded <;> cases h2 : q.guard h <;> simp_all
              split
              · rename_i hx
                exact ⟨_, .inr (.inr (.inr ⟨hs, hfc, hg', hx, rfl⟩)), rfl⟩
              · rename_i hx
                exfalso
                rcases hg' with h1 | h1
                · simp [runs, hs, hfc, h1, hx] at hq
                · rw [h1, Bool.and_true] at hfc
                  simp [runs, hs, hfc, h1, hx] at hq
      have hO := h0.only hp.head
      cases j with
      | zero =>
        simp at hj
        subst hj
        refine ⟨s, s0, LanesOnly.refl .., h0, ?_⟩
        rw [he]
        refine (liveFrom_spec k h ops signed c r (i + 1) s0 hrn (hp.tail.congr hO)).1.mono ?_
        rintro x ⟨y, hy, rfl, -⟩
        exact hne y hy
      | succ j =>
        have hjr : r[j]? = some m := by simpa using hj
        have hmr : m ∈ r := List.mem_of_getElem? hjr
        have hr' : runs k h ops signed c s0 m = false := by rw [runs_congr hO (hne m hmr)]; exact hr
        obtain ⟨s1, s2, h1, h2, h3⟩ := ih (i + 1) s0 hrn (hp.tail.congr hO) j hjr hr'
        rw [show i + (j + 1) = i + 1 + j by omega, he]
        refine ⟨s1, s2, (hO.mono ?_).trans h1, h2, h3⟩
        rintro x rfl
        exact (hne m hmr).symm

theorem Placed.group (s : State) (c : Cur) : Placed s c (s.group c) 0 := by
  intro j m hj
  rw [Nat.zero_add, hj]
  rfl

theorem key_inj {l : List Member} (hn : (l.map Member.key).Nodup) {m q : Member} (hm : m ∈ l) (hq : q ∈ l) (h : m.key = q.key) :
    m = q := by
  induction l with
  | nil => cases hm
  | cons x r ih =>
    obtain ⟨h1, h2⟩ := List.nodup_cons.mp (by simpa using hn : (x.key :: r.map Member.key).Nodup)
    rcases List.mem_cons.mp hm with hm | hm <;> rcases List.mem_cons.mp hq with hq | hq
    · rw [hm, hq]
    · have h3 : q.key ∈ r.map Member.key := List.mem_map_of_mem hq
      rw [← h, hm] at h3
      exact absurd h3 h1
    · have h3 : m.key ∈ r.map Member.key := List.mem_map_of_mem hm
      rw [h, hq] at h3
      exact absurd h3 h1
    · exact ih h2 hm hq

theorem Issuing.unique (hs : Issuing s c) {m q : Member} (hm : m ∈ s.group c) (hq : q ∈ s.group c) (h : m.key = q.key) : m = q :=
  key_inj hs.nodup hm hq h

theorem perLane_eq {k : WKind} {h : Hdr} {ops : List Opn} {f : State → Cur → Member → Except (Nat × Nat) State} (hc : s.cur = some c) :
    perLane k h ops f s = lanes c f (liveFrom k h ops false c (s.group c) 0 s).2 (liveFrom k h ops false c (s.group c) 0 s).1 := by
  simp only [perLane, hc]
  rfl

theorem perSigner_eq {k : WKind} {h : Hdr} {ops : List Opn} {f : State → Cur → Member → Except (Nat × Nat) State} (hc : s.cur = some c) :
    perSigner k h ops f s = lanes c f (liveFrom k h ops true c (s.group c) 0 s).2 (liveFrom k h ops true c (s.group c) 0 s).1 := by
  simp only [perSigner, hc]
  rfl

theorem perGroup_eq {k : WKind} {h : Hdr} {ops : List Opn} {f : State → Cur → List (Nat × Member) → State} (hc : s.cur = some c) :
    perGroup k h ops f s = f (liveFrom k h ops false c (s.group c) 0 s).1 c (liveFrom k h ops false c (s.group c) 0 s).2 := by
  simp only [perGroup, hc]
  rfl

/-- The members that execute a word, with their places. -/
def State.live (s : State) (c : Cur) (r : Member → Bool) : List (Nat × Member) :=
  (((s.group c).zipIdx 0).filter (fun p => r p.1)).map (fun p => (p.2, p.1))

theorem State.mem_live {r : Member → Bool} {p : Nat × Member} :
    p ∈ s.live c r ↔ (s.group c)[p.1]? = some p.2 ∧ r p.2 = true := by
  simp only [State.live, List.mem_map, List.mem_filter, List.mem_zipIdx_iff_getElem?]
  constructor
  · rintro ⟨q, ⟨h1, h2⟩, rfl⟩
    exact ⟨h1, h2⟩
  · rintro ⟨h1, h2⟩
    exact ⟨(p.2, p.1), ⟨h1, h2⟩, rfl⟩

theorem State.live_nodup (r : Member → Bool) (hn : ((s.group c).map Member.key).Nodup) :
    ((s.live c r).map (fun p => p.2.key)).Nodup := by
  have h1 : (s.live c r).map (fun p => p.2.key) = (((s.group c).zipIdx 0).filter (fun p => r p.1)).map (fun p => p.1.key) := by
    simp only [State.live, List.map_map]
    rfl
  have h2 : ((s.group c).zipIdx 0).map (fun p => p.1.key) = (s.group c).map Member.key := by
    show ((s.group c).zipIdx 0).map (Member.key ∘ Prod.fst) = _
    rw [← List.map_map, List.zipIdx_map_fst]
  rw [h1]
  rw [← h2] at hn
  exact hn.sublist ((List.filter_sublist).map _)

theorem State.live_nil_or (s : State) (c : Cur) (r : Member → Bool) : s.live c r = [] ∨ ∃ m ∈ s.group c, r m = true := by
  cases h : s.live c r with
  | nil => exact .inl rfl
  | cons p l =>
    obtain ⟨h1, h2⟩ := State.mem_live.mp (h ▸ List.mem_cons_self .. : p ∈ s.live c r)
    exact .inr ⟨p.2, List.mem_of_getElem? h1, h2⟩

/-- EVERYTHING a word can do that its threads execute each for itself: nothing but what `LanesOnly` allows its members. -/
theorem perLane_only {k : WKind} {h : Hdr} {ops : List Opn} {f : State → Cur → Member → Except (Nat × Nat) State}
    (hs : Issuing s c) (hf : (∃ m ∈ s.group c, runs k h ops false c s m = true) → LaneFn c f) :
    LanesOnly c (fun x => ∃ m ∈ s.group c, m.key = x) s (perLane k h ops f s) := by
  obtain ⟨ha, hb⟩ := liveFrom_spec k h ops false c (s.group c) 0 s hs.nodup (Placed.group s c)
  rw [perLane_eq hs.cur, show (liveFrom k h ops false c (s.group c) 0 s).2 = s.live c (runs k h ops false c s) from hb]
  have ha' : LanesOnly c (fun x => ∃ m ∈ s.group c, m.key = x) s (liveFrom k h ops false c (s.group c) 0 s).1 := by
    refine ha.mono ?_
    rintro x ⟨m, hm, rfl, -⟩
    exact ⟨m, hm, rfl⟩
  rcases State.live_nil_or s c (runs k h ops false c s) with h0 | h0
  · rw [h0]
    exact ha'
  refine ha'.trans ((lanes_spec (hf h0) _ _ (State.live_nodup _ hs.nodup) ?_).1.mono ?_)
  · intro p hp
    rw [ha.keyAt, (State.mem_live.mp hp).1]
    rfl
  · rintro x ⟨p, hp, rfl⟩
    exact ⟨p.2, List.mem_of_getElem? (State.mem_live.mp hp).1, rfl⟩

/-- What a word does to a thread that executes it: one step, in a state in which only others have acted, and only others act
after it. -/
theorem perLane_lane {k : WKind} {h : Hdr} {ops : List Opn} {f : State → Cur → Member → Except (Nat × Nat) State}
    (hs : Issuing s c) (hf : LaneFn c f) {j : Nat} {m : Member} (hj : (s.group c)[j]? = some m)
    (hr : runs k h ops false c s m = true) :
    ∃ s1 s2, LanesOnly c (fun x => x ≠ m.key) s s1 ∧ LaneStep c f j m s1 s2 ∧
      LanesOnly c (fun x => x ≠ m.key) s2 (perLane k h ops f s) := by
  obtain ⟨ha, hb⟩ := liveFrom_spec k h ops false c (s.group c) 0 s hs.nodup (Placed.group s c)
  rw [perLane_eq hs.cur, show (liveFrom k h ops false c (s.group c) 0 s).2 = s.live c (runs k h ops false c s) from hb]
  obtain ⟨s1, s2, h1, h2, h3⟩ := (lanes_spec hf (s.live c (runs k h ops false c s)) _ (State.live_nodup _ hs.nodup) (fun p hp => by
    rw [ha.keyAt, (State.mem_live.mp hp).1]; rfl)).2 (j, m) (State.mem_live.mpr ⟨hj, hr⟩)
  refine ⟨s1, s2, (ha.mono ?_).trans h1, h2, h3⟩
  rintro x ⟨y, hy, rfl, hy2⟩ e
  rw [hs.unique hy (List.mem_of_getElem? hj) e, hr] at hy2
  cases hy2

/-- What a word does to a member that does not execute it. -/
theorem perLane_skip {k : WKind} {h : Hdr} {ops : List Opn} {f : State → Cur → Member → Except (Nat × Nat) State}
    (hs : Issuing s c) (hf : (∃ m ∈ s.group c, runs k h ops false c s m = true) → LaneFn c f) {j : Nat} {m : Member}
    (hj : (s.group c)[j]? = some m) (hr : runs k h ops false c s m = false) :
    ∃ s1 s2, LanesOnly c (fun x => x ≠ m.key) s s1 ∧ SkipStep k h ops false c j m s1 s2 ∧
      LanesOnly c (fun x => x ≠ m.key) s2 (perLane k h ops f s) := by
  obtain ⟨ha, hb⟩ := liveFrom_spec k h ops false c (s.group c) 0 s hs.nodup (Placed.group s c)
  obtain ⟨s1, s2, h1, h2, h3⟩ := liveFrom_skip k h ops false c (s.group c) 0 s hs.nodup (Placed.group s c) j m hj hr
  rw [perLane_eq hs.cur, show (liveFrom k h ops false c (s.group c) 0 s).2 = s.live c (runs k h ops false c s) from hb]
  rcases State.live_nil_or s c (runs k h ops false c s) with h0 | h0
  · rw [h0]
    exact ⟨s1, s2, h1, by rwa [Nat.zero_add] at h2, h3⟩
  refine ⟨s1, s2, h1, by rwa [Nat.zero_add] at h2, h3.trans ((lanes_spec (hf h0) _ _ (State.live_nodup _ hs.nodup) (fun p hp => by
    rw [ha.keyAt, (State.mem_live.mp hp).1]; rfl)).1.mono ?_)⟩
  rintro x ⟨p, hp, rfl⟩ e
  obtain ⟨hp1, hp2⟩ := State.mem_live.mp hp
  rw [hs.unique (List.mem_of_getElem? hp1) (List.mem_of_getElem? hj) e, hr] at hp2
  cases hp2

/-! ## What is to land -/

@[simp] theorem State.landing_modThr (s : State) (wg x k : Nat) (f : Thread → Thread) : (s.modThr wg x f).landing k = s.landing k := rfl
@[simp] theorem State.landing_pushInvalid (s : State) (m : Member) (k : Nat) : (s.pushInvalid m).landing k = s.landing k := rfl

theorem State.landing_faultMember (s : State) (c : Cur) (i cause info : Nat) :
    (s.faultMember c i cause info).landing c.core = s.landing c.core := by
  rw [State.faultMember, State.modMember, State.landing_modTurn, State.landing_eq]

theorem State.landing_upd (s : State) (c : Cur) (m : Member) (f : Member → Member) : (s.upd c m f).landing c.core = s.landing c.core := by
  rw [State.upd, State.landing_modTurn, State.landing_eq]

theorem State.landing_atCycleEnd (s : State) (k : Nat) (a : CycAct) :
    (s.atCycleEnd k a).landing k = if (s.turnOf k).isSome then s.landing k ++ [a] else [] := by
  rw [State.atCycleEnd, State.landing_modTurn, State.landing_eq]
  cases s.turnOf k <;> rfl

theorem liveFrom_landing (k : WKind) (h : Hdr) (ops : List Opn) (signed : Bool) (c : Cur) (l : List Member) (i : Nat) (s : State) :
    (liveFrom k h ops signed c l i s).1.landing c.core = s.landing c.core := by
  induction l generalizing i s with
  | nil => rfl
  | cons m r ih =>
    simp only [liveFrom]
    split
    · rw [ih]; split <;> rfl
    · split
      · rw [ih, State.landing_faultMember]
      · split
        · rw [ih]; split <;> rfl
        · split
          · rw [ih, State.landing_faultMember]
          · exact ih (i + 1) s

/-- What is to land after a word was to land before or is one of the effects of its lanes. -/
theorem lanes_landing {f : State → Cur → Member → Except (Nat × Nat) State} {Q : Member → CycAct → Prop}
    (hQ : ∀ s m t, f s c m = .ok t → ∀ a ∈ t.landing c.core, a ∈ s.landing c.core ∨ Q m a) (l : List (Nat × Member)) (s : State) :
    ∀ a ∈ (lanes c f l s).landing c.core, a ∈ s.landing c.core ∨ ∃ p ∈ l, Q p.2 a := by
  induction l generalizing s with
  | nil => exact fun a h => .inl h
  | cons q r ih =>
    intro a ha
    simp only [lanes] at ha
    cases hf : f s c q.2 with
    | ok t =>
      rw [hf] at ha
      rcases ih t a ha with h | ⟨p, hp, h⟩
      · rcases hQ s q.2 t hf a h with h | h
        · exact .inl h
        · exact .inr ⟨q, List.mem_cons_self .., h⟩
      · exact .inr ⟨p, List.mem_cons_of_mem _ hp, h⟩
    | error e =>
      rw [hf] at ha
      rcases ih _ a ha with h | ⟨p, hp, h⟩
      · split at h
        · exact .inl h
        · rw [State.landing_faultMember] at h
          exact .inl h
      · exact .inr ⟨p, List.mem_cons_of_mem _ hp, h⟩

theorem perLane_landing {k : WKind} {h : Hdr} {ops : List Opn} {f : State → Cur → Member → Except (Nat × Nat) State}
    {Q : Member → CycAct → Prop} (hs : Issuing s c)
    (hQ : (∃ m ∈ s.group c, runs k h ops false c s m = true) →
      ∀ s m t, f s c m = .ok t → ∀ a ∈ t.landing c.core, a ∈ s.landing c.core ∨ Q m a) :
    ∀ a ∈ (perLane k h ops f s).landing c.core, a ∈ s.landing c.core ∨
      ∃ m ∈ (s.group c).filter (runs k h ops false c s), Q m a := by
  obtain ⟨-, hb⟩ := liveFrom_spec k h ops false c (s.group c) 0 s hs.nodup (Placed.group s c)
  intro a ha
  rw [perLane_eq hs.cur, show (liveFrom k h ops false c (s.group c) 0 s).2 = s.live c (runs k h ops false c s) from hb] at ha
  rcases State.live_nil_or s c (runs k h ops false c s) with h0 | h0
  · rw [h0] at ha
    exact .inl (by rwa [← liveFrom_landing k h ops false c (s.group c) 0 s])
  rcases lanes_landing (hQ h0) _ _ a ha with h1 | ⟨p, hp, h1⟩
  · exact .inl (by rwa [liveFrom_landing] at h1)
  · obtain ⟨hp1, hp2⟩ := State.mem_live.mp hp
    exact .inr ⟨p.2, List.mem_filter.mpr ⟨List.mem_of_getElem? hp1, hp2⟩, h1⟩

/-! ## A packet of one thread -/

theorem liveFrom_alone {k : WKind} {h : Hdr} {ops : List Opn} {signed : Bool} {m : Member} (hg : s.group c = [m])
    (hr : runs k h ops signed c s m = true) : liveFrom k h ops signed c (s.group c) 0 s = (s, [(0, m)]) := by
  simp only [runs, Bool.and_eq_true, Bool.not_eq_true', Option.isNone_iff_eq_none] at hr
  have hx : (k.guarded && !m.guard h) = false := by
    cases h1 : k.guarded <;> cases h2 : m.guard h <;> simp_all
  simp [hg, liveFrom, hr.1.1.1, hr.1.1.2, hx, hr.2]

/-- The only lane's step. -/
def laneOut (s : State) (c : Cur) (r : Except (Nat × Nat) State) : State :=
  match r with
  | .ok t => t
  | .error e => if e.1 == 0 then s else s.faultMember c 0 e.1 e.2

theorem lanes_alone {f : State → Cur → Member → Except (Nat × Nat) State} {m : Member} :
    lanes c f [(0, m)] s = laneOut s c (f s c m) := by
  simp only [lanes, laneOut]
  cases f s c m <;> rfl

theorem perLane_alone {k : WKind} {h : Hdr} {ops : List Opn} {f : State → Cur → Member → Except (Nat × Nat) State} {m : Member}
    (hc : s.cur = some c) (hg : s.group c = [m]) (hr : runs k h ops false c s m = true) :
    perLane k h ops f s = laneOut s c (f s c m) := by
  rw [perLane_eq hc, liveFrom_alone hg hr, lanes_alone]

theorem perSigner_alone {k : WKind} {h : Hdr} {ops : List Opn} {f : State → Cur → Member → Except (Nat × Nat) State} {m : Member}
    (hc : s.cur = some c) (hg : s.group c = [m]) (hr : runs k h ops true c s m = true) :
    perSigner k h ops f s = laneOut s c (f s c m) := by
  rw [perSigner_eq hc, liveFrom_alone hg hr, lanes_alone]

theorem perGroup_alone {k : WKind} {h : Hdr} {ops : List Opn} {f : State → Cur → List (Nat × Member) → State} {m : Member}
    (hc : s.cur = some c) (hg : s.group c = [m]) (hr : runs k h ops false c s m = true) :
    perGroup k h ops f s = f s c [(0, m)] := by
  rw [perGroup_eq hc, liveFrom_alone hg hr]

/-- With no word in progress nothing happens. -/
theorem perLane_none {k : WKind} {h : Hdr} {ops : List Opn} {f : State → Cur → Member → Except (Nat × Nat) State}
    (hc : s.cur = none) : perLane k h ops f s = s := by
  simp only [perLane, hc]

end Sys2Proof.Machine
end

