-- ==== Sys2Proof/Laws/Integer.lean ====
section
/-! SUPPORT. The integer operations in the terms of R265 to R274. -/

namespace Sys2Proof.Machine

theorem iadd_eq (x y : Word) : x + y = BitVec.ofNat 32 (x.toNat + y.toNat) := by
  apply BitVec.eq_of_toNat_eq; simp

theorem isub_eq (x y : Word) : x - y = BitVec.ofInt 32 (x.toInt - y.toInt) := by
  apply BitVec.eq_of_toInt_eq; rw [BitVec.toInt_sub, BitVec.toInt_ofInt]

theorem imul_eq (x y : Word) : x * y = BitVec.ofNat 32 (x.toNat * y.toNat) := by
  apply BitVec.eq_of_toNat_eq; simp

theorem imad_eq (x y z : Word) : x * y + z = BitVec.ofNat 32 (x.toNat * y.toNat + z.toNat) := by
  apply BitVec.eq_of_toNat_eq; simp

theorem mulHiU_eq (x y : Word) : mulHiU x y = (x.setWidth 64 * y.setWidth 64).extractLsb' 32 32 := by
  apply BitVec.eq_of_toNat_eq
  have hx := x.isLt
  have hy := y.isLt
  have h : x.toNat * y.toNat < 2 ^ 64 := by nlinarith
  simp only [mulHiU, BitVec.toNat_ofNat, BitVec.extractLsb'_toNat, BitVec.toNat_mul, BitVec.toNat_setWidth, Nat.shiftRight_eq_div_pow]
  rw [Nat.mod_eq_of_lt (show x.toNat < 2 ^ 64 by omega), Nat.mod_eq_of_lt (show y.toNat < 2 ^ 64 by omega), Nat.mod_eq_of_lt h]

theorem mulHiS_eq (x y : Word) : mulHiS x y = (x.signExtend 64 * y.signExtend 64).extractLsb' 32 32 := by
  have h1 : (x.signExtend 64 * y.signExtend 64) = BitVec.ofInt 64 (x.toInt * y.toInt) := by
    apply BitVec.eq_of_toInt_eq
    rw [BitVec.toInt_mul, BitVec.toInt_ofInt, BitVec.toInt_signExtend_of_le (by omega), BitVec.toInt_signExtend_of_le (by omega)]
  rw [h1]
  apply BitVec.eq_of_toNat_eq
  rw [mulHiS, BitVec.extractLsb'_toNat, BitVec.toNat_ofInt, BitVec.toNat_ofInt, Nat.shiftRight_eq_div_pow]
  generalize x.toInt * y.toInt = p
  push_cast
  omega

theorem minS_eq (x y : Word) : minS x y = if x.slt y then x else y := by
  simp only [minS, BitVec.slt, decide_eq_true_eq]
  split <;> split
  · rfl
  · apply BitVec.eq_of_toInt_eq; omega
  · omega
  · rfl

theorem maxS_eq (x y : Word) : maxS x y = if x.slt y then y else x := by
  simp only [maxS, BitVec.slt, decide_eq_true_eq]
  split <;> split
  · omega
  · rfl
  · rfl
  · apply BitVec.eq_of_toInt_eq; omega

theorem minU_eq (x y : Word) : minU x y = if x.ult y then x else y := by
  simp only [minU, BitVec.ult, decide_eq_true_eq]
  split <;> split
  · rfl
  · apply BitVec.eq_of_toNat_eq; omega
  · omega
  · rfl

theorem maxU_eq (x y : Word) : maxU x y = if x.ult y then y else x := by
  simp only [maxU, BitVec.ult, decide_eq_true_eq]
  split <;> split
  · omega
  · rfl
  · rfl
  · apply BitVec.eq_of_toNat_eq; omega

theorem pow_ge32 {n : Nat} (h : 32 ≤ n) : 2 ^ 32 ∣ 2 ^ n := Nat.pow_dvd_pow 2 h

theorem shlW_eq (x y : Word) : shlW x y = BitVec.ofNat 32 (x.toNat * 2 ^ y.toNat) := by
  apply BitVec.eq_of_toNat_eq
  simp only [shlW]
  split
  · rw [BitVec.toNat_shiftLeft, BitVec.toNat_ofNat, Nat.shiftLeft_eq]
  · rename_i h
    rw [BitVec.toNat_ofNat, BitVec.toNat_ofNat, Nat.mod_eq_zero_of_dvd ((pow_ge32 (by omega)).mul_left _)]

theorem shrW_eq (x y : Word) : shrW x y = BitVec.ofNat 32 (x.toNat / 2 ^ y.toNat) := by
  apply BitVec.eq_of_toNat_eq
  have hx := x.isLt
  simp only [shrW]
  split
  · rw [BitVec.toNat_ushiftRight, BitVec.toNat_ofNat, Nat.shiftRight_eq_div_pow, Nat.mod_eq_of_lt]
    exact lt_of_le_of_lt (Nat.div_le_self ..) hx
  · rename_i h
    have : x.toNat < 2 ^ y.toNat := lt_of_lt_of_le hx (Nat.pow_le_pow_right (by omega) (by omega))
    rw [Nat.div_eq_of_lt this]

theorem sarW_eq (x y : Word) : sarW x y = BitVec.ofInt 32 (x.toInt / 2 ^ y.toNat) := by
  simp only [sarW]
  split
  · rw [← BitVec.ofInt_toInt (x := x.sshiftRight _), BitVec.toInt_sshiftRight, Int.shiftRight_eq_div_pow]
    norm_cast
  · rename_i h
    have hx1 := BitVec.toInt_lt (x := x)
    have hx2 := BitVec.le_toInt (x := x)
    have hp : (2 : Int) ^ 32 ≤ 2 ^ y.toNat := pow_le_pow_right₀ (by norm_num) (by omega)
    rw [BitVec.msb_eq_toInt]
    split
    · rename_i hn
      have hn : x.toInt < 0 := by simpa using hn
      have : x.toInt / 2 ^ y.toNat = -1 := by
        generalize (2 : Int) ^ y.toNat = P at hp
        exact ((Int.ediv_emod_unique (by omega : 0 < P)).mpr ⟨(by ring : x.toInt + P + P * (-1) = x.toInt), by omega, by omega⟩).1
      rw [this]; rfl
    · rename_i hn
      have hn : 0 ≤ x.toInt := by simpa using hn
      rw [Int.ediv_eq_zero_of_lt hn (by omega)]; rfl

theorem iaddi_eq (x : Word) (i : BitVec 7) : x + i.signExtend 32 = BitVec.ofInt 32 (x.toInt + i.toInt) := by
  apply BitVec.eq_of_toInt_eq
  rw [BitVec.toInt_add, BitVec.toInt_ofInt, BitVec.toInt_signExtend_of_le (by omega)]

theorem setWidth7_eq (i : BitVec 7) : i.setWidth 32 = BitVec.ofNat 32 i.toNat := by
  apply BitVec.eq_of_toNat_eq; simp

theorem shli_eq (x : Word) (k : BitVec 5) : x <<< k.toNat = BitVec.ofNat 32 (x.toNat * 2 ^ k.toNat) := by
  apply BitVec.eq_of_toNat_eq
  rw [BitVec.toNat_shiftLeft, BitVec.toNat_ofNat, Nat.shiftLeft_eq]

theorem shri_eq (x : Word) (k : BitVec 5) : x >>> k.toNat = BitVec.ofNat 32 (x.toNat / 2 ^ k.toNat) := by
  apply BitVec.eq_of_toNat_eq
  have hx := x.isLt
  rw [BitVec.toNat_ushiftRight, BitVec.toNat_ofNat, Nat.shiftRight_eq_div_pow, Nat.mod_eq_of_lt]
  exact lt_of_le_of_lt (Nat.div_le_self ..) hx

theorem sari_eq (x : Word) (k : BitVec 5) : x.sshiftRight k.toNat = BitVec.ofInt 32 (x.toInt / 2 ^ k.toNat) := by
  rw [← BitVec.ofInt_toInt (x := x.sshiftRight _), BitVec.toInt_sshiftRight, Int.shiftRight_eq_div_pow]
  norm_cast

theorem lnot_eq (x : Word) : ~~~x = BitVec.ofNat 32 (2 ^ 32 - 1 - x.toNat) := by
  apply BitVec.eq_of_toNat_eq
  have := x.isLt
  rw [BitVec.toNat_not, BitVec.toNat_ofNat]
  omega

theorem negW_eq (x : Word) : negW x = BitVec.ofInt 32 (-x.toInt) := by
  apply BitVec.eq_of_toInt_eq
  rw [negW, BitVec.toInt_sub, BitVec.toInt_ofInt]
  simp

theorem absW_eq (x : Word) : absW x = BitVec.ofNat 32 x.toInt.natAbs := by
  apply BitVec.eq_of_toNat_eq
  have h2 := x.isLt
  have h3 := BitVec.toInt_eq_toNat_cond (x := x)
  rw [absW, BitVec.msb_eq_decide, BitVec.toNat_ofNat]
  split
  · rename_i h
    have h : 2 ^ 31 ≤ x.toNat := by simpa using h
    rw [BitVec.toNat_sub, h3]
    simp only [BitVec.toNat_ofNat]
    split <;> omega
  · rename_i h
    have h : x.toNat < 2 ^ 31 := by simpa using h
    rw [h3, if_pos (by omega)]
    omega

/-- The bits of a number that are set, counted. -/
theorem popcount_eq (n x : Nat) : Num.popcount n x = ((List.range n).filter (fun k => x.testBit k)).length := by
  induction n generalizing x with
  | zero => rfl
  | succ n ih =>
    rw [Num.popcount, ih, List.range_succ_eq_map, List.filter_cons, List.filter_map]
    have h1 : ((fun k => x.testBit k) ∘ Nat.succ) = fun k => (x / 2).testBit k := by
      funext k; simp [Function.comp, Nat.testBit_succ]
    rw [h1, Nat.testBit_zero]
    rcases Nat.mod_two_eq_zero_or_one x with h | h <;> simp [h]
    omega

theorem popcW_eq (x : Word) : popcW x = BitVec.ofNat 32 (((List.range 32).filter (fun k => x.getLsbD k)).length) := by
  rw [popcW, popcount_eq]; rfl

/-- The length of the run before the first place that fails. -/
theorem takeWhile_range (n j : Nat) (p : Nat → Bool) (h1 : ∀ k, k < j → p k = true) (h2 : p j = false) (hj : j < n) :
    ((List.range n).takeWhile p).length = j := by
  obtain ⟨m, rfl⟩ : ∃ m, n = j + (m + 1) := ⟨n - j - 1, by omega⟩
  rw [List.range_add, List.takeWhile_append_of_pos (fun k hk => h1 k (List.mem_range.mp hk)), List.range_succ_eq_map, List.map_cons,
    List.takeWhile_cons, Nat.add_zero, h2]
  simp

theorem takeWhile_range_all (n : Nat) (p : Nat → Bool) (h : ∀ k, k < n → p k = true) : ((List.range n).takeWhile p).length = n := by
  rw [List.takeWhile_eq_self_iff.mpr (fun k hk => h k (List.mem_range.mp hk)), List.length_range]

/-- How many places at the top are free of set bits. -/
theorem leading_eq (n x : Nat) (hx : x < 2 ^ n) (h0 : x ≠ 0) :
    ((List.range n).takeWhile (fun k => !x.testBit (n - 1 - k))).length = n - 1 - Nat.log2 x := by
  have hl : Nat.log2 x < n := (Nat.log2_lt h0).mpr hx
  refine takeWhile_range _ _ _ (fun k hk => ?_) ?_ (by omega)
  · rw [Bool.not_eq_true']
    exact Nat.testBit_lt_two_pow (lt_of_lt_of_le Nat.lt_log2_self (Nat.pow_le_pow_right (by omega) (by omega)))
  · rw [show n - 1 - (n - 1 - Nat.log2 x) = Nat.log2 x by omega, Nat.testBit_log2 h0]
    rfl

theorem clzW_eq (x : Word) : clzW x = BitVec.ofNat 32 (((List.range 32).takeWhile (fun k => !x.getLsbD (31 - k))).length) := by
  rw [clzW]
  split
  · rename_i h
    rw [takeWhile_range_all _ _ (fun k _ => by simp [h])]
  · rename_i h
    rw [← leading_eq 32 x.toNat x.isLt (fun h0 => h (BitVec.eq_of_toNat_eq (by simpa using h0)))]
    rfl

theorem takeWhile_congr_mem {l : List Nat} {p q : Nat → Bool} (h : ∀ k ∈ l, p k = q k) : l.takeWhile p = l.takeWhile q := by
  induction l with
  | nil => rfl
  | cons x r ih =>
    rw [List.takeWhile_cons, List.takeWhile_cons, h x (List.mem_cons_self ..), ih (fun k hk => h k (List.mem_cons_of_mem _ hk))]

theorem ctzW_eq (x : Word) : ctzW x = BitVec.ofNat 32 (((List.range 32).takeWhile (fun k => !x.getLsbD k)).length) := by
  have hb : ∀ k ∈ List.range 32, (!x.reverse.toNat.testBit (32 - 1 - k)) = !x.getLsbD k := by
    intro k hk
    have hk := List.mem_range.mp hk
    rw [BitVec.testBit_toNat, BitVec.getLsbD_reverse, BitVec.getMsbD, show 32 - 1 - (32 - 1 - k) = k by omega,
      decide_eq_true (by omega : 32 - 1 - k < 32), Bool.true_and]
  rw [ctzW]
  split
  · rename_i h
    rw [takeWhile_range_all _ _ (fun k _ => by simp [h])]
  · rename_i h
    have hr : x.reverse.toNat ≠ 0 := fun h0 => h (by
      apply BitVec.eq_of_getLsbD_eq
      intro i hi
      have := hb i (List.mem_range.mpr hi)
      rw [h0] at this
      simpa using this)
    rw [← takeWhile_congr_mem hb, leading_eq 32 x.reverse.toNat x.reverse.isLt hr]

theorem condI_signed (cond : BitVec 2) (x y : Word) : condI cond x.toInt y.toInt =
    match cond.toNat with
    | 0 => x == y
    | 1 => x != y
    | 2 => x.slt y
    | _ => x.sle y := by
  have h : (x.toInt = y.toInt) = (x = y) := propext BitVec.toInt_inj
  have hc : cond = 0#2 ∨ cond = 1#2 ∨ cond = 2#2 ∨ cond = 3#2 := by revert cond; decide
  rcases hc with rfl | rfl | rfl | rfl <;> simp [condI, h, BitVec.slt, BitVec.sle, beq_eq_decide, bne]

theorem condI_unsigned (cond : BitVec 2) (x y : Word) : condI cond x.toNat y.toNat =
    match cond.toNat with
    | 0 => x == y
    | 1 => x != y
    | 2 => x.ult y
    | _ => x.ule y := by
  have h : (x.toNat = y.toNat) = (x = y) := propext BitVec.toNat_inj
  have hc : cond = 0#2 ∨ cond = 1#2 ∨ cond = 2#2 ∨ cond = 3#2 := by revert cond; decide
  rcases hc with rfl | rfl | rfl | rfl <;> simp [condI, h, BitVec.ult, BitVec.ule, beq_eq_decide, bne]

/-- The pool of BSWZ. -/
theorem pool_toNat (x y : Word) : (y ++ x : BitVec 64).toNat = x.toNat + 2 ^ 32 * y.toNat := by
  show (y ++ x : BitVec (32 + 32)).toNat = _
  rw [BitVec.toNat_append, ← Nat.shiftLeft_add_eq_or_of_lt x.isLt, Nat.shiftLeft_eq]
  ring

/-- One byte of BSWZ. -/
theorem bswzByte_eq (x y sel : Word) (i : Nat) : bswzByte (x.toNat + 2 ^ 32 * y.toNat) sel.toNat i = (swizzled x y sel i).toNat := by
  have hv : (sel >>> (5 * i)).toNat = sel.toNat / 2 ^ (5 * i) := by
    rw [BitVec.toNat_ushiftRight, Nat.shiftRight_eq_div_pow]
  have hb : ∀ k : Nat, (((y ++ x : BitVec 64) >>> (8 * k)).setWidth 8).toNat = (x.toNat + 2 ^ 32 * y.toNat) / 2 ^ (8 * k) % 256 := by
    intro k
    rw [BitVec.toNat_setWidth, BitVec.toNat_ushiftRight, pool_toNat, Nat.shiftRight_eq_div_pow]
  simp only [swizzled, bswzByte, nbits, hv, show 5 * i + 4 + 1 - 5 * i = 5 by omega]
  generalize sel.toNat / 2 ^ (5 * i) = v
  rw [show v % 2 ^ 5 % 8 = v % 8 by omega, show v % 2 ^ 5 / 8 = v / 8 % 4 by omega]
  have hm : v / 8 % 4 < 4 := Nat.mod_lt _ (by omega)
  have hk := hb (v % 8)
  rcases (by omega : v / 8 % 4 = 0 ∨ v / 8 % 4 = 1 ∨ v / 8 % 4 = 2 ∨ v / 8 % 4 = 3) with h | h | h | h <;> rw [h]
  · simp [hk]
  · simp
  · simp only [show ¬(2 = 0) by omega, show ¬(2 = 1) by omega, if_false, if_true]
    rw [BitVec.msb_eq_decide, hk]
    simp only [decide_eq_true_eq]
    split <;> rfl
  · simp

theorem bswzW_eq (x y sel : Word) :
    bswzW x y sel = swizzled x y sel 3 ++ swizzled x y sel 2 ++ swizzled x y sel 1 ++ swizzled x y sel 0 := by
  apply BitVec.eq_of_toNat_eq
  simp only [bswzW, bswzByte_eq]
  have h0 := (swizzled x y sel 0).isLt
  have h1 := (swizzled x y sel 1).isLt
  have h2 := (swizzled x y sel 2).isLt
  have h3 := (swizzled x y sel 3).isLt
  generalize swizzled x y sel 0 = a at *
  generalize swizzled x y sel 1 = b at *
  generalize swizzled x y sel 2 = c at *
  generalize swizzled x y sel 3 = d at *
  show _ = ((d ++ c ++ b ++ a : BitVec (8 + 8 + 8 + 8))).toNat
  rw [BitVec.toNat_append, BitVec.toNat_append, BitVec.toNat_append, ← Nat.shiftLeft_add_eq_or_of_lt c.isLt,
    ← Nat.shiftLeft_add_eq_or_of_lt b.isLt, ← Nat.shiftLeft_add_eq_or_of_lt a.isLt, BitVec.toNat_ofNat]
  simp only [Nat.shiftLeft_eq]
  omega

end Sys2Proof.Machine
end

