-- ==== Sys2Proof/Laws/Lanes.lean ====
section
/-! SUPPORT. Operands, results and the shapes of words that act on registers: what each can do, said once for each shape. -/

namespace Sys2Proof.Machine

variable {c : Cur} {K : Nat → Prop} {s t : State} {m : Member}

/-! ## Sources -/

theorem State.src_plain {a : BitVec 7} {x : Word × Nat} (h : s.plain m a = some x) :
    ∃ dep, s.src c m a = .ok (s, ⟨x.1, x.2, dep⟩) := by
  simp only [State.plain] at h
  simp only [State.src]
  split at h
  · rename_i h1
    split at h
    · cases h
    · rename_i h2
      simp only [Option.some.injEq] at h
      subst h
      exact ⟨_, by rw [if_pos h1, if_neg h2]⟩
  · rename_i h1
    split at h
    · cases h
    · rename_i h2
      rw [if_neg h1, if_neg h2]
      cases hl : (s.thr m.wg m.t).latch.getD (a.toNat - 124) none with
      | none => rw [hl] at h; cases h
      | some l =>
        rw [hl] at h
        simp only [Option.map_some, Option.some.injEq] at h
        subst h
        exact ⟨_, rfl⟩

/-- A source that is no port changes nothing. -/
theorem State.src_state {a : BitVec 7} {r : State × Src} (hp : isPort a = false) (h : s.src c m a = .ok r) : r.1 = s := by
  simp only [State.src] at h
  split at h
  · split at h
    · cases h
    · cases h; rfl
  · split at h
    · rename_i h1 h2
      simp only [isPort, Bool.and_eq_false_iff, decide_eq_false_iff_not] at hp
      omega
    · split at h
      · cases h; rfl
      · cases h

theorem LanesOnly.plain (h : LanesOnly c (fun x => x ≠ m.key) s t) (a : BitVec 7) : t.plain m a = s.plain m a := by
  have : t.thr m.wg m.t = s.thr m.wg m.t := h.thr (fun hx => hx rfl)
  unfold State.plain State.badReg
  rw [this]

/-! ## Results -/

theorem State.result_eq {n : Bool} {d : BitVec 7} (hd : n = true ∨ d.toNat < 112) (v : Word) (lat after dep : Nat) :
    s.result c m n d v lat after dep = .ok (
      let s1 := s.pushWord m v (readyAt c.core (max s.clk after) lat) dep
      if n then s1 else s1.modThr m.wg m.t (fun x => x.setReg d.toNat v (readyAt c.core (max s.clk after) lat) dep)) := by
  simp only [State.result]
  split
  · rfl
  · rename_i h
    rw [if_pos (hd.resolve_left h)]

/-- EVERYTHING a 32-bit result can do where D is no port. -/
theorem State.result_spec {n : Bool} {d : BitVec 7} (hd : n = true ∨ d.toNat < 112) (v : Word) (lat after dep : Nat) :
    ∃ t, s.result c m n d v lat after dep = .ok t ∧ LanesOnly c (fun x => x = m.key) s t ∧ t.landing = s.landing ∧
      ((Tbl.get? s.threads m.key).isSome = true → Took s t m n d.toNat v (readyAt c.core (max s.clk after) lat)) := by
  refine ⟨_, State.result_eq hd v lat after dep, ?_, ?_, fun hr => ⟨dep, ?_⟩⟩
  · dsimp only [State.pushWord]
    split
    · exact LanesOnly.of_own _ _
    · exact (LanesOnly.of_own _ _).trans (LanesOnly.of_own _ _)
  · dsimp only [State.pushWord]
    split <;> rfl
  · dsimp only [State.pushWord]
    cases n with
    | true => rw [if_pos rfl, State.thr_modThr_same _ _ _ _ hr]; rfl
    | false =>
      rw [if_neg (by simp), State.thr_modThr_same _ _ _ _ (by rw [State.resident_modThr]; exact hr),
        State.thr_modThr_same _ _ _ _ hr]
      rfl

/-- EVERYTHING a 64-bit result can do. -/
theorem State.result64_spec (n : Bool) (d : BitVec 7) (v : Dword) (lat after dep : Nat) :
    ∃ t, s.result64 c m n d v lat after dep = .ok t ∧ LanesOnly c (fun x => x = m.key) s t ∧ t.landing = s.landing ∧
      ((Tbl.get? s.threads m.key).isSome = true → TookPair s t m n d.toNat v (readyAt c.core (max s.clk after) lat)) := by
  have h2 : ∀ (f g : Thread → Thread), LanesOnly c (fun x => x = m.key) s ((s.modThr m.wg m.t f).modThr m.wg m.t g) := fun _ _ =>
    (LanesOnly.of_own _ _).trans (LanesOnly.of_own _ _)
  simp only [State.result64, State.pushWord]
  cases n with
  | true =>
    refine ⟨_, rfl, h2 _ _, rfl, fun hr => ⟨dep, ?_⟩⟩
    rw [State.thr_modThr_same _ _ _ _ (by rw [State.resident_modThr]; exact hr), State.thr_modThr_same _ _ _ _ hr]
    rfl
  | false =>
    refine ⟨_, rfl, (h2 _ _).trans (LanesOnly.of_own _ _), rfl, fun hr => ⟨dep, ?_⟩⟩
    rw [State.thr_modThr_same _ _ _ _ (by rw [State.resident_modThr, State.resident_modThr]; exact hr),
      State.thr_modThr_same _ _ _ _ (by rw [State.resident_modThr]; exact hr), State.thr_modThr_same _ _ _ _ hr]
    rfl

/-! ## Fields -/

theorem runs_fields {k : WKind} {h : Hdr} {ops : List Opn} {g : Bool} (hr : runs k h ops g c s m = true) {o : Opn} (ho : o ∈ ops) :
    o.bad (s.wgrp m.wg).n = false := by
  simp only [runs, Bool.and_eq_true, Option.isNone_iff_eq_none] at hr
  have h2 := hr.1.1.2
  simp only [fieldCause] at h2
  split at h2
  · cases h2
  · split at h2
    · cases h2
    · split at h2
      · cases h2
      · rename_i h3
        cases hb : o.bad (s.wgrp m.wg).n with
        | false => rfl
        | true => exact absurd (List.any_eq_true.mpr ⟨o, ho, hb⟩) h3

/-- A destination of a word that names no port and that some thread executes is a register or nothing. -/
theorem dst_ok {k : WKind} {h : Hdr} {ops : List Opn} {g n : Bool} {d : BitVec 7} (hr : runs k h ops g c s m = true)
    (hp : ops.any Opn.port? = false) (ho : Opn.dst n d ∈ ops) : n = true ∨ d.toNat < 112 := by
  have h1 := runs_fields hr ho
  have h2 : (Opn.dst n d).port? = false := by
    cases hb : (Opn.dst n d).port? with
    | false => rfl
    | true => exact absurd (List.any_eq_true.mpr ⟨_, ho, hb⟩) (by simp [hp])
  cases n with
  | true => exact .inl rfl
  | false =>
    right
    simp only [Opn.bad, Opn.port?, isPort, Bool.not_false, Bool.true_and, Bool.or_eq_false_iff, Bool.and_eq_false_iff,
      decide_eq_false_iff_not] at h1 h2
    omega

theorem src_ok {ops : List Opn} {a : BitVec 7} (hp : ops.any Opn.port? = false) (ho : Opn.src a ∈ ops) : isPort a = false := by
  cases hb : isPort a with
  | false => rfl
  | true => exact absurd (List.any_eq_true.mpr ⟨Opn.src a, ho, hb⟩ : ops.any Opn.port? = true) (by simp [hp])

/-! ## From one lane to the word -/

theorem Took.transport {s1 s2 : State} {n : Bool} {d : Nat} {v : Word} {r : Nat} (h : Took s1 s2 m n d v r)
    (h1 : s1.thr m.wg m.t = s.thr m.wg m.t) (h2 : t.thr m.wg m.t = s2.thr m.wg m.t) : Took s t m n d v r := by
  obtain ⟨dep, h⟩ := h
  exact ⟨dep, by rw [h2, h, h1]⟩

theorem TookPair.transport {s1 s2 : State} {n : Bool} {d : Nat} {v : Dword} {r : Nat} (h : TookPair s1 s2 m n d v r)
    (h1 : s1.thr m.wg m.t = s.thr m.wg m.t) (h2 : t.thr m.wg m.t = s2.thr m.wg m.t) : TookPair s t m n d v r := by
  obtain ⟨dep, h⟩ := h
  exact ⟨dep, by rw [h2, h, h1]⟩

theorem LanesOnly.own (h : LanesOnly c (fun x => x ≠ m.key) s t) : t.thr m.wg m.t = s.thr m.wg m.t := h.thr (fun hx => hx rfl)

theorem LanesOnly.resident (h : LanesOnly c K s t) {k : Nat} (hr : (Tbl.get? s.threads k).isSome = true) :
    (Tbl.get? t.threads k).isSome = true := by rw [h.stay]; exact hr

/-- A thread that executes a word, where its lane succeeds. -/
theorem perLane_do {k : WKind} {h : Hdr} {ops : List Opn} {f : State → Cur → Member → Except (Nat × Nat) State}
    (hs : Issuing s c) (hf : LaneFn c f) (hm : m ∈ s.group c) (hr : runs k h ops false c s m = true)
    (hdo : ∀ s1, LanesOnly c (fun x => x ≠ m.key) s s1 → ∃ s2, f s1 c m = .ok s2) :
    ∃ s1 s2, LanesOnly c (fun x => x ≠ m.key) s s1 ∧ f s1 c m = .ok s2 ∧
      LanesOnly c (fun x => x ≠ m.key) s2 (perLane k h ops f s) := by
  obtain ⟨j, hj⟩ := List.getElem?_of_mem hm
  obtain ⟨s1, s2, h1, h2, h3⟩ := perLane_lane hs hf hj hr
  obtain ⟨s3, h4⟩ := hdo s1 h1
  rcases h2 with h2 | ⟨e, h2, -⟩
  · exact ⟨s1, s2, h1, h2, h3⟩
  · rw [h4] at h2; cases h2

/-- A lane function that only writes one result of its thread. -/
structure Writes (c : Cur) (f : State → Cur → Member → Except (Nat × Nat) State) : Prop where
  only : LaneFn c f
  lands : ∀ s m t, f s c m = .ok t → t.landing = s.landing

/-- The threads that execute a word, in the terms of the driver. -/
theorem doers_runs {i : Instr} (hi : i.signs = false) (hm : m ∈ s.doers c i) :
    m ∈ s.group c ∧ runs i.kind i.header i.opns false c s m = true := by
  obtain ⟨h1, h2⟩ := List.mem_filter.mp hm
  refine ⟨h1, ?_⟩
  rw [acts, tries, hi] at h2
  exact h2

/-- One result of a thread, from its lane. -/
theorem perLane_took {k : WKind} {h : Hdr} {ops : List Opn} {f : State → Cur → Member → Except (Nat × Nat) State}
    (hs : Issuing s c) (hf : LaneFn c f) (hm : m ∈ s.group c) (hr : runs k h ops false c s m = true) {n : Bool} {d : Nat} {v : Word}
    {r : Nat → Nat} (hdo : ∀ s1, LanesOnly c (fun x => x ≠ m.key) s s1 → ∃ t, f s1 c m = .ok t ∧
      ((Tbl.get? s1.threads m.key).isSome = true → Took s1 t m n d v (r s1.clk))) :
    Took s (perLane k h ops f s) m n d v (r s.clk) := by
  obtain ⟨s1, s2, h1, h2, h3⟩ := perLane_do hs hf hm hr (fun s1 h1 => (hdo s1 h1).imp fun _ h => h.1)
  obtain ⟨t, h4, h5⟩ := hdo s1 h1
  rw [h4] at h2
  cases h2
  have := h5 (h1.resident (hs.resident m hm))
  rw [h1.clk] at this
  exact this.transport h1.own h3.own

/-- One 64-bit result of a thread, from its lane. -/
theorem perLane_tookPair {k : WKind} {h : Hdr} {ops : List Opn} {f : State → Cur → Member → Except (Nat × Nat) State}
    (hs : Issuing s c) (hf : LaneFn c f) (hm : m ∈ s.group c) (hr : runs k h ops false c s m = true) {n : Bool} {d : Nat} {v : Dword}
    {r : Nat → Nat} (hdo : ∀ s1, LanesOnly c (fun x => x ≠ m.key) s s1 → ∃ t, f s1 c m = .ok t ∧
      ((Tbl.get? s1.threads m.key).isSome = true → TookPair s1 t m n d v (r s1.clk))) :
    TookPair s (perLane k h ops f s) m n d v (r s.clk) := by
  obtain ⟨s1, s2, h1, h2, h3⟩ := perLane_do hs hf hm hr (fun s1 h1 => (hdo s1 h1).imp fun _ h => h.1)
  obtain ⟨t, h4, h5⟩ := hdo s1 h1
  rw [h4] at h2
  cases h2
  have := h5 (h1.resident (hs.resident m hm))
  rw [h1.clk] at this
  exact this.transport h1.own h3.own

/-! ## Shapes -/

theorem op1_writes {lat : Nat} {n : Bool} {d a : BitVec 7} {g : Word → Word} (hd : n = true ∨ d.toNat < 112) (ha : isPort a = false) :
    Writes c (op1 lat n d a g) := by
  constructor
  all_goals
    intro s m t h
    simp only [op1] at h
    split at h
    · cases h
    · rename_i s1 x hx
      have h1 := State.src_state ha hx
      dsimp only at h1
      subst h1
      obtain ⟨t', h2, h3, h4, -⟩ := State.result_spec (s := s1) (c := c) (m := m) hd (g x.v) lat x.ready x.dep
      rw [h2] at h
      cases h
      first | exact h3 | exact h4

theorem op1_do {lat : Nat} {n : Bool} {d a : BitVec 7} {g : Word → Word} {x : Word × Nat} (hd : n = true ∨ d.toNat < 112)
    (ha : s.plain m a = some x) : ∃ t, op1 lat n d a g s c m = .ok t ∧
      ((Tbl.get? s.threads m.key).isSome = true → Took s t m n d.toNat (g x.1) (readyAt c.core (max s.clk x.2) lat)) := by
  obtain ⟨dep, h1⟩ := State.src_plain (c := c) ha
  obtain ⟨t, h2, -, -, h3⟩ := State.result_spec (s := s) (c := c) (m := m) hd (g x.1) lat x.2 dep
  exact ⟨t, by simp only [op1, h1, h2], h3⟩

theorem op2_writes {lat : Nat} {n : Bool} {d a b : BitVec 7} {g : Word → Word → Word} (hd : n = true ∨ d.toNat < 112)
    (ha : isPort a = false) (hb : isPort b = false) : Writes c (op2 lat n d a b g) := by
  constructor
  all_goals
    intro s m t h
    simp only [op2] at h
    split at h
    · cases h
    · rename_i s1 x hx
      have h1 := State.src_state ha hx
      dsimp only at h1
      subst h1
      split at h
      · cases h
      · rename_i s2 y hy
        have h1 := State.src_state hb hy
        dsimp only at h1
        subst h1
        obtain ⟨t', h2, h3, h4, -⟩ := State.result_spec (s := s2) (c := c) (m := m) hd (g x.v y.v) lat (max x.ready y.ready) (max x.dep y.dep)
        rw [h2] at h
        cases h
        first | exact h3 | exact h4

theorem op2_do {lat : Nat} {n : Bool} {d a b : BitVec 7} {g : Word → Word → Word} {x y : Word × Nat} (hd : n = true ∨ d.toNat < 112)
    (ha : s.plain m a = some x) (hb : s.plain m b = some y) : ∃ t, op2 lat n d a b g s c m = .ok t ∧
      ((Tbl.get? s.threads m.key).isSome = true →
        Took s t m n d.toNat (g x.1 y.1) (readyAt c.core (max s.clk (max x.2 y.2)) lat)) := by
  obtain ⟨dx, h1⟩ := State.src_plain (c := c) ha
  obtain ⟨dy, h2⟩ := State.src_plain (c := c) hb
  obtain ⟨t, h3, -, -, h4⟩ := State.result_spec (s := s) (c := c) (m := m) hd (g x.1 y.1) lat (max x.2 y.2) (max dx dy)
  exact ⟨t, by simp only [op2, h1, h2, h3], h4⟩

theorem op3_writes {lat : Nat} {n : Bool} {d a b : BitVec 7} {g : Word → Word → Word → Word} (hd : d.toNat < 112)
    (ha : isPort a = false) (hb : isPort b = false) : Writes c (op3 lat n d a b g) := by
  have hd' : isPort d = false := by simp only [isPort, Bool.and_eq_false_iff, decide_eq_false_iff_not]; omega
  constructor
  all_goals
    intro s m t h
    simp only [op3] at h
    split at h
    · cases h
    · rename_i s1 x hx
      have h1 := State.src_state ha hx
      dsimp only at h1
      subst h1
      split at h
      · cases h
      · rename_i s2 y hy
        have h1 := State.src_state hb hy
        dsimp only at h1
        subst h1
        split at h
        · cases h
        · rename_i s3 z hz
          have h1 := State.src_state hd' hz
          dsimp only at h1
          subst h1
          obtain ⟨t', h2, h3, h4, -⟩ := State.result_spec (s := s3) (c := c) (m := m) (n := n) (.inr hd) (g x.v y.v z.v) lat
            (max x.ready y.ready) (max x.dep (max y.dep z.dep))
          rw [h2] at h
          cases h
          first | exact h3 | exact h4

theorem op3_do {lat : Nat} {n : Bool} {d a b : BitVec 7} {g : Word → Word → Word → Word} {x y z : Word × Nat} (hd : d.toNat < 112)
    (ha : s.plain m a = some x) (hb : s.plain m b = some y) (hz : s.plain m d = some z) : ∃ t, op3 lat n d a b g s c m = .ok t ∧
      ((Tbl.get? s.threads m.key).isSome = true →
        Took s t m n d.toNat (g x.1 y.1 z.1) (readyAt c.core (max s.clk (max x.2 y.2)) lat)) := by
  obtain ⟨dx, h1⟩ := State.src_plain (c := c) ha
  obtain ⟨dy, h2⟩ := State.src_plain (c := c) hb
  obtain ⟨dz, h3⟩ := State.src_plain (c := c) hz
  obtain ⟨t, h4, -, -, h5⟩ := State.result_spec (s := s) (c := c) (m := m) (n := n) (.inr hd) (g x.1 y.1 z.1) lat (max x.2 y.2)
    (max dx (max dy dz))
  exact ⟨t, by simp only [op3, h1, h2, h3, h4], h5⟩

/-! ## Flags and predicates -/

theorem State.raiseFlags_only (lat after : Nat) (f : Num.Flags) : LanesOnly c K s (s.raiseFlags c m lat after f) := by
  simp only [State.raiseFlags]
  split
  · exact LanesOnly.refl ..
  · exact LanesOnly.of_atCycleEnd _

theorem State.raiseFlags_thr (lat after : Nat) (f : Num.Flags) (wg x : Nat) : (s.raiseFlags c m lat after f).thr wg x = s.thr wg x := by
  simp only [State.raiseFlags]
  split <;> rfl

theorem State.raiseFlags_clk (lat after : Nat) (f : Num.Flags) : (s.raiseFlags c m lat after f).clk = s.clk := (State.raiseFlags_only (K := fun _ => True) lat after f).clk

theorem State.raiseFlags_resident (lat after : Nat) (f : Num.Flags) (k : Nat) : Tbl.get? (s.raiseFlags c m lat after f).threads k = Tbl.get? s.threads k := by
  simp only [State.raiseFlags]
  split <;> rfl

/-- Only the flags of the member's braid are to land after. -/
theorem State.raiseFlags_landing (lat after : Nat) (f : Num.Flags) :
    ∀ a ∈ (s.raiseFlags c m lat after f).landing c.core, a ∈ s.landing c.core ∨ a = .flags m.wg (m.braid s) (readyAt c.core (max s.clk after) lat) f := by
  intro a ha
  simp only [State.raiseFlags] at ha
  split at ha
  · exact .inl ha
  · rw [State.landing_atCycleEnd] at ha
    split at ha
    · simpa using ha
    · cases ha

theorem State.raiseFlags_mem (lat after : Nat) (f : Num.Flags) (ht : (s.turnOf c.core).isSome = true) (hp : (s.thr m.wg m.t).priv = false) (hf : f ≠ 0#5) :
    .flags m.wg (m.braid s) (readyAt c.core (max s.clk after) lat) f ∈ (s.raiseFlags c m lat after f).landing c.core := by
  simp only [State.raiseFlags, hp, Bool.false_or]
  rw [if_neg (by simpa using hf), State.landing_atCycleEnd, if_pos ht]
  simp

theorem State.putPred_only (i : Nat) (v : Bool) (lat after dep : Nat) : LanesOnly c (fun x => x = m.key) s (s.putPred c m i v lat after dep) :=
  (LanesOnly.of_own m _).trans (LanesOnly.of_atCycleEnd _)

theorem State.putPred_landing (i : Nat) (v : Bool) (lat after dep : Nat) :
    (s.putPred c m i v lat after dep).landing c.core = if (s.turnOf c.core).isSome then s.landing c.core ++ [.pred m.wg m.t i v] else [] := by
  simp only [State.putPred, State.landing_atCycleEnd]
  rfl

/-- A group with a member is a turn in progress. -/
theorem State.turn_of_mem (h : m ∈ s.group c) : (s.turnOf c.core).isSome = true := by
  rw [State.group_eq] at h
  cases ht : s.turnOf c.core with
  | none => rw [ht] at h; cases h
  | some t => rfl

/-- A lane function that writes one result of its thread and raises flags of its braid. -/
structure WritesF (c : Cur) (f : State → Cur → Member → Except (Nat × Nat) State) : Prop where
  only : LaneFn c f
  lands : ∀ s m t, f s c m = .ok t → ∀ a ∈ t.landing c.core, a ∈ s.landing c.core ∨ ∃ b r g, a = .flags m.wg b r g

theorem Writes.toF {f : State → Cur → Member → Except (Nat × Nat) State} (h : Writes c f) : WritesF c f :=
  ⟨h.only, fun s m t ht a ha => .inl (by rwa [h.lands s m t ht] at ha)⟩

theorem Raised.transport {s1 s2 : State} {f : Num.Flags} {r : Nat} (h : Raised s1 s2 c m f r) (h1 : LanesOnly c (fun x => x ≠ m.key) s s1)
    (h2 : LanesOnly c (fun x => x ≠ m.key) s2 t) : Raised s t c m f r := by
  intro hp hf
  have := h (by rw [h1.own]; exact hp) hf
  simp only [Member.braid, h1.wgrp] at this
  exact h2.lands.subset this

/-- A result behind raised flags. -/
theorem State.flagged_spec {n : Bool} {d : BitVec 7} (hd : n = true ∨ d.toNat < 112) (f : Num.Flags) (v : Word) (lat after dep : Nat) :
    ∃ t, (s.raiseFlags c m lat after f).result c m n d v lat after dep = .ok t ∧ LanesOnly c (fun x => x = m.key) s t ∧
      (∀ a ∈ t.landing c.core, a ∈ s.landing c.core ∨ ∃ b r g, a = .flags m.wg b r g) ∧
      ((Tbl.get? s.threads m.key).isSome = true → (s.turnOf c.core).isSome = true →
        Took s t m n d.toNat v (readyAt c.core (max s.clk after) lat) ∧ Raised s t c m f (readyAt c.core (max s.clk after) lat)) := by
  obtain ⟨t, h1, h2, h3, h4⟩ := State.result_spec (s := s.raiseFlags c m lat after f) (c := c) (m := m) hd v lat after dep
  rw [State.raiseFlags_resident, State.raiseFlags_clk] at h4
  refine ⟨t, h1, (State.raiseFlags_only lat after f).trans h2, fun a ha => ?_, fun hr ht => ⟨(h4 hr).transport (State.raiseFlags_thr lat after f ..) rfl, fun hp hf => ?_⟩⟩
  · rw [h3] at ha
    exact (State.raiseFlags_landing lat after f a ha).imp id (fun h => ⟨_, _, _, h⟩)
  · rw [h3]
    exact State.raiseFlags_mem lat after f ht hp hf

/-- A pair behind raised flags. -/
theorem State.flagged64_spec (n : Bool) (d : BitVec 7) (f : Num.Flags) (v : Dword) (lat after dep : Nat) :
    ∃ t, (s.raiseFlags c m lat after f).result64 c m n d v lat after dep = .ok t ∧ LanesOnly c (fun x => x = m.key) s t ∧
      (∀ a ∈ t.landing c.core, a ∈ s.landing c.core ∨ ∃ b r g, a = .flags m.wg b r g) ∧
      ((Tbl.get? s.threads m.key).isSome = true → (s.turnOf c.core).isSome = true →
        TookPair s t m n d.toNat v (readyAt c.core (max s.clk after) lat) ∧ Raised s t c m f (readyAt c.core (max s.clk after) lat)) := by
  obtain ⟨t, h1, h2, h3, h4⟩ := State.result64_spec (s := s.raiseFlags c m lat after f) (c := c) (m := m) n d v lat after dep
  rw [State.raiseFlags_resident, State.raiseFlags_clk] at h4
  refine ⟨t, h1, (State.raiseFlags_only lat after f).trans h2, fun a ha => ?_, fun hr ht => ⟨(h4 hr).transport (State.raiseFlags_thr lat after f ..) rfl, fun hp hf => ?_⟩⟩
  · rw [h3] at ha
    exact (State.raiseFlags_landing lat after f a ha).imp id (fun h => ⟨_, _, _, h⟩)
  · rw [h3]
    exact State.raiseFlags_mem lat after f ht hp hf

theorem fop1_writes {lat : Nat} {n : Bool} {d a : BitVec 7} {g : Word → Word × Num.Flags} (hd : n = true ∨ d.toNat < 112)
    (ha : isPort a = false) : WritesF c (fop1 lat n d a g) := by
  constructor
  all_goals
    intro s m t h
    simp only [fop1] at h
    split at h
    · cases h
    · rename_i s1 x hx
      have h1 := State.src_state ha hx
      dsimp only at h1
      subst h1
      obtain ⟨t', h2, h3, h4, -⟩ := State.flagged_spec (s := s1) (c := c) (m := m) hd (g x.v).2 (g x.v).1 lat x.ready x.dep
      rw [h2] at h
      cases h
      first | exact h3 | exact h4

theorem fop1_do {lat : Nat} {n : Bool} {d a : BitVec 7} {g : Word → Word × Num.Flags} {x : Word × Nat} (hd : n = true ∨ d.toNat < 112)
    (ha : s.plain m a = some x) : ∃ t, fop1 lat n d a g s c m = .ok t ∧
      ((Tbl.get? s.threads m.key).isSome = true → (s.turnOf c.core).isSome = true →
        Took s t m n d.toNat (g x.1).1 (readyAt c.core (max s.clk x.2) lat) ∧
        Raised s t c m (g x.1).2 (readyAt c.core (max s.clk x.2) lat)) := by
  obtain ⟨dep, h1⟩ := State.src_plain (c := c) ha
  obtain ⟨t, h2, -, -, h3⟩ := State.flagged_spec (s := s) (c := c) (m := m) hd (g x.1).2 (g x.1).1 lat x.2 dep
  exact ⟨t, by simp only [fop1, h1, h2], h3⟩

theorem fop2_writes {lat : Nat} {n : Bool} {d a b : BitVec 7} {g : Word → Word → Word × Num.Flags} (hd : n = true ∨ d.toNat < 112)
    (ha : isPort a = false) (hb : isPort b = false) : WritesF c (fop2 lat n d a b g) := by
  constructor
  all_goals
    intro s m t h
    simp only [fop2] at h
    split at h
    · cases h
    · rename_i s1 x hx
      have h1 := State.src_state ha hx
      dsimp only at h1
      subst h1
      split at h
      · cases h
      · rename_i s2 y hy
        have h1 := State.src_state hb hy
        dsimp only at h1
        subst h1
        obtain ⟨t', h2, h3, h4, -⟩ := State.flagged_spec (s := s2) (c := c) (m := m) hd (g x.v y.v).2 (g x.v y.v).1 lat
          (max x.ready y.ready) (max x.dep y.dep)
        rw [h2] at h
        cases h
        first | exact h3 | exact h4

theorem fop2_do {lat : Nat} {n : Bool} {d a b : BitVec 7} {g : Word → Word → Word × Num.Flags} {x y : Word × Nat}
    (hd : n = true ∨ d.toNat < 112) (ha : s.plain m a = some x) (hb : s.plain m b = some y) : ∃ t, fop2 lat n d a b g s c m = .ok t ∧
      ((Tbl.get? s.threads m.key).isSome = true → (s.turnOf c.core).isSome = true →
        Took s t m n d.toNat (g x.1 y.1).1 (readyAt c.core (max s.clk (max x.2 y.2)) lat) ∧
        Raised s t c m (g x.1 y.1).2 (readyAt c.core (max s.clk (max x.2 y.2)) lat)) := by
  obtain ⟨dx, h1⟩ := State.src_plain (c := c) ha
  obtain ⟨dy, h2⟩ := State.src_plain (c := c) hb
  obtain ⟨t, h3, -, -, h4⟩ := State.flagged_spec (s := s) (c := c) (m := m) hd (g x.1 y.1).2 (g x.1 y.1).1 lat (max x.2 y.2) (max dx dy)
  exact ⟨t, by simp only [fop2, h1, h2, h3], h4⟩

theorem fop3_writes {lat : Nat} {n : Bool} {d a b : BitVec 7} {g : Word → Word → Word → Word × Num.Flags} (hd : d.toNat < 112)
    (ha : isPort a = false) (hb : isPort b = false) : WritesF c (fop3 lat n d a b g) := by
  have hd' : isPort d = false := by simp only [isPort, Bool.and_eq_false_iff, decide_eq_false_iff_not]; omega
  constructor
  all_goals
    intro s m t h
    simp only [fop3] at h
    split at h
    · cases h
    · rename_i s1 x hx
      have h1 := State.src_state ha hx
      dsimp only at h1
      subst h1
      split at h
      · cases h
      · rename_i s2 y hy
        have h1 := State.src_state hb hy
        dsimp only at h1
        subst h1
        split at h
        · cases h
        · rename_i s3 z hz
          have h1 := State.src_state hd' hz
          dsimp only at h1
          subst h1
          obtain ⟨t', h2, h3, h4, -⟩ := State.flagged_spec (s := s3) (c := c) (m := m) (n := n) (.inr hd) (g x.v y.v z.v).2
            (g x.v y.v z.v).1 lat (max x.ready y.ready) (max x.dep (max y.dep z.dep))
          rw [h2] at h
          cases h
          first | exact h3 | exact h4

theorem fop3_do {lat : Nat} {n : Bool} {d a b : BitVec 7} {g : Word → Word → Word → Word × Num.Flags} {x y z : Word × Nat}
    (hd : d.toNat < 112) (ha : s.plain m a = some x) (hb : s.plain m b = some y) (hz : s.plain m d = some z) :
    ∃ t, fop3 lat n d a b g s c m = .ok t ∧
      ((Tbl.get? s.threads m.key).isSome = true → (s.turnOf c.core).isSome = true →
        Took s t m n d.toNat (g x.1 y.1 z.1).1 (readyAt c.core (max s.clk (max x.2 y.2)) lat) ∧
        Raised s t c m (g x.1 y.1 z.1).2 (readyAt c.core (max s.clk (max x.2 y.2)) lat)) := by
  obtain ⟨dx, h1⟩ := State.src_plain (c := c) ha
  obtain ⟨dy, h2⟩ := State.src_plain (c := c) hb
  obtain ⟨dz, h3⟩ := State.src_plain (c := c) hz
  obtain ⟨t, h4, -, -, h5⟩ := State.flagged_spec (s := s) (c := c) (m := m) (n := n) (.inr hd) (g x.1 y.1 z.1).2 (g x.1 y.1 z.1).1 lat
    (max x.2 y.2) (max dx (max dy dz))
  exact ⟨t, by simp only [fop3, h1, h2, h3, h4], h5⟩

theorem State.turnOf_only (h : LanesOnly c (fun x => x ≠ m.key) s t) (hm : m ∈ s.group c) : (t.turnOf c.core).isSome = true := by
  obtain ⟨j, hj⟩ := List.getElem?_of_mem hm
  exact State.turn_of_mem (List.mem_of_getElem? (h.member j m hj (fun hx => hx rfl)))

/-- One result and the flags of a thread, from its lane. -/
theorem perLane_tookF {k : WKind} {h : Hdr} {ops : List Opn} {f : State → Cur → Member → Except (Nat × Nat) State}
    (hs : Issuing s c) (hf : LaneFn c f) (hm : m ∈ s.group c) (hr : runs k h ops false c s m = true) {n : Bool} {d : Nat} {v : Word}
    {g : Num.Flags} {r : Nat → Nat} (hdo : ∀ s1, LanesOnly c (fun x => x ≠ m.key) s s1 → ∃ t, f s1 c m = .ok t ∧
      ((Tbl.get? s1.threads m.key).isSome = true → (s1.turnOf c.core).isSome = true →
        Took s1 t m n d v (r s1.clk) ∧ Raised s1 t c m g (r s1.clk))) :
    Took s (perLane k h ops f s) m n d v (r s.clk) ∧ Raised s (perLane k h ops f s) c m g (r s.clk) := by
  obtain ⟨s1, s2, h1, h2, h3⟩ := perLane_do hs hf hm hr (fun s1 h1 => (hdo s1 h1).imp fun _ h => h.1)
  obtain ⟨t, h4, h5⟩ := hdo s1 h1
  rw [h4] at h2
  cases h2
  obtain ⟨h6, h7⟩ := h5 (h1.resident (hs.resident m hm)) (State.turnOf_only h1 hm)
  rw [h1.clk] at h6 h7
  exact ⟨h6.transport h1.own h3.own, h7.transport h1 h3⟩

/-- The same of a pair. -/
theorem perLane_tookPairF {k : WKind} {h : Hdr} {ops : List Opn} {f : State → Cur → Member → Except (Nat × Nat) State}
    (hs : Issuing s c) (hf : LaneFn c f) (hm : m ∈ s.group c) (hr : runs k h ops false c s m = true) {n : Bool} {d : Nat} {v : Dword}
    {g : Num.Flags} {r : Nat → Nat} (hdo : ∀ s1, LanesOnly c (fun x => x ≠ m.key) s s1 → ∃ t, f s1 c m = .ok t ∧
      ((Tbl.get? s1.threads m.key).isSome = true → (s1.turnOf c.core).isSome = true →
        TookPair s1 t m n d v (r s1.clk) ∧ Raised s1 t c m g (r s1.clk))) :
    TookPair s (perLane k h ops f s) m n d v (r s.clk) ∧ Raised s (perLane k h ops f s) c m g (r s.clk) := by
  obtain ⟨s1, s2, h1, h2, h3⟩ := perLane_do hs hf hm hr (fun s1 h1 => (hdo s1 h1).imp fun _ h => h.1)
  obtain ⟨t, h4, h5⟩ := hdo s1 h1
  rw [h4] at h2
  cases h2
  obtain ⟨h6, h7⟩ := h5 (h1.resident (hs.resident m hm)) (State.turnOf_only h1 hm)
  rw [h1.clk] at h6 h7
  exact ⟨h6.transport h1.own h3.own, h7.transport h1 h3⟩

/-! ## Compares and pairs -/

theorem State.putPred_took (i : Nat) (v : Bool) (lat after dep : Nat) (hr : (Tbl.get? s.threads m.key).isSome = true)
    (ht : (s.turnOf c.core).isSome = true) :
    TookPred s (s.putPred c m i v lat after dep) c m i v (readyAt c.core (max s.clk after) lat) := by
  constructor
  · rw [State.putPred_landing, if_pos ht]
    simp
  · have h := State.thr_modThr_same s m.wg m.t (fun x => { x with
      busy := Tbl.put x.busy (predKey i) (laterOf (Tbl.get? x.busy (predKey i)) (readyAt c.core (max s.clk after) lat)),
      dep := Tbl.set x.dep 0 (predKey i) dep }) hr
    exact ⟨dep, h⟩

theorem TookPred.transport {s1 s2 : State} {i : Nat} {v : Bool} {r : Nat} (h : TookPred s1 s2 c m i v r)
    (h1 : LanesOnly c (fun x => x ≠ m.key) s s1) (h2 : LanesOnly c (fun x => x ≠ m.key) s2 t) : TookPred s t c m i v r := by
  obtain ⟨ha, dep, hb⟩ := h
  exact ⟨h2.lands.subset ha, dep, by rw [h2.own, hb, h1.own]⟩

/-- A lane function that writes predicates of its thread. -/
structure WritesP (c : Cur) (f : State → Cur → Member → Except (Nat × Nat) State) : Prop where
  only : LaneFn c f
  lands : ∀ s m t, f s c m = .ok t → ∀ a ∈ t.landing c.core, a ∈ s.landing c.core ∨ ∃ i v, a = .pred m.wg m.t i v

theorem State.putPred_lands (i : Nat) (v : Bool) (lat after dep : Nat) :
    ∀ a ∈ (s.putPred c m i v lat after dep).landing c.core, a ∈ s.landing c.core ∨ ∃ i v, a = .pred m.wg m.t i v := by
  intro a ha
  rw [State.putPred_landing] at ha
  split at ha
  · rcases List.mem_append.mp ha with h | h
    · exact .inl h
    · exact .inr ⟨i, v, by simpa using h⟩
  · cases ha

theorem opCmp_writes {lat : Nat} {o : OpCP} {g : Word → Word → Bool} (ha : isPort o.a = false) (hb : isPort o.b = false) :
    WritesP c (opCmp lat o g) := by
  constructor
  all_goals
    intro s m t h
    simp only [opCmp] at h
    split at h
    · cases h
    · rename_i s1 x hx
      have h1 := State.src_state ha hx
      dsimp only at h1
      subst h1
      split at h
      · cases h
      · rename_i s2 y hy
        have h1 := State.src_state hb hy
        dsimp only at h1
        subst h1
        cases h
        first | exact State.putPred_only .. | exact State.putPred_lands _ _ _ _ _

theorem opCmp_do {lat : Nat} {o : OpCP} {g : Word → Word → Bool} {x y : Word × Nat} (ha : s.plain m o.a = some x)
    (hb : s.plain m o.b = some y) : ∃ t, opCmp lat o g s c m = .ok t ∧
      ((Tbl.get? s.threads m.key).isSome = true → (s.turnOf c.core).isSome = true →
        TookPred s t c m o.pd.toNat (g x.1 y.1) (readyAt c.core (max s.clk (max x.2 y.2)) lat)) := by
  obtain ⟨dx, h1⟩ := State.src_plain (c := c) ha
  obtain ⟨dy, h2⟩ := State.src_plain (c := c) hb
  exact ⟨s.putPred c m o.pd.toNat (g x.1 y.1) lat (max x.2 y.2) (max dx dy), by simp only [opCmp, h1, h2],
    fun hr ht => State.putPred_took _ _ _ _ _ hr ht⟩

/-- One predicate of a thread, from its lane. -/
theorem perLane_tookPred {k : WKind} {h : Hdr} {ops : List Opn} {f : State → Cur → Member → Except (Nat × Nat) State}
    (hs : Issuing s c) (hf : LaneFn c f) (hm : m ∈ s.group c) (hr : runs k h ops false c s m = true) {i : Nat} {v : Bool}
    {r : Nat → Nat} (hdo : ∀ s1, LanesOnly c (fun x => x ≠ m.key) s s1 → ∃ t, f s1 c m = .ok t ∧
      ((Tbl.get? s1.threads m.key).isSome = true → (s1.turnOf c.core).isSome = true → TookPred s1 t c m i v (r s1.clk))) :
    TookPred s (perLane k h ops f s) c m i v (r s.clk) := by
  obtain ⟨s1, s2, h1, h2, h3⟩ := perLane_do hs hf hm hr (fun s1 h1 => (hdo s1 h1).imp fun _ h => h.1)
  obtain ⟨t, h4, h5⟩ := hdo s1 h1
  rw [h4] at h2
  cases h2
  have h6 := h5 (h1.resident (hs.resident m hm)) (State.turnOf_only h1 hm)
  rw [h1.clk] at h6
  exact h6.transport h1 h3

theorem State.firstBad_pair {a : Nat} (h : s.plainPair m a) : s.firstBad m a 2 = none := by
  simp [State.firstBad, rangeFrom, List.range, List.range.loop, h.1, h.2]

theorem LanesOnly.plainPair (h : LanesOnly c (fun x => x ≠ m.key) s t) {a : Nat} (hp : s.plainPair m a) : t.plainPair m a := by
  unfold State.plainPair State.badReg at *
  rw [h.own]
  exact hp

end Sys2Proof.Machine
end

