-- ==== Sys2Proof/Laws/MemOkBase.lean ====
section
/-! SUPPORT. What keeps the memories well formed (`State.memOk`): one lemma for each operation and each meaning of
the shared operations: registers, memory, the memory path, operands, flags and issue. With
`open Sys2Proof.Laws.MemOk` the lemmas are patterns of `grind` as well. -/

namespace Sys2Proof.Laws.MemOk
set_option Elab.async false
open Sys2Proof Sys2Proof.Machine Sys2Proof.Machine.Num

/-- The memories of a state are well formed. -/
def Ok (s : State) : Prop := s.memOk = true
/-- The memories are well formed: the DRAM, the scratch of the cores, the memory of the host and that of the peers. -/
def Oks (d : Mem) (c : Tbl Core) (h q : Mem) : Prop := memsOk d c h q = true

theorem Ok.iff (s : State) : Ok s ↔ Oks s.dram s.cores s.hostMem s.peerMem := Iff.rfl
scoped grind_pattern Ok.iff => Ok s

/-- The states of a result of each type are well formed. -/
def OkE {ε : Type} (x : Except ε State) : Prop := match x with | .ok t => Ok t | .error _ => True
def OkEP {ε α : Type} (x : Except ε (State × α)) : Prop := match x with | .ok t => Ok t.1 | .error _ => True
def OkO (x : Option State) : Prop := match x with | some t => Ok t | none => True
def OkR (x : Res) : Prop := match x with | .next t => Ok t | _ => True
def OkN (x : NodeRes) : Prop := match x with | .done s _ => Ok s | .wait s => Ok s | .copying s => Ok s | .stop s _ _ => Ok s
def OkV (x : Evicted) : Prop := match x with | .done s => Ok s | .full => True | .later => True
def OkT (x : TreeRead) : Prop := Ok x.st
theorem OkE.ok {ε : Type} (t : State) : OkE (Except.ok t : Except ε State) ↔ Ok t := Iff.rfl
theorem OkE.error {ε : Type} (e : ε) : OkE (Except.error e) := trivial
theorem OkEP.ok {ε α : Type} (t : State × α) : OkEP (Except.ok t : Except ε (State × α)) ↔ Ok t.1 := Iff.rfl
theorem OkEP.error {ε α : Type} (e : ε) : OkEP (Except.error e : Except ε (State × α)) := trivial
theorem OkO.some (t : State) : OkO (some t) ↔ Ok t := Iff.rfl
theorem OkO.none : OkO none := trivial
theorem OkR.next (t : State) : OkR (.next t) ↔ Ok t := Iff.rfl
theorem OkN.done (t : State) (l : List Nat) : OkN (.done t l) ↔ Ok t := Iff.rfl
theorem OkN.wait (t : State) : OkN (.wait t) ↔ Ok t := Iff.rfl
theorem OkN.copying (t : State) : OkN (.copying t) ↔ Ok t := Iff.rfl
theorem OkN.stop (t : State) (a b : Nat) : OkN (.stop t a b) ↔ Ok t := Iff.rfl
theorem OkV.done (t : State) : OkV (.done t) ↔ Ok t := Iff.rfl
theorem OkV.full : OkV .full := trivial
theorem OkV.later : OkV .later := trivial
theorem OkT.iff (x : TreeRead) : OkT x ↔ Ok x.st := Iff.rfl
scoped grind_pattern OkE.ok => OkE (Except.ok t : Except ε State)
scoped grind_pattern OkE.error => OkE (Except.error e)
scoped grind_pattern OkEP.ok => OkEP (Except.ok t : Except ε (State × α))
scoped grind_pattern OkEP.error => OkEP (Except.error e : Except ε (State × α))
scoped grind_pattern OkO.some => OkO (Option.some t)
scoped grind_pattern OkR.next => OkR (.next t)
scoped grind_pattern OkN.done => OkN (.done t l)
scoped grind_pattern OkN.wait => OkN (.wait t)
scoped grind_pattern OkN.copying => OkN (.copying t)
scoped grind_pattern OkN.stop => OkN (.stop t a b)
scoped grind_pattern OkV.done => OkV (.done t)
scoped grind_pattern OkT.iff => OkT x

theorem foldl_ok {α : Type} (g : State → α → State) (l : List α) (s : State) (h : Ok s) (hg : ∀ t a, Ok t → Ok (g t a)) : Ok (l.foldl g s) := by
  induction l generalizing s with
  | nil => exact h
  | cons a r ih => exact ih _ (hg s a h)
scoped grind_pattern foldl_ok => List.foldl g s l

theorem foldlP_ok {α β : Type} (g : State × β → α → State × β) (l : List α) (s : State × β) (h : Ok s.1)
    (hg : ∀ (t : State × β) a, Ok t.1 → Ok (g t a).1) : Ok (l.foldl g s).1 := by
  induction l generalizing s with
  | nil => exact h
  | cons a r ih => exact ih _ (hg s a h)
scoped grind_pattern foldlP_ok => List.foldl g s l
def OkPr (x : Prep) : Prop := match x with | .ok s _ => Ok s | _ => True
theorem OkPr.ok (t : State) (r : EReq) : OkPr (.ok t r) ↔ Ok t := Iff.rfl
theorem OkPr.stop (e : EErr) : OkPr (.stop e) := trivial
theorem OkPr.fault (c i : Nat) : OkPr (.fault c i) := trivial
theorem OkPr.region (c i : Nat) : OkPr (.region c i) := trivial
theorem OkPr.wait : OkPr .wait := trivial
scoped grind_pattern OkPr.ok => OkPr (.ok t r)
scoped grind_pattern OkPr.stop => OkPr (.stop e)
scoped grind_pattern OkPr.fault => OkPr (.fault c i)
scoped grind_pattern OkPr.region => OkPr (.region c i)

theorem Oks.parts {d : Mem} {c : Tbl Core} {h q : Mem} :
    Oks d c h q ↔ Memory.wf d = true ∧ (∀ p ∈ c, Memory.wf p.2.scratch = true) ∧ Tbl.sorted h = true ∧ Tbl.sorted q = true := by
  simp only [Oks, memsOk, Bool.and_eq_true, List.all_eq_true, and_assoc]

theorem Oks.put {d : Mem} {c : Tbl Core} {h q : Mem} (k : Nat) (x : Core) (o : Oks d c h q) (hx : Memory.wf x.scratch = true) :
    Oks d (Tbl.put c k x) h q := by
  rw [Oks.parts] at *
  refine ⟨o.1, fun p hp => ?_, o.2.2⟩
  rcases Tbl.mem_put hp with rfl | hp
  · exact hx
  · exact o.2.1 p hp
scoped grind_pattern Oks.put => Oks d (Tbl.put c k x) h q

theorem Oks.map {d : Mem} {c : Tbl Core} {h q : Mem} (f : Nat × Core → Nat × Core) (o : Oks d c h q) (hf : ∀ p, (f p).2.scratch = p.2.scratch) :
    Oks d (c.map f) h q := by
  rw [Oks.parts] at *
  refine ⟨o.1, fun p hp => ?_, o.2.2⟩
  obtain ⟨q, hq, rfl⟩ := List.mem_map.mp hp
  rw [hf]
  exact o.2.1 q hq
scoped grind_pattern Oks.map => Oks d (c.map f) h q

theorem Oks.each {d : Mem} {c : Tbl Core} {h q : Mem} (f : Nat → Core → Core) (o : Oks d c h q) (hf : ∀ k p, (f k p).scratch = p.scratch) :
    Oks d (Tbl.each c f) h q := Oks.map _ o (fun p => hf p.1 p.2)
scoped grind_pattern Oks.each => Oks d (Tbl.each c f) h q

theorem Ok.scratch (s : State) (c : Nat) (h : Ok s) : Memory.wf (s.core c).scratch = true := by
  have o := (Oks.parts.mp h).2.1
  unfold State.core Tbl.getD
  cases e : Tbl.get? s.cores c with
  | none => rfl
  | some x =>
    have : ∀ (t : Tbl Core), Tbl.get? t c = some x → (c, x) ∈ t := by
      intro t
      induction t with
      | nil => intro h; cases h
      | cons p r ih =>
        intro h
        simp only [Tbl.get?] at h
        split at h
        · rename_i hk; cases h; subst hk; exact List.mem_cons_self
        · exact List.mem_cons_of_mem _ (ih h)
    exact o _ (this _ e)

theorem Oks.dram {d : Mem} {c : Tbl Core} {h q : Mem} (l : List (Byte × Nat)) (o : Oks d c h q) :
    Oks (l.foldl (fun m p => Tbl.set m 0#8 p.2 p.1) d) c h q := by
  rw [Oks.parts] at *
  exact ⟨Memory.wf_writes l o.1, o.2⟩

theorem Tbl.sorted_writes {h : Mem} (l : List (Byte × Nat)) (o : Tbl.sorted h = true) :
    Tbl.sorted (l.foldl (fun m p => Tbl.put m p.2 p.1) h) = true := by
  induction l generalizing h with
  | nil => exact o
  | cons a r ih => exact ih (Tbl.sorted_put _ _ o)

theorem Oks.host {d : Mem} {c : Tbl Core} {h q : Mem} (l : List (Byte × Nat)) (o : Oks d c h q) :
    Oks d c (l.foldl (fun m p => Tbl.put m p.2 p.1) h) q := by
  rw [Oks.parts] at *
  exact ⟨o.1, o.2.1, Tbl.sorted_writes l o.2.2.1, o.2.2.2⟩
scoped grind_pattern Oks.host => Oks d c (l.foldl (fun m p => Tbl.put m p.2 p.1) h) q

theorem Oks.peer {d : Mem} {c : Tbl Core} {h q : Mem} (l : List (Byte × Nat)) (o : Oks d c h q) :
    Oks d c h (l.foldl (fun m p => Tbl.put m p.2 p.1) q) := by
  rw [Oks.parts] at *
  exact ⟨o.1, o.2.1, o.2.2.1, Tbl.sorted_writes l o.2.2.2⟩
scoped grind_pattern Oks.peer => Oks d c h (l.foldl (fun m p => Tbl.put m p.2 p.1) q)

theorem State.modCore_ok (s : State) (c : Nat) (f : Core → Core) (h : Ok s) (hf : ∀ x, (f x).scratch = x.scratch) : Ok (s.modCore c f) := by
  refine Oks.put c _ h ?_
  rw [hf]
  exact Ok.scratch s c h
scoped grind_pattern State.modCore_ok => State.modCore s c f

theorem State.dramWrite_ok (s : State) (k : Nat) (data : List Byte) (h : Ok s) : Ok (s.dramWrite k data) := Oks.dram _ h
scoped grind_pattern State.dramWrite_ok => State.dramWrite s k data

theorem State.scrWrite_ok (s : State) (core a : Nat) (data : List Byte) (h : Ok s) : Ok (s.scrWrite core a data) :=
  Oks.put core _ h (Memory.wf_writes _ (Ok.scratch s core h))
scoped grind_pattern State.scrWrite_ok => State.scrWrite s core a data

theorem Core.applyNotes_scratch (c : Core) (n : Nat) : (c.applyNotes n).scratch = c.scratch := by unfold Core.applyNotes; rfl
scoped grind_pattern Core.applyNotes_scratch => c.applyNotes n

def OkF (x : Fetch) : Prop := match x with | .ok s => Ok s | _ => True
theorem OkF.ok (t : State) : OkF (.ok t) ↔ Ok t := Iff.rfl
theorem OkF.fault (c i : Nat) : OkF (.fault c i) := trivial
theorem OkF.mem (e : MErr) (o : Nat) : OkF (.mem e o) := trivial
scoped grind_pattern OkF.ok => OkF (.ok t)
scoped grind_pattern OkF.fault => OkF (.fault c i)
scoped grind_pattern OkF.mem => OkF (.mem e o)

/-- A fold keeps what every step of it keeps. -/
theorem foldl_keeps {α β : Type} (P : β → Prop) (g : β → α → β) (l : List α) (b : β) (h : P b) (hg : ∀ x a, P x → P (g x a)) :
    P (l.foldl g b) := by
  induction l generalizing b with
  | nil => exact h
  | cons a r ih => exact ih _ (hg b a h)

theorem foldlF_ok {α : Type} (g : Fetch → α → Fetch) (l : List α) (s : Fetch) (h : OkF s) (hg : ∀ t a, OkF t → OkF (g t a)) : OkF (l.foldl g s) :=
  foldl_keeps OkF g l s h hg
scoped grind_pattern foldlF_ok => List.foldl g s l

theorem foldlE_ok {α β ε : Type} (g : Except ε (State × β) → α → Except ε (State × β)) (l : List α) (s : Except ε (State × β)) (h : OkEP s)
    (hg : ∀ t a, OkEP t → OkEP (g t a)) : OkEP (l.foldl g s) :=
  foldl_keeps OkEP g l s h hg
scoped grind_pattern foldlE_ok => List.foldl g s l

theorem Ok.ite {c : Prop} [Decidable c] {a b : State} (x : c → Ok a) (y : ¬c → Ok b) : Ok (if c then a else b) := by
  split
  · exact x ‹_›
  · exact y ‹_›

theorem Ok.fst {α : Type} {c : Prop} [Decidable c] {a b : State × α} (x : c → Ok a.1) (y : ¬c → Ok b.1) : Ok (if c then a else b).1 := by
  split
  · exact x ‹_›
  · exact y ‹_›

theorem OkE.get {ε : Type} {x : Except ε State} {t : State} (e : x = .ok t) (h : OkE x) : Ok t := by rw [e] at h; exact h
theorem OkEP.get {ε α : Type} {x : Except ε (State × α)} {t : State} {a : α} (e : x = .ok (t, a)) (h : OkEP x) : Ok t := by rw [e] at h; exact h
theorem OkV.get {x : Evicted} {t : State} (e : x = .done t) (h : OkV x) : Ok t := by rw [e] at h; exact h

theorem Ok.of {s t : State} (h : Ok s) (hd : t.dram = s.dram) (hc : t.cores = s.cores) (hh : t.hostMem = s.hostMem) (hq : t.peerMem = s.peerMem) : Ok t := by
  unfold Ok State.memOk at *
  rw [hd, hc, hh, hq]
  exact h

theorem Ok.hostPut {s t : State} (h : Ok s) (a : Nat) (data : List Byte) (hd : t.dram = s.dram) (hc : t.cores = s.cores)
    (hh : t.hostMem = (data.zip (rangeFrom a data.length)).foldl (fun m p => Tbl.put m p.2 p.1) s.hostMem) (hq : t.peerMem = s.peerMem) : Ok t := by
  have := Oks.host (data.zip (rangeFrom a data.length)) h
  rw [← hd, ← hc, ← hh, ← hq] at this
  exact this

theorem Ok.fresh {s t : State} (o : Ok s) (hd : t.dram = []) (hc : t.cores = []) (hh : t.hostMem = s.hostMem) (hq : t.peerMem = s.peerMem) : Ok t := by
  have := (Oks.parts.mp o).2.2
  refine Oks.parts.mpr ?_
  rw [hd, hc, hh, hq]
  exact ⟨rfl, nofun, this⟩

/-! ## Units -/

theorem State.modThr_ok (s : State) (wg t : Nat) (f : Thread → Thread) : Ok s → Ok (State.modThr s wg t f) := by
  unfold State.modThr; grind (splits := 40) -lia -linarith -ring -order
scoped grind_pattern State.modThr_ok => State.modThr s wg t f

theorem State.modBrd_ok (s : State) (wg b : Nat) (f : Braid → Braid) : Ok s → Ok (State.modBrd s wg b f) := by
  unfold State.modBrd; grind (splits := 40) -lia -linarith -ring -order
scoped grind_pattern State.modBrd_ok => State.modBrd s wg b f

theorem State.modWg_ok (s : State) (wg : Nat) (f : Workgroup → Workgroup) : Ok s → Ok (State.modWg s wg f) := by
  unfold State.modWg; grind (splits := 40) -lia -linarith -ring -order
scoped grind_pattern State.modWg_ok => State.modWg s wg f

theorem State.modCluster_ok (s : State) (c : Nat) (f : Cluster → Cluster) : Ok s → Ok (State.modCluster s c f) := by
  unfold State.modCluster; grind (splits := 40) -lia -linarith -ring -order
scoped grind_pattern State.modCluster_ok => State.modCluster s c f

theorem State.modDie_ok (s : State) (d : Nat) (f : Die → Die) : Ok s → Ok (State.modDie s d f) := by
  unfold State.modDie; grind (splits := 40) -lia -linarith -ring -order
scoped grind_pattern State.modDie_ok => State.modDie s d f

theorem State.modStack_ok (s : State) (k : Nat) (f : Stack → Stack) : Ok s → Ok (State.modStack s k f) := by
  unfold State.modStack; grind (splits := 40) -lia -linarith -ring -order
scoped grind_pattern State.modStack_ok => State.modStack s k f

theorem State.modPart_ok (s : State) (p : Nat) (f : Partition → Partition) : Ok s → Ok (State.modPart s p f) := by
  unfold State.modPart; grind (splits := 40) -lia -linarith -ring -order
scoped grind_pattern State.modPart_ok => State.modPart s p f

theorem State.modPower_ok (s : State) (d : Nat) (f : Power → Power) : Ok s → Ok (State.modPower s d f) := by
  unfold State.modPower; grind (splits := 40) -lia -linarith -ring -order
scoped grind_pattern State.modPower_ok => State.modPower s d f

theorem State.modTile_ok (s : State) (cl t : Nat) (f : Tile → Tile) : Ok s → Ok (State.modTile s cl t f) := by
  unfold State.modTile; grind (splits := 40) -lia -linarith -ring -order
scoped grind_pattern State.modTile_ok => State.modTile s cl t f

theorem State.freshSeq_ok (s : State) : Ok s → Ok (State.freshSeq s).1 := by
  unfold State.freshSeq; grind (splits := 40) -lia -linarith -ring -order
scoped grind_pattern State.freshSeq_ok => State.freshSeq s

theorem State.freshId_ok (s : State) : Ok s → Ok (State.freshId s).1 := by
  unfold State.freshId; grind (splits := 40) -lia -linarith -ring -order
scoped grind_pattern State.freshId_ok => State.freshId s

theorem State.draw_ok (s : State) : Ok s → Ok (State.draw s).1 := by
  unfold State.draw; grind (splits := 40) -lia -linarith -ring -order
scoped grind_pattern State.draw_ok => State.draw s

theorem State.emit_ok (s : State) (o : Out) : Ok s → Ok (State.emit s o) := by
  unfold State.emit; grind (splits := 40) -lia -linarith -ring -order
scoped grind_pattern State.emit_ok => State.emit s o

theorem State.due_ok (s : State) (a : Act) : Ok s → Ok (State.due s a) := by
  unfold State.due; grind (splits := 40) -lia -linarith -ring -order
scoped grind_pattern State.due_ok => State.due s a

theorem State.dueNext_ok (s : State) (l : List Act) : Ok s → Ok (State.dueNext s l) := by
  unfold State.dueNext; grind (splits := 40) -lia -linarith -ring -order
scoped grind_pattern State.dueNext_ok => State.dueNext s l

theorem State.dissolve_ok (s : State) (b : Option Nat) : Ok s → Ok (State.dissolve s b) := by
  unfold State.dissolve; grind (splits := 40) -lia -linarith -ring -order
scoped grind_pattern State.dissolve_ok => State.dissolve s b

theorem State.modTurn_ok (s : State) (c : Nat) (f : Turn → Turn) : Ok s → Ok (State.modTurn s c f) := by
  unfold State.modTurn; grind (splits := 40) -lia -linarith -ring -order
scoped grind_pattern State.modTurn_ok => State.modTurn s c f

theorem State.modMember_ok (s : State) (c pkt i : Nat) (f : Member → Member) : Ok s → Ok (State.modMember s c pkt i f) := by
  unfold State.modMember; grind (splits := 40) -lia -linarith -ring -order
scoped grind_pattern State.modMember_ok => State.modMember s c pkt i f

theorem State.atCycleEnd_ok (s : State) (c : Nat) (a : CycAct) : Ok s → Ok (State.atCycleEnd s c a) := by
  unfold State.atCycleEnd; grind (splits := 40) -lia -linarith -ring -order
scoped grind_pattern State.atCycleEnd_ok => State.atCycleEnd s c a

theorem State.faultMember_ok (s : State) (c : Cur) (i cause info : Nat) : Ok s → Ok (State.faultMember s c i cause info) := by
  unfold State.faultMember; grind (splits := 40) -lia -linarith -ring -order
scoped grind_pattern State.faultMember_ok => State.faultMember s c i cause info

theorem State.pushInvalid_ok (s : State) (m : Member) : Ok s → Ok (State.pushInvalid s m) := by
  unfold State.pushInvalid; grind (splits := 40) -lia -linarith -ring -order
scoped grind_pattern State.pushInvalid_ok => State.pushInvalid s m

theorem liveFrom_ok (k : WKind) (h : Hdr) (ops : List Opn) (signed : Bool) (c : Cur) (x0 : List Member) (x1 : Nat) (x2 : State) : Ok x2 → Ok (liveFrom k h ops signed c x0 x1 x2).1 := by
  fun_induction liveFrom k h ops signed c x0 x1 x2 <;> grind (splits := 40) -lia -linarith -ring -order
scoped grind_pattern liveFrom_ok => liveFrom k h ops signed c x0 x1 x2

theorem lanes_ok (c : Cur) (f : State → Cur → Member → Except (Nat × Nat) State) (x0 : List (Nat × Member)) (x1 : State) : (∀ (y0 : State) (y1 : Cur) (y2 : Member), Ok y0 → OkE (f y0 y1 y2)) → Ok x1 → Ok (lanes c f x0 x1) := by
  fun_induction lanes c f x0 x1 <;> grind (splits := 40) -lia -linarith -ring -order
scoped grind_pattern lanes_ok => lanes c f x0 x1

theorem perLane_ok (k : WKind) (h : Hdr) (ops : List Opn) (f : State → Cur → Member → Except (Nat × Nat) State) (s : State) : (∀ (y0 : State) (y1 : Cur) (y2 : Member), Ok y0 → OkE (f y0 y1 y2)) → Ok s → Ok (perLane k h ops f s) := by
  unfold perLane; grind (splits := 40) -lia -linarith -ring -order
scoped grind_pattern perLane_ok => perLane k h ops f s

theorem perSigner_ok (k : WKind) (h : Hdr) (ops : List Opn) (f : State → Cur → Member → Except (Nat × Nat) State) (s : State) : (∀ (y0 : State) (y1 : Cur) (y2 : Member), Ok y0 → OkE (f y0 y1 y2)) → Ok s → Ok (perSigner k h ops f s) := by
  unfold perSigner; grind (splits := 40) -lia -linarith -ring -order
scoped grind_pattern perSigner_ok => perSigner k h ops f s

theorem perGroup_ok (k : WKind) (h : Hdr) (ops : List Opn) (f : State → Cur → List (Nat × Member) → State) (s : State) : (∀ (y0 : State) (y1 : Cur) (y2 : List (Nat × Member)), Ok y0 → Ok (f y0 y1 y2)) → Ok s → Ok (perGroup k h ops f s) := by
  unfold perGroup; grind (splits := 40) -lia -linarith -ring -order
scoped grind_pattern perGroup_ok => perGroup k h ops f s

/-! ## Memory -/

theorem State.stackWalk.walkGo_ok (s : State) (k svo page : Nat) (write : Bool) : Ok s → OkEP (State.stackWalk.walkGo s k svo page write) := by
  unfold State.stackWalk.walkGo; grind
scoped grind_pattern State.stackWalk.walkGo_ok => State.stackWalk.walkGo s k svo page write

theorem State.stackWalk_ok (s : State) (k svo : Nat) (write : Bool) : Ok s → OkEP (State.stackWalk s k svo write) := by
  unfold State.stackWalk; grind
scoped grind_pattern State.stackWalk_ok => State.stackWalk s k svo write

theorem State.resolveDev_ok (s : State) (ia : Nat) (write : Bool) : Ok s → OkEP (State.resolveDev s ia write) := by
  unfold State.resolveDev; grind (splits := 40) -lia -linarith -ring -order
scoped grind_pattern State.resolveDev_ok => State.resolveDev s ia write

theorem State.mscTouch_ok (s : State) (k spa hint : Nat) (write : Bool) : Ok s → Ok (State.mscTouch s k spa hint write) := by
  unfold State.mscTouch; grind (splits := 40) -lia -linarith -ring -order
scoped grind_pattern State.mscTouch_ok => State.mscTouch s k spa hint write

theorem State.putBack_ok (s : State) (x : Back) : Ok s → OkE (State.putBack s x) := by
  unfold State.putBack; grind (splits := 40) -lia -linarith -ring -order
scoped grind_pattern State.putBack_ok => State.putBack s x

theorem State.backOut_ok (s : State) (x : Back) : Ok s → Ok (State.backOut s x) := by
  unfold State.backOut; grind (splits := 40) -lia -linarith -ring -order
scoped grind_pattern State.backOut_ok => State.backOut s x

theorem State.lineBack_ok (s : State) (l : Line) : Ok s → Ok (State.lineBack s l) := by
  unfold State.lineBack; grind (splits := 40) -lia -linarith -ring -order
scoped grind_pattern State.lineBack_ok => State.lineBack s l

theorem State.l2Put_ok (s : State) (die : Nat) (n : Line) : Ok s → Ok (State.l2Put s die n) := by
  unfold State.l2Put; grind (splits := 40) -lia -linarith -ring -order
scoped grind_pattern State.l2Put_ok => State.l2Put s die n

theorem State.l2Clean_ok (s : State) (die tag : Nat) : Ok s → Ok (State.l2Clean s die tag) := by
  unfold State.l2Clean; grind (splits := 40) -lia -linarith -ring -order
scoped grind_pattern State.l2Clean_ok => State.l2Clean s die tag

theorem State.l2Flush_ok (s : State) (die tag : Nat) : Ok s → Ok (State.l2Flush s die tag) := by
  unfold State.l2Flush; grind (splits := 40) -lia -linarith -ring -order
scoped grind_pattern State.l2Flush_ok => State.l2Flush s die tag

theorem State.l2Fill_ok (s : State) (l : Line) (b hint : Nat) : Ok s → OkEP (State.l2Fill s l b hint) := by
  unfold State.l2Fill; grind (splits := 40) -lia -linarith -ring -order
scoped grind_pattern State.l2Fill_ok => State.l2Fill s l b hint

theorem State.l2Fetch_ok (s : State) (ia hint pol : Nat) : Ok s → OkEP (State.l2Fetch s ia hint pol) := by
  unfold State.l2Fetch; grind (splits := 40) -lia -linarith -ring -order
scoped grind_pattern State.l2Fetch_ok => State.l2Fetch s ia hint pol

theorem State.devRead_ok (s : State) (ia n hint : Nat) : Ok s → OkEP (State.devRead s ia n hint) := by
  unfold State.devRead; grind (splits := 40) -lia -linarith -ring -order
scoped grind_pattern State.devRead_ok => State.devRead s ia n hint

theorem State.modHome_ok (s : State) (ia : Nat) (f : Line → Line) : Ok s → Ok (State.modHome s ia f) := by
  unfold State.modHome; grind (splits := 40) -lia -linarith -ring -order
scoped grind_pattern State.modHome_ok => State.modHome s ia f

theorem State.devWrite_ok (s : State) (ia : Nat) (data : List Byte) (hint pol : Nat) : Ok s → OkE (State.devWrite s ia data hint pol) := by
  unfold State.devWrite; grind (splits := 40) -lia -linarith -ring -order
scoped grind_pattern State.devWrite_ok => State.devWrite s ia data hint pol

theorem State.l2Drop_ok (s : State) (die tag : Nat) : Ok s → Ok (State.l2Drop s die tag) := by
  unfold State.l2Drop; grind (splits := 40) -lia -linarith -ring -order
scoped grind_pattern State.l2Drop_ok => State.l2Drop s die tag

theorem State.notify_ok (s : State) (die tag : Nat) : Ok s → Ok (State.notify s die tag) := by
  unfold State.notify; grind (splits := 40) -lia -linarith -ring -order
scoped grind_pattern State.notify_ok => State.notify s die tag

theorem State.tellOwn_ok (s : State) (home die ia : Nat) (data : List Byte) (told : Bool) : Ok s → Ok (State.tellOwn s home die ia data told) := by
  unfold State.tellOwn; grind (splits := 40) -lia -linarith -ring -order
scoped grind_pattern State.tellOwn_ok => State.tellOwn s home die ia data told

theorem State.touch_ok (s : State) (ia : Nat) : Ok s → Ok (State.touch s ia) := by
  unfold State.touch; grind (splits := 40) -lia -linarith -ring -order
scoped grind_pattern State.touch_ok => State.touch s ia

theorem State.touchAll_ok (s : State) (l : List Nat) : Ok s → Ok (State.touchAll s l) := by
  unfold State.touchAll; grind (splits := 40) -lia -linarith -ring -order
scoped grind_pattern State.touchAll_ok => State.touchAll s l

theorem State.putIaTlb_ok (s : State) (tr : Nat) (t : Tbl Nat) : Ok s → Ok (State.putIaTlb s tr t) := by
  unfold State.putIaTlb; grind (splits := 40) -lia -linarith -ring -order
scoped grind_pattern State.putIaTlb_ok => State.putIaTlb s tr t

theorem State.iaWalkGo_ok (s : State) (tr root input : Nat) (write : Bool) : Ok s → OkEP (State.iaWalkGo s tr root input write) := by
  unfold State.iaWalkGo; grind (splits := 40) -lia -linarith -ring -order
scoped grind_pattern State.iaWalkGo_ok => State.iaWalkGo s tr root input write

theorem State.iaWalk_ok (s : State) (tr root input : Nat) (write : Bool) : Ok s → OkEP (State.iaWalk s tr root input write) := by
  unfold State.iaWalk; grind (splits := 40) -lia -linarith -ring -order
scoped grind_pattern State.iaWalk_ok => State.iaWalk s tr root input write

theorem State.peerImport_ok (s : State) (off : Nat) (write : Bool) : Ok s → OkEP (State.peerImport s off write) := by
  unfold State.peerImport; grind (splits := 40) -lia -linarith -ring -order
scoped grind_pattern State.peerImport_ok => State.peerImport s off write

theorem State.resolve_ok (s : State) (ia : Nat) (write : Bool) : Ok s → OkEP (State.resolve s ia write) := by
  unfold State.resolve; grind (splits := 40) -lia -linarith -ring -order
scoped grind_pattern State.resolve_ok => State.resolve s ia write

theorem State.gateShut_ok (s : State) : Ok s → Ok (State.gateShut s) := by
  unfold State.gateShut; grind (splits := 40) -lia -linarith -ring -order
scoped grind_pattern State.gateShut_ok => State.gateShut s

theorem State.putPeer_ok (s : State) (d off : Nat) (data : List Byte) : Ok s → Ok (State.putPeer s d off data) := fun h => Oks.peer _ h
scoped grind_pattern State.putPeer_ok => State.putPeer s d off data

theorem State.peerLoad_ok (s : State) (die d off n : Nat) : Ok s → OkEP (State.peerLoad s die d off n) := by
  unfold State.peerLoad; grind (splits := 40) -lia -linarith -ring -order
scoped grind_pattern State.peerLoad_ok => State.peerLoad s die d off n

theorem State.peerStore_ok (s : State) (die d off : Nat) (data : List Byte) : Ok s → OkE (State.peerStore s die d off data) := by
  unfold State.peerStore; grind (splits := 40) -lia -linarith -ring -order
scoped grind_pattern State.peerStore_ok => State.peerStore s die d off data

theorem State.ownIa_ok (s : State) (ia : Nat) (write : Bool) : Ok s → OkEP (State.ownIa s ia write) := by
  unfold State.ownIa; grind (splits := 40) -lia -linarith -ring -order
scoped grind_pattern State.ownIa_ok => State.ownIa s ia write

theorem State.homeRead_ok (s : State) (die ia n hint : Nat) : Ok s → OkEP (State.homeRead s die ia n hint) := by
  unfold State.homeRead; grind (splits := 40) -lia -linarith -ring -order
scoped grind_pattern State.homeRead_ok => State.homeRead s die ia n hint

theorem State.stackRead_ok (s : State) (ia n hint : Nat) : Ok s → OkEP (State.stackRead s ia n hint) := by
  unfold State.stackRead; grind (splits := 40) -lia -linarith -ring -order
scoped grind_pattern State.stackRead_ok => State.stackRead s ia n hint

theorem State.homeAt_ok (s : State) (die ia : Nat) (data : List Byte) (hint pol : Nat) (told : Bool) : Ok s →
    OkE (State.homeAt s die ia data hint pol told) := by
  have host := fun (d : Mem) (c : Tbl Core) (h q : Mem) (a : Nat) (o : Oks d c h q) => Oks.host (data.zip (rangeFrom a data.length)) o
  unfold State.homeAt; grind
scoped grind_pattern State.homeAt_ok => State.homeAt s die ia data hint pol told

theorem State.homePut_ok (s : State) (die ia : Nat) (data : List Byte) (hint pol : Nat) (told : Bool) : Ok s → OkE (State.homePut s die ia data hint pol told) := by
  unfold State.homePut; grind (splits := 40) -lia -linarith -ring -order
scoped grind_pattern State.homePut_ok => State.homePut s die ia data hint pol told

theorem State.homeWrite_ok (s : State) (die ia : Nat) (data : List Byte) : Ok s → OkE (State.homeWrite s die ia data) := by
  unfold State.homeWrite; grind (splits := 40) -lia -linarith -ring -order
scoped grind_pattern State.homeWrite_ok => State.homeWrite s die ia data

theorem State.atomicHome_ok (s : State) (die ia n op v cmp : Nat) : Ok s → OkEP (State.atomicHome s die ia n op v cmp) := by
  unfold State.atomicHome; grind (splits := 40) -lia -linarith -ring -order
scoped grind_pattern State.atomicHome_ok => State.atomicHome s die ia n op v cmp

theorem State.startRel_ok (s : State) (core wg : Nat) (ts : List Nat) (scope : Nat) (words : Bool) : Ok s → Ok (State.startRel s core wg ts scope words).1 := by
  unfold State.startRel; grind (splits := 40) -lia -linarith -ring -order
scoped grind_pattern State.startRel_ok => State.startRel s core wg ts scope words

theorem State.stackWrite_ok (s : State) (ia : Nat) (data : List Byte) (hint : Nat) : Ok s → OkE (State.stackWrite s ia data hint) := by
  unfold State.stackWrite; grind (splits := 40) -lia -linarith -ring -order
scoped grind_pattern State.stackWrite_ok => State.stackWrite s ia data hint

theorem State.atomicStack_ok (s : State) (ia n op v cmp : Nat) : Ok s → OkEP (State.atomicStack s ia n op v cmp) := by
  unfold State.atomicStack; grind (splits := 40) -lia -linarith -ring -order
scoped grind_pattern State.atomicStack_ok => State.atomicStack s ia n op v cmp

/-! ## Hitch -/

theorem State.modHitch_ok (s : State) (wg t n : Nat) (f : Hitch → Hitch) : Ok s → Ok (State.modHitch s wg t n f) := by
  unfold State.modHitch; grind (splits := 40) -lia -linarith -ring -order
scoped grind_pattern State.modHitch_ok => State.modHitch s wg t n f

theorem bindReleased_ok (g : Workgroup) (us : List Thread) (s : State) : Ok s → Ok (bindReleased g us s) := by
  unfold bindReleased; grind (splits := 40) -lia -linarith -ring -order
scoped grind_pattern bindReleased_ok => bindReleased g us s

theorem State.releaseAll_ok (s : State) (g : Workgroup) (us : List Thread) (w : Wait) : Ok s → Ok (State.releaseAll s g us w) := by
  unfold State.releaseAll; grind (splits := 40) -lia -linarith -ring -order
scoped grind_pattern State.releaseAll_ok => State.releaseAll s g us w

theorem State.formRequest_ok (s : State) (wg : Nat) (op : EngOp) (c : Captured) : Ok s → Ok (State.formRequest s wg op c) := by
  unfold State.formRequest; grind (splits := 40) -lia -linarith -ring -order
scoped grind_pattern State.formRequest_ok => State.formRequest s wg op c

theorem State.completeRound_ok (s : State) (wg t n : Nat) : Ok s → Ok (State.completeRound s wg t n) := by
  unfold State.completeRound; grind (splits := 40) -lia -linarith -ring -order
scoped grind_pattern State.completeRound_ok => State.completeRound s wg t n

theorem State.evalDeadlock_ok (s : State) (wg : Nat) : Ok s → Ok (State.evalDeadlock s wg) := by
  unfold State.evalDeadlock; grind (splits := 40) -lia -linarith -ring -order
scoped grind_pattern State.evalDeadlock_ok => State.evalDeadlock s wg

theorem State.recordSig_ok (s : State) (wg t n : Nat) (k : HKind) : Ok s → Ok (State.recordSig s wg t n k) := by
  unfold State.recordSig; grind (splits := 40) -lia -linarith -ring -order
scoped grind_pattern State.recordSig_ok => State.recordSig s wg t n k

theorem State.rejoin_ok (s : State) (wg t n pc : Nat) (word : Word) : Ok s → OkE (State.rejoin s wg t n pc word) := by
  unfold State.rejoin; grind (splits := 40) -lia -linarith -ring -order
scoped grind_pattern State.rejoin_ok => State.rejoin s wg t n pc word

theorem State.signEngine_ok (s : State) (wg t n : Nat) (op : EngOp) (pc : Nat) (word : Word) (wpos : Nat) (g : Signer) : Ok s → OkE (State.signEngine s wg t n op pc word wpos g) := by
  unfold State.signEngine; grind (splits := 40) -lia -linarith -ring -order
scoped grind_pattern State.signEngine_ok => State.signEngine s wg t n op pc word wpos g

theorem State.hset_ok (s : State) (wg t n : Nat) (mask : BitVec 64) (count : Nat) : Ok s → Ok (State.hset s wg t n mask count) := by
  unfold State.hset; grind (splits := 40) -lia -linarith -ring -order
scoped grind_pattern State.hset_ok => State.hset s wg t n mask count

theorem State.completeBar_ok (s : State) (wg : Nat) : Ok s → Ok (State.completeBar s wg) := by
  unfold State.completeBar; grind (splits := 40) -lia -linarith -ring -order
scoped grind_pattern State.completeBar_ok => State.completeBar s wg

theorem State.barArrive_ok (s : State) (wg t pc : Nat) (word : Word) : Ok s → Ok (State.barArrive s wg t pc word) := by
  unfold State.barArrive; grind (splits := 40) -lia -linarith -ring -order
scoped grind_pattern State.barArrive_ok => State.barArrive s wg t pc word

theorem State.exitHitch_ok (s : State) (wg t : Nat) : Ok s → Ok (State.exitHitch s wg t) := by
  unfold State.exitHitch; grind (splits := 40) -lia -linarith -ring -order
scoped grind_pattern State.exitHitch_ok => State.exitHitch s wg t

theorem State.exitThread_ok (s : State) (wg t : Nat) : Ok s → Ok (State.exitThread s wg t) := by
  unfold State.exitThread; grind (splits := 40) -lia -linarith -ring -order
scoped grind_pattern State.exitThread_ok => State.exitThread s wg t

/-! ## Ops -/

theorem State.iaReadAt_ok (s : State) (die ia n : Nat) (x0 : Nat) : Ok s → OkEP (State.iaReadAt s die ia n x0) := by
  fun_induction State.iaReadAt s die ia n x0 <;> grind (splits := 40) -lia -linarith -ring -order
scoped grind_pattern State.iaReadAt_ok => State.iaReadAt s die ia n x0

theorem State.iaRead_ok (s : State) (ia n k : Nat) : Ok s → OkEP (State.iaRead s ia n k) := by
  unfold State.iaRead; grind (splits := 40) -lia -linarith -ring -order
scoped grind_pattern State.iaRead_ok => State.iaRead s ia n k

theorem State.iaWrite_ok (s : State) (die ia : Nat) (data : List Byte) (x0 : Nat) : Ok s → OkE (State.iaWrite s die ia data x0) := by
  fun_induction State.iaWrite s die ia data x0 <;> grind (splits := 40) -lia -linarith -ring -order
scoped grind_pattern State.iaWrite_ok => State.iaWrite s die ia data x0

theorem State.doublesAt_ok (s : State) (die ia n : Nat) : Ok s → OkEP (State.doublesAt s die ia n) := by
  unfold State.doublesAt; grind (splits := 40) -lia -linarith -ring -order
scoped grind_pattern State.doublesAt_ok => State.doublesAt s die ia n

theorem State.doubles_ok (s : State) (ia n : Nat) : Ok s → OkEP (State.doubles s ia n) := by
  unfold State.doubles; grind (splits := 40) -lia -linarith -ring -order
scoped grind_pattern State.doubles_ok => State.doubles s ia n

theorem State.putBytes_ok (s : State) (die ia : Nat) (data : List Byte) : Ok s → Ok (State.putBytes s die ia data) := by
  unfold State.putBytes; grind (splits := 40) -lia -linarith -ring -order
scoped grind_pattern State.putBytes_ok => State.putBytes s die ia data

theorem State.msix_ok (s : State) (v : Nat) : Ok s → Ok (State.msix s v) := by
  unfold State.msix; grind (splits := 40) -lia -linarith -ring -order
scoped grind_pattern State.msix_ok => State.msix s v

theorem State.report_ok (s : State) (part dom : Nat) (r : Report) : Ok s → Ok (State.report s part dom r) := by
  unfold State.report; generalize (2 : Nat) ^ 32 = big; grind (splits := 40) -lia -linarith -ring -order
scoped grind_pattern State.report_ok => State.report s part dom r

theorem State.vaPut_ok (s : State) (asid va : Nat) (data : List Byte) : Ok s → Ok (State.vaPut s asid va data) := by
  unfold State.vaPut; grind (splits := 40) -lia -linarith -ring -order
scoped grind_pattern State.vaPut_ok => State.vaPut s asid va data

theorem State.putStatus_ok (s : State) (l : Launch) (done refused : Bool) (cause : Option Nat) : Ok s → Ok (State.putStatus s l done refused cause) := by
  unfold State.putStatus; grind (splits := 40) -lia -linarith -ring -order
scoped grind_pattern State.putStatus_ok => State.putStatus s l done refused cause

theorem State.addFailed_ok (s : State) (addr part dom : Nat) : Ok s → Ok (State.addFailed s addr part dom) := by
  unfold State.addFailed; grind (splits := 40) -lia -linarith -ring -order
scoped grind_pattern State.addFailed_ok => State.addFailed s addr part dom

theorem State.reportPage_ok (s : State) (part dom tr page : Nat) (evicted : Bool) (r : Report) : Ok s → Ok (State.reportPage s part dom tr page evicted r) := by
  unfold State.reportPage; grind (splits := 40) -lia -linarith -ring -order
scoped grind_pattern State.reportPage_ok => State.reportPage s part dom tr page evicted r

theorem State.waitPort_ok (s : State) (d part dom : Nat) : Ok s → Ok (State.waitPort s d part dom) := by
  unfold State.waitPort; grind (splits := 40) -lia -linarith -ring -order
scoped grind_pattern State.waitPort_ok => State.waitPort s d part dom

theorem State.addAt_ok (s : State) (asid : Option Nat) (die ia inc part dom addr block : Nat) : Ok s → Ok (State.addAt s asid die ia inc part dom addr block) := by
  unfold State.addAt; grind (splits := 40) -lia -linarith -ring -order
scoped grind_pattern State.addAt_ok => State.addAt s asid die ia inc part dom addr block

theorem State.addAtIa_ok (s : State) (die ia inc part dom addr block : Nat) : Ok s → Ok (State.addAtIa s die ia inc part dom addr block) := by
  unfold State.addAtIa; grind (splits := 40) -lia -linarith -ring -order
scoped grind_pattern State.addAtIa_ok => State.addAtIa s die ia inc part dom addr block

theorem State.addCounterOf_ok (s : State) (die asid va inc part dom block : Nat) : Ok s → Ok (State.addCounterOf s die asid va inc part dom block) := by
  unfold State.addCounterOf; grind (splits := 40) -lia -linarith -ring -order
scoped grind_pattern State.addCounterOf_ok => State.addCounterOf s die asid va inc part dom block

theorem State.addAgain_ok (s : State) (h : HeldAdd) : Ok s → Ok (State.addAgain s h) := by
  unfold State.addAgain; grind (splits := 40) -lia -linarith -ring -order
scoped grind_pattern State.addAgain_ok => State.addAgain s h

theorem State.addCounter_ok (s : State) (die asid va inc part dom : Nat) : Ok s → Ok (State.addCounter s die asid va inc part dom) := by
  unfold State.addCounter; grind (splits := 40) -lia -linarith -ring -order
scoped grind_pattern State.addCounter_ok => State.addCounter s die asid va inc part dom

theorem State.raiseFatal_ok (s : State) (wg : Nat) (f : FaultInfo) : Ok s → Ok (State.raiseFatal s wg f) := by
  unfold State.raiseFatal; grind (splits := 40) -lia -linarith -ring -order
scoped grind_pattern State.raiseFatal_ok => State.raiseFatal s wg f

theorem State.raiseRegion_ok (s : State) (part dom wg : Nat) (f : FaultInfo) : Ok s → Ok (State.raiseRegion s part dom wg f) := by
  unfold State.raiseRegion; grind (splits := 40) -lia -linarith -ring -order
scoped grind_pattern State.raiseRegion_ok => State.raiseRegion s part dom wg f

theorem State.clusterCause_ok (s : State) (core cause : Nat) : Ok s → Ok (State.clusterCause s core cause) := by
  unfold State.clusterCause; grind (splits := 40) -lia -linarith -ring -order
scoped grind_pattern State.clusterCause_ok => State.clusterCause s core cause

theorem State.noteLane_ok (s : State) (wg t : Nat) (a : Async) : Ok s → Ok (State.noteLane s wg t a) := by
  unfold State.noteLane; grind (splits := 40) -lia -linarith -ring -order
scoped grind_pattern State.noteLane_ok => State.noteLane s wg t a

theorem State.laneOff_ok (s : State) (wg t : Nat) (a : Async) : Ok s → Ok (State.laneOff s wg t a) := by
  unfold State.laneOff; grind (splits := 40) -lia -linarith -ring -order
scoped grind_pattern State.laneOff_ok => State.laneOff s wg t a

theorem State.queueBytes_ok (s : State) (wg t va ia pol : Nat) (a : Async) (x0 : Nat) (x1 : List Byte) : Ok s → Ok (State.queueBytes s wg t va ia pol a x0 x1) := by
  fun_induction State.queueBytes s wg t va ia pol a x0 x1 <;> grind (splits := 40) -lia -linarith -ring -order
scoped grind_pattern State.queueBytes_ok => State.queueBytes s wg t va ia pol a x0 x1

theorem State.trapEntry_ok (s : State) (wg t : Nat) (a : Async) (done : BitVec 3) (rpc : Nat) : Ok s → Ok (State.trapEntry s wg t a done rpc) := by
  unfold State.trapEntry; grind (splits := 40) -lia -linarith -ring -order
scoped grind_pattern State.trapEntry_ok => State.trapEntry s wg t a done rpc

theorem State.takeFault_ok (s : State) (wg t : Nat) (a : Async) (done : BitVec 3) (rpc : Nat) : Ok s → Ok (State.takeFault s wg t a done rpc) := by
  unfold State.takeFault; grind (splits := 40) -lia -linarith -ring -order
scoped grind_pattern State.takeFault_ok => State.takeFault s wg t a done rpc

theorem State.raiseAsync_ok (s : State) (wg t : Nat) (a : Async) : Ok s → Ok (State.raiseAsync s wg t a) := by
  unfold State.raiseAsync; grind (splits := 40) -lia -linarith -ring -order
scoped grind_pattern State.raiseAsync_ok => State.raiseAsync s wg t a

theorem State.trapReturn_ok (s : State) (wg t fva : Nat) (ds : List Nat) (pc : Nat) (raw : Word) : Ok s → Ok (State.trapReturn s wg t fva ds pc raw) := by
  unfold State.trapReturn; grind (splits := 40) -lia -linarith -ring -order
scoped grind_pattern State.trapReturn_ok => State.trapReturn s wg t fva ds pc raw

/-! ## SysMap -/

theorem State.modWindow_ok (s : State) (who : Who) (f : Window → Window) : Ok s → Ok (State.modWindow s who f) := by
  unfold State.modWindow; grind (splits := 40) -lia -linarith -ring -order
scoped grind_pattern State.modWindow_ok => State.modWindow s who f

theorem State.kick_ok (s : State) (who : Who) (k ia : Nat) : Ok s → Ok (State.kick s who k ia) := by
  unfold State.kick; grind (splits := 40) -lia -linarith -ring -order
scoped grind_pattern State.kick_ok => State.kick s who k ia

theorem State.sysWrite_ok (s : State) (who : Who) (n v : Nat) : Ok s → Ok (State.sysWrite s who n v) := by
  unfold State.sysWrite; grind (splits := 40) -lia -linarith -ring -order
scoped grind_pattern State.sysWrite_ok => State.sysWrite s who n v

/-! ## MemPath -/

theorem State.toHome_ok (s : State) (core : Nat) (w : WStore) : Ok s → Ok (State.toHome s core w) := by
  unfold State.toHome; grind (splits := 40) -lia -linarith -ring -order
scoped grind_pattern State.toHome_ok => State.toHome s core w

theorem State.l2Update_ok (s : State) (die ia : Nat) (data : List Byte) : Ok s → Ok (State.l2Update s die ia data) := by
  unfold State.l2Update; grind (splits := 40) -lia -linarith -ring -order
scoped grind_pattern State.l2Update_ok => State.l2Update s die ia data

theorem State.writeBack_ok (s : State) (core : Nat) (l : Line) : Ok s → Ok (State.writeBack s core l) := by
  unfold State.writeBack; grind (splits := 40) -lia -linarith -ring -order
scoped grind_pattern State.writeBack_ok => State.writeBack s core l

theorem State.writeBackAll_ok (s : State) (core : Nat) : Ok s → Ok (State.writeBackAll s core) := by
  unfold State.writeBackAll; grind (splits := 40) -lia -linarith -ring -order
scoped grind_pattern State.writeBackAll_ok => State.writeBackAll s core

theorem State.l1Place_ok (s : State) (core : Nat) (l : Line) : Ok s → Ok (State.l1Place s core l) := by
  unfold State.l1Place; grind (splits := 40) -lia -linarith -ring -order
scoped grind_pattern State.l1Place_ok => State.l1Place s core l

theorem State.l1Drop_ok (s : State) (core : Nat) (p : Line → Bool) : Ok s → Ok (State.l1Drop s core p) := by
  unfold State.l1Drop; grind (splits := 40) -lia -linarith -ring -order
scoped grind_pattern State.l1Drop_ok => State.l1Drop s core p

theorem State.lineRead_ok (s : State) (core ia hint : Nat) (keep : Bool) : Ok s → OkEP (State.lineRead s core ia hint keep) := by
  unfold State.lineRead; grind (splits := 40) -lia -linarith -ring -order
scoped grind_pattern State.lineRead_ok => State.lineRead s core ia hint keep

theorem State.linePol_ok (s : State) (die tag pol : Nat) : Ok s → Ok (State.linePol s die tag pol) := by
  unfold State.linePol; grind (splits := 40) -lia -linarith -ring -order
scoped grind_pattern State.linePol_ok => State.linePol s die tag pol

theorem State.coreLoad_ok (s : State) (core ia n pol hint : Nat) : Ok s → OkEP (State.coreLoad s core ia n pol hint) := by
  unfold State.coreLoad; grind (splits := 40) -lia -linarith -ring -order
scoped grind_pattern State.coreLoad_ok => State.coreLoad s core ia n pol hint

theorem State.deliver_ok (s : State) (wg t seq d : Nat) (ws : List Word) (dep : Nat) : Ok s → Ok (State.deliver s wg t seq d ws dep) := by
  unfold State.deliver; grind (splits := 40) -lia -linarith -ring -order
scoped grind_pattern State.deliver_ok => State.deliver s wg t seq d ws dep

theorem State.releaseRegs_ok (s : State) (wg t d n : Nat) : Ok s → Ok (State.releaseRegs s wg t d n) := by
  unfold State.releaseRegs; grind (splits := 40) -lia -linarith -ring -order
scoped grind_pattern State.releaseRegs_ok => State.releaseRegs s wg t d n

theorem State.dropMop_ok (s : State) (wg t seq : Nat) : Ok s → Ok (State.dropMop s wg t seq) := by
  unfold State.dropMop; grind (splits := 40) -lia -linarith -ring -order
scoped grind_pattern State.dropMop_ok => State.dropMop s wg t seq

theorem State.modMop_ok (s : State) (wg t seq : Nat) (f : MOp → MOp) : Ok s → Ok (State.modMop s wg t seq f) := by
  unfold State.modMop; grind (splits := 40) -lia -linarith -ring -order
scoped grind_pattern State.modMop_ok => State.modMop s wg t seq f

theorem State.mopError_ok (s : State) (wg t : Nat) (m : MOp) (x0 : MErr) : Ok s → Ok (State.mopError s wg t m x0) := by
  unfold State.mopError; grind (splits := 40) -lia -linarith -ring -order
scoped grind_pattern State.mopError_ok => State.mopError s wg t m x0

theorem State.mopPoison_ok (s : State) (wg t : Nat) (m : MOp) : Ok s → Ok (State.mopPoison s wg t m) := by
  unfold State.mopPoison; grind (splits := 40) -lia -linarith -ring -order
scoped grind_pattern State.mopPoison_ok => State.mopPoison s wg t m

theorem State.retried_ok (s : State) (r : PeerReq) (wg : Nat) : Ok s → Ok (State.retried s r wg) := by
  unfold State.retried; grind (splits := 40) -lia -linarith -ring -order
scoped grind_pattern State.retried_ok => State.retried s r wg

theorem State.peerGateOf_ok (s : State) (ia id wg part dom : Nat) : Ok s → Ok (State.peerGateOf s ia id wg part dom).1 := by
  unfold State.peerGateOf; grind (splits := 40) -lia -linarith -ring -order
scoped grind_pattern State.peerGateOf_ok => State.peerGateOf s ia id wg part dom

theorem State.peerGate_ok (s : State) (ia id wg : Nat) : Ok s → Ok (State.peerGate s ia id wg).1 := by
  unfold State.peerGate; grind (splits := 40) -lia -linarith -ring -order
scoped grind_pattern State.peerGate_ok => State.peerGate s ia id wg

theorem State.acquire_ok (s : State) (core scope : Nat) : Ok s → Ok (State.acquire s core scope) := by
  unfold State.acquire; grind (splits := 40) -lia -linarith -ring -order
scoped grind_pattern State.acquire_ok => State.acquire s core scope

theorem State.postTokens_ok (s : State) (core scope : Nat) : Ok s → Ok (State.postTokens s core scope) := by
  unfold State.postTokens; grind (splits := 40) -lia -linarith -ring -order
scoped grind_pattern State.postTokens_ok => State.postTokens s core scope

theorem State.sendAll_ok (s : State) (core scope : Nat) : Ok s → Ok (State.sendAll s core scope) := by
  unfold State.sendAll; grind (splits := 40) -lia -linarith -ring -order
scoped grind_pattern State.sendAll_ok => State.sendAll s core scope

theorem State.release_ok (s : State) (core wg t : Nat) (m : MOp) (scope : Nat) : Ok s → Ok (State.release s core wg t m scope).1 := by
  unfold State.release; grind (splits := 40) -lia -linarith -ring -order
scoped grind_pattern State.release_ok => State.release s core wg t m scope

theorem State.relStep_ok (s : State) (core : Nat) (r : Rel) : Ok s → Ok (State.relStep s core r) := by
  unfold State.relStep; grind (splits := 40) -lia -linarith -ring -order
scoped grind_pattern State.relStep_ok => State.relStep s core r

theorem State.relSteps_ok (s : State) : Ok s → Ok (State.relSteps s) := by
  unfold State.relSteps; grind (splits := 40) -lia -linarith -ring -order
scoped grind_pattern State.relSteps_ok => State.relSteps s

theorem State.atomReady_ok (s : State) (core wg t : Nat) (m : MOp) : Ok s → Ok (State.atomReady s core wg t m).1 := by
  unfold State.atomReady; grind (splits := 40) -lia -linarith -ring -order
scoped grind_pattern State.atomReady_ok => State.atomReady s core wg t m

theorem State.atomMem_ok (s : State) (core ia n op v cmp : Nat) : Ok s → OkEP (State.atomMem s core ia n op v cmp) := by
  unfold State.atomMem; grind (splits := 40) -lia -linarith -ring -order
scoped grind_pattern State.atomMem_ok => State.atomMem s core ia n op v cmp

theorem State.atomPerform_ok (s : State) (core wg t : Nat) (m : MOp) : Ok s → Ok (State.atomPerform s core wg t m) := by
  unfold State.atomPerform; grind (splits := 40) -lia -linarith -ring -order
scoped grind_pattern State.atomPerform_ok => State.atomPerform s core wg t m

theorem State.tryAtoms_ok (s : State) (core : Nat) (m : MOp) : Ok s → Ok (State.tryAtoms s core m) := by
  unfold State.tryAtoms; grind (splits := 40) -lia -linarith -ring -order
scoped grind_pattern State.tryAtoms_ok => State.tryAtoms s core m

theorem State.threadRead_ok (s : State) (core wg t : Nat) (m : MOp) (n : Nat) : Ok s → OkEP (State.threadRead s core wg t m n) := by
  unfold State.threadRead; grind (splits := 40) -lia -linarith -ring -order
scoped grind_pattern State.threadRead_ok => State.threadRead s core wg t m n

theorem State.observe_ok (s : State) (wg t q : Nat) : Ok s → Ok (State.observe s wg t q) := by
  unfold State.observe; grind (splits := 40) -lia -linarith -ring -order
scoped grind_pattern State.observe_ok => State.observe s wg t q

theorem State.tryLoad_ok (s : State) (core wg t : Nat) (m : MOp) (d n : Nat) (signed : Bool) : Ok s → Ok (State.tryLoad s core wg t m d n signed) := by
  unfold State.tryLoad; grind (splits := 40) -lia -linarith -ring -order
scoped grind_pattern State.tryLoad_ok => State.tryLoad s core wg t m d n signed

theorem State.tryPrefetch_ok (s : State) (core wg t : Nat) (m : MOp) : Ok s → Ok (State.tryPrefetch s core wg t m) := by
  unfold State.tryPrefetch; grind (splits := 40) -lia -linarith -ring -order
scoped grind_pattern State.tryPrefetch_ok => State.tryPrefetch s core wg t m

theorem State.tryLds_ok (s : State) (wg t : Nat) (m : MOp) (d n : Nat) : Ok s → Ok (State.tryLds s wg t m d n) := by
  unfold State.tryLds; grind (splits := 40) -lia -linarith -ring -order
scoped grind_pattern State.tryLds_ok => State.tryLds s wg t m d n

theorem State.tryFence_ok (s : State) (core wg t : Nat) (m : MOp) (kind : Nat) : Ok s → Ok (State.tryFence s core wg t m kind) := by
  unfold State.tryFence; grind (splits := 40) -lia -linarith -ring -order
scoped grind_pattern State.tryFence_ok => State.tryFence s core wg t m kind

theorem State.tryFlush_ok (s : State) (core wg t : Nat) (m : MOp) (n : Nat) : Ok s → Ok (State.tryFlush s core wg t m n) := by
  unfold State.tryFlush; grind (splits := 40) -lia -linarith -ring -order
scoped grind_pattern State.tryFlush_ok => State.tryFlush s core wg t m n

theorem State.missPromise_ok (s : State) (wg t : Nat) (m : MOp) (c : Nat) : Ok s → Ok (State.missPromise s wg t m c) := by
  unfold State.missPromise; grind (splits := 40) -lia -linarith -ring -order
scoped grind_pattern State.missPromise_ok => State.missPromise s wg t m c

theorem State.waitValue_ok (s : State) (core wg t : Nat) (m : MOp) (once : Bool) (c : Nat) : Ok s → Ok (State.waitValue s core wg t m once c) := by
  unfold State.waitValue; grind (splits := 40) -lia -linarith -ring -order
scoped grind_pattern State.waitValue_ok => State.waitValue s core wg t m once c

theorem State.tryWaitRead_ok (s : State) (core wg t : Nat) (m : MOp) (once : Bool) : Ok s → Ok (State.tryWaitRead s core wg t m once) := by
  unfold State.tryWaitRead; grind (splits := 40) -lia -linarith -ring -order
scoped grind_pattern State.tryWaitRead_ok => State.tryWaitRead s core wg t m once

theorem State.trySyswr_ok (s : State) (core wg t : Nat) (m : MOp) (n v : Nat) (started : Bool) : Ok s → Ok (State.trySyswr s core wg t m n v started) := by
  unfold State.trySyswr; grind (splits := 40) -lia -linarith -ring -order
scoped grind_pattern State.trySyswr_ok => State.trySyswr s core wg t m n v started

theorem State.tryMop_ok (s : State) (wg t : Nat) (m : MOp) : Ok s → Ok (State.tryMop s wg t m) := by
  unfold State.tryMop; grind (splits := 40) -lia -linarith -ring -order
scoped grind_pattern State.tryMop_ok => State.tryMop s wg t m

theorem State.trySeq_ok (s : State) (wg t seq : Nat) : Ok s → Ok (State.trySeq s wg t seq) := by
  unfold State.trySeq; grind (splits := 40) -lia -linarith -ring -order
scoped grind_pattern State.trySeq_ok => State.trySeq s wg t seq

theorem State.l1Store_ok (s : State) (core : Nat) (own : Nat × Nat) (e : SEntry) : Ok s → Ok (State.l1Store s core own e) := by
  unfold State.l1Store; grind (splits := 40) -lia -linarith -ring -order
scoped grind_pattern State.l1Store_ok => State.l1Store s core own e

theorem State.throughStore_ok (s : State) (core wg : Nat) (e : SEntry) : Ok s → Ok (State.throughStore s core wg e) := by
  unfold State.throughStore; grind (splits := 40) -lia -linarith -ring -order
scoped grind_pattern State.throughStore_ok => State.throughStore s core wg e

theorem State.storeFault_ok (s : State) (wg t : Nat) (trap : Option Nat) (a : Async) : Ok s → Ok (State.storeFault s wg t trap a) := by
  unfold State.storeFault; grind (splits := 40) -lia -linarith -ring -order
scoped grind_pattern State.storeFault_ok => State.storeFault s wg t trap a

theorem State.storeError_ok (s : State) (wg : Nat) (w : WStore) (x0 : MErr) : Ok s → Ok (State.storeError s wg w x0) := by
  unfold State.storeError; grind (splits := 40) -lia -linarith -ring -order
scoped grind_pattern State.storeError_ok => State.storeError s wg w x0

theorem State.storeLost_ok (s : State) (wg : Nat) (w : WStore) : Ok s → Ok (State.storeLost s wg w) := by
  unfold State.storeLost; grind (splits := 40) -lia -linarith -ring -order
scoped grind_pattern State.storeLost_ok => State.storeLost s wg w

theorem State.drainHead_ok (s : State) (wg b : Nat) : Ok s → Ok (State.drainHead s wg b) := by
  unfold State.drainHead; grind (splits := 40) -lia -linarith -ring -order
scoped grind_pattern State.drainHead_ok => State.drainHead s wg b

theorem State.backError_ok (s : State) (w : WStore) (x0 : MErr) : Ok s → Ok (State.backError s w x0) := by
  unfold State.backError; grind (splits := 40) -lia -linarith -ring -order
scoped grind_pattern State.backError_ok => State.backError s w x0

theorem State.performHome_ok (s : State) (core : Nat) (w : WStore) : Ok s → Ok (State.performHome s core w) := by
  unfold State.performHome; grind (splits := 40) -lia -linarith -ring -order
scoped grind_pattern State.performHome_ok => State.performHome s core w

theorem State.dropStores_ok (s : State) (core d : Nat) : Ok s → Ok (State.dropStores s core d) := by
  unfold State.dropStores; grind (splits := 40) -lia -linarith -ring -order
scoped grind_pattern State.dropStores_ok => State.dropStores s core d

theorem State.completeToken_ok (s : State) (core : Nat) (k : Token) : Ok s → Ok (State.completeToken s core k) := by
  unfold State.completeToken; grind (splits := 40) -lia -linarith -ring -order
scoped grind_pattern State.completeToken_ok => State.completeToken s core k

theorem execLoadReturn_ok (wg t seq : Nat) (s : State) : Ok s → OkR (execLoadReturn wg t seq s) := by
  unfold execLoadReturn; grind (splits := 40) -lia -linarith -ring -order
scoped grind_pattern execLoadReturn_ok => execLoadReturn wg t seq s

theorem execStoreDrain_ok (wg b : Nat) (s : State) : Ok s → OkR (execStoreDrain wg b s) := by
  unfold execStoreDrain; grind (splits := 40) -lia -linarith -ring -order
scoped grind_pattern execStoreDrain_ok => execStoreDrain wg b s

theorem execStorePerformHome_ok (core idx : Nat) (s : State) : Ok s → OkR (execStorePerformHome core idx s) := by
  unfold execStorePerformHome; grind (splits := 40) -lia -linarith -ring -order
scoped grind_pattern execStorePerformHome_ok => execStorePerformHome core idx s

theorem execFenceToken_ok (core idx : Nat) (s : State) : Ok s → OkR (execFenceToken core idx s) := by
  unfold execFenceToken; grind (splits := 40) -lia -linarith -ring -order
scoped grind_pattern execFenceToken_ok => execFenceToken core idx s

theorem State.markLogged_ok (s : State) (seq tr : Nat) : Ok s → Ok (State.markLogged s seq tr) := by
  unfold State.markLogged; grind (splits := 40) -lia -linarith -ring -order
scoped grind_pattern State.markLogged_ok => State.markLogged s seq tr

theorem execPageNotResident_ok (tr seq : Nat) (s : State) : Ok s → OkR (execPageNotResident tr seq s) := by
  unfold execPageNotResident; grind (splits := 40) -lia -linarith -ring -order
scoped grind_pattern execPageNotResident_ok => execPageNotResident tr seq s

theorem State.replayMop_ok (s : State) (wg t : Nat) (m : MOp) : Ok s → Ok (State.replayMop s wg t m) := by
  unfold State.replayMop; grind (splits := 40) -lia -linarith -ring -order
scoped grind_pattern State.replayMop_ok => State.replayMop s wg t m

theorem State.replayStore_ok (s : State) (b : Nat) (wg : Nat) (e : SEntry) : Ok s → Ok (State.replayStore s b wg e) := by
  unfold State.replayStore; grind (splits := 40) -lia -linarith -ring -order
scoped grind_pattern State.replayStore_ok => State.replayStore s b wg e

theorem State.replayHome_ok (s : State) (core : Nat) (w : WStore) : Ok s → Ok (State.replayHome s core w) := by
  unfold State.replayHome; grind (splits := 40) -lia -linarith -ring -order
scoped grind_pattern State.replayHome_ok => State.replayHome s core w

theorem State.replayOne_ok (s : State) (x0 : Logged) : Ok s → Ok (State.replayOne s x0) := by
  unfold State.replayOne; grind (splits := 40) -lia -linarith -ring -order
scoped grind_pattern State.replayOne_ok => State.replayOne s x0

theorem State.releaseBacks_ok (s : State) (k : Nat) : Ok s → Ok (State.releaseBacks s k) := by
  unfold State.releaseBacks; grind (splits := 40) -lia -linarith -ring -order
scoped grind_pattern State.releaseBacks_ok => State.releaseBacks s k

theorem State.replayRest_ok (s : State) (tr : Nat) : Ok s → Ok (State.replayRest s tr) := by
  unfold State.replayRest; grind (splits := 40) -lia -linarith -ring -order
scoped grind_pattern State.replayRest_ok => State.replayRest s tr

theorem State.replayAll_ok (s : State) (tr : Nat) : Ok s → Ok (State.replayAll s tr) := by
  unfold State.replayAll; grind (splits := 40) -lia -linarith -ring -order
scoped grind_pattern State.replayAll_ok => State.replayAll s tr

/-! ## Operands -/

theorem State.addUse_ok (s : State) (c : Cur) (m : Member) (q res : Nat) (write : Bool) (v : Word) : Ok s → Ok (State.addUse s c m q res write v) := by
  unfold State.addUse; grind (splits := 40) -lia -linarith -ring -order
scoped grind_pattern State.addUse_ok => State.addUse s c m q res write v

theorem State.modStream_ok (s : State) (wg n : Nat) (f : Stream → Stream) : Ok s → Ok (State.modStream s wg n f) := by
  unfold State.modStream; grind (splits := 40) -lia -linarith -ring -order
scoped grind_pattern State.modStream_ok => State.modStream s wg n f

theorem State.popPort_ok (s : State) (c : Cur) (m : Member) (q : Nat) : Ok s → OkEP (State.popPort s c m q) := by
  unfold State.popPort; grind (splits := 40) -lia -linarith -ring -order
scoped grind_pattern State.popPort_ok => State.popPort s c m q

theorem State.pushPort_ok (s : State) (c : Cur) (m : Member) (q : Nat) (v : Word) : Ok s → OkE (State.pushPort s c m q v) := by
  unfold State.pushPort; grind (splits := 40) -lia -linarith -ring -order
scoped grind_pattern State.pushPort_ok => State.pushPort s c m q v

theorem State.src_ok (s : State) (c : Cur) (m : Member) (a : BitVec 7) : Ok s → OkEP (State.src s c m a) := by
  unfold State.src; grind (splits := 40) -lia -linarith -ring -order
scoped grind_pattern State.src_ok => State.src s c m a

theorem State.pushWord_ok (s : State) (m : Member) (v : Word) (ready dep : Nat) : Ok s → Ok (State.pushWord s m v ready dep) := by
  unfold State.pushWord; grind (splits := 40) -lia -linarith -ring -order
scoped grind_pattern State.pushWord_ok => State.pushWord s m v ready dep

theorem State.result_ok (s : State) (c : Cur) (m : Member) (n : Bool) (d : BitVec 7) (v : Word) (lat after dep : Nat) : Ok s → OkE (State.result s c m n d v lat after dep) := by
  unfold State.result; grind (splits := 40) -lia -linarith -ring -order
scoped grind_pattern State.result_ok => State.result s c m n d v lat after dep

theorem State.result64_ok (s : State) (c : Cur) (m : Member) (n : Bool) (d : BitVec 7) (v : Dword) (lat after dep : Nat) : Ok s → OkE (State.result64 s c m n d v lat after dep) := by
  unfold State.result64; grind (splits := 40) -lia -linarith -ring -order
scoped grind_pattern State.result64_ok => State.result64 s c m n d v lat after dep

theorem State.putReg_ok (s : State) (c : Cur) (m : Member) (d : Nat) (v : Word) (lat dep : Nat) : Ok s → Ok (State.putReg s c m d v lat dep) := by
  unfold State.putReg; grind (splits := 40) -lia -linarith -ring -order
scoped grind_pattern State.putReg_ok => State.putReg s c m d v lat dep

theorem State.putPred_ok (s : State) (c : Cur) (m : Member) (i : Nat) (v : Bool) (lat after dep : Nat) : Ok s → Ok (State.putPred s c m i v lat after dep) := by
  unfold State.putPred; grind (splits := 40) -lia -linarith -ring -order
scoped grind_pattern State.putPred_ok => State.putPred s c m i v lat after dep

theorem State.upd_ok (s : State) (c : Cur) (m : Member) (f : Member → Member) : Ok s → Ok (State.upd s c m f) := by
  unfold State.upd; grind (splits := 40) -lia -linarith -ring -order
scoped grind_pattern State.upd_ok => State.upd s c m f

theorem State.addMop_ok (s : State) (wg t : Nat) (m : MOp) : Ok s → Ok (State.addMop s wg t m) := by
  unfold State.addMop; grind (splits := 40) -lia -linarith -ring -order
scoped grind_pattern State.addMop_ok => State.addMop s wg t m

theorem op1_ok (lat : Nat) (n : Bool) (d a : BitVec 7) (f : Word → Word) (s : State) (c : Cur) (m : Member) : Ok s → OkE (op1 lat n d a f s c m) := by
  unfold op1; grind (splits := 40) -lia -linarith -ring -order
scoped grind_pattern op1_ok => op1 lat n d a f s c m

theorem op2_ok (lat : Nat) (n : Bool) (d a b : BitVec 7) (f : Word → Word → Word) (s : State) (c : Cur) (m : Member) : Ok s → OkE (op2 lat n d a b f s c m) := by
  unfold op2; grind (splits := 40) -lia -linarith -ring -order
scoped grind_pattern op2_ok => op2 lat n d a b f s c m

theorem op3_ok (lat : Nat) (n : Bool) (d a b : BitVec 7) (f : Word → Word → Word → Word) (s : State) (c : Cur) (m : Member) : Ok s → OkE (op3 lat n d a b f s c m) := by
  unfold op3; grind (splits := 40) -lia -linarith -ring -order
scoped grind_pattern op3_ok => op3 lat n d a b f s c m

/-! ## Flags -/

theorem State.raiseFlags_ok (s : State) (c : Cur) (m : Member) (lat after : Nat) (f : Flags) : Ok s → Ok (State.raiseFlags s c m lat after f) := by
  unfold State.raiseFlags; grind (splits := 40) -lia -linarith -ring -order
scoped grind_pattern State.raiseFlags_ok => State.raiseFlags s c m lat after f

theorem fop1_ok (lat : Nat) (n : Bool) (d a : BitVec 7) (f : Word → Word × Flags) (s : State) (c : Cur) (m : Member) : Ok s → OkE (fop1 lat n d a f s c m) := by
  unfold fop1; grind (splits := 40) -lia -linarith -ring -order
scoped grind_pattern fop1_ok => fop1 lat n d a f s c m

theorem fop2_ok (lat : Nat) (n : Bool) (d a b : BitVec 7) (f : Word → Word → Word × Flags) (s : State) (c : Cur) (m : Member) : Ok s → OkE (fop2 lat n d a b f s c m) := by
  unfold fop2; grind (splits := 40) -lia -linarith -ring -order
scoped grind_pattern fop2_ok => fop2 lat n d a b f s c m

theorem fop3_ok (lat : Nat) (n : Bool) (d a b : BitVec 7) (f : Word → Word → Word → Word × Flags) (s : State) (c : Cur) (m : Member) : Ok s → OkE (fop3 lat n d a b f s c m) := by
  unfold fop3; grind (splits := 40) -lia -linarith -ring -order
scoped grind_pattern fop3_ok => fop3 lat n d a b f s c m

/-! ## Issue -/

theorem State.codeRead_ok (s : State) (core ia n : Nat) : Ok s → OkEP (State.codeRead s core ia n) := by
  unfold State.codeRead; grind (splits := 40) -lia -linarith -ring -order
scoped grind_pattern State.codeRead_ok => State.codeRead s core ia n

theorem State.fillCode_ok (s : State) (core tag : Nat) (tail : Option Nat) : Ok s → OkEP (State.fillCode s core tag tail) := by
  unfold State.fillCode; grind (splits := 40) -lia -linarith -ring -order
scoped grind_pattern State.fillCode_ok => State.fillCode s core tag tail

theorem State.fetchPacket_ok (s : State) (core : Nat) (ias : List Nat) : Ok s → OkF (State.fetchPacket s core ias) := by
  unfold State.fetchPacket; grind (splits := 40) -lia -linarith -ring -order
scoped grind_pattern State.fetchPacket_ok => State.fetchPacket s core ias

theorem State.fetchFor_ok (s : State) (core wg t : Nat) : Ok s → Ok (State.fetchFor s core wg t) := by
  unfold State.fetchFor; grind (splits := 40) -lia -linarith -ring -order
scoped grind_pattern State.fetchFor_ok => State.fetchFor s core wg t

theorem State.noteAttempts_ok (s : State) (core : Nat) : Ok s → Ok (State.noteAttempts s core) := by
  unfold State.noteAttempts; grind (splits := 40) -lia -linarith -ring -order
scoped grind_pattern State.noteAttempts_ok => State.noteAttempts s core

theorem State.holdWord_ok (s : State) (core pkt pos : Nat) : Ok s → Ok (State.holdWord s core pkt pos) := by
  unfold State.holdWord; grind (splits := 40) -lia -linarith -ring -order
scoped grind_pattern State.holdWord_ok => State.holdWord s core pkt pos

theorem State.freeWord_ok (s : State) (core pkt pos : Nat) : Ok s → Ok (State.freeWord s core pkt pos) := by
  unfold State.freeWord; grind (splits := 40) -lia -linarith -ring -order
scoped grind_pattern State.freeWord_ok => State.freeWord s core pkt pos

theorem State.endHolds_ok (s : State) (xs : List Thread) : Ok s → Ok (State.endHolds s xs) := by
  unfold State.endHolds; grind (splits := 40) -lia -linarith -ring -order
scoped grind_pattern State.endHolds_ok => State.endHolds s xs

theorem State.beginTurn_ok (s : State) (core : Nat) (group : List (List Cand)) (window : List Cand) (xs : List Thread) : Ok s → Ok (State.beginTurn s core group window xs) := by
  unfold State.beginTurn; grind (splits := 40) -lia -linarith -ring -order
scoped grind_pattern State.beginTurn_ok => State.beginTurn s core group window xs

theorem State.clearStarve_ok (s : State) (core : Nat) (xs : List Thread) (window : List Cand) : Ok s → Ok (State.clearStarve s core xs window) := by
  unfold State.clearStarve; grind (splits := 40) -lia -linarith -ring -order
scoped grind_pattern State.clearStarve_ok => State.clearStarve s core xs window

theorem State.takeWindow_ok (s : State) (core : Nat) (x0 : List (Nat × List Thread)) : Ok s → Ok (State.takeWindow s core x0) := by
  fun_induction State.takeWindow s core x0 <;> grind (splits := 40) -lia -linarith -ring -order
scoped grind_pattern State.takeWindow_ok => State.takeWindow s core x0

theorem State.fetchCore_ok (s : State) (core : Nat) : Ok s → Ok (State.fetchCore s core) := by
  unfold State.fetchCore; grind (splits := 40) -lia -linarith -ring -order
scoped grind_pattern State.fetchCore_ok => State.fetchCore s core

theorem execIssueTurn_ok (core : Nat) (s : State) : Ok s → OkR (execIssueTurn core s) := by
  unfold execIssueTurn; grind (splits := 40) -lia -linarith -ring -order
scoped grind_pattern execIssueTurn_ok => execIssueTurn core s

theorem execRhizoidIssue_ok (stack pos : Nat) (s : State) : Ok s → OkR (execRhizoidIssue stack pos s) := by
  unfold execRhizoidIssue; grind (splits := 40) -lia -linarith -ring -order
scoped grind_pattern execRhizoidIssue_ok => execRhizoidIssue stack pos s

theorem State.startWrite_ok (s : State) (wg t n : Nat) (m : MOp) : Ok s → Ok (State.startWrite s wg t n m) := by
  unfold State.startWrite; grind (splits := 40) -lia -linarith -ring -order
scoped grind_pattern State.startWrite_ok => State.startWrite s wg t n m

theorem State.land_ok (s : State) (acts : List CycAct) (x0 : CycAct) : Ok s → Ok (State.land s acts x0) := by
  unfold State.land; grind (splits := 40) -lia -linarith -ring -order
scoped grind_pattern State.land_ok => State.land s acts x0

theorem State.endCycle_ok (s : State) (core : Nat) : Ok s → Ok (State.endCycle s core) := by
  unfold State.endCycle; grind (splits := 40) -lia -linarith -ring -order
scoped grind_pattern State.endCycle_ok => State.endCycle s core

theorem State.readFrame_ok (s : State) (core wg t fva : Nat) : Ok s → OkEP (State.readFrame s core wg t fva) := by
  unfold State.readFrame; grind (splits := 40) -lia -linarith -ring -order
scoped grind_pattern State.readFrame_ok => State.readFrame s core wg t fva

theorem State.finishTrapret_ok (s : State) (core : Nat) (p : Packet) (m : Member) : Ok s → Ok (State.finishTrapret s core p m) := by
  unfold State.finishTrapret; grind (splits := 40) -lia -linarith -ring -order
scoped grind_pattern State.finishTrapret_ok => State.finishTrapret s core p m

theorem State.takeWait_ok (s : State) (p : Packet) (m : Member) : Ok s → Ok (State.takeWait s p m) := by
  unfold State.takeWait; grind (splits := 40) -lia -linarith -ring -order
scoped grind_pattern State.takeWait_ok => State.takeWait s p m

theorem State.takeYield_ok (s : State) (m : Member) : Ok s → Ok (State.takeYield s m) := by
  unfold State.takeYield; grind (splits := 40) -lia -linarith -ring -order
scoped grind_pattern State.takeYield_ok => State.takeYield s m

theorem State.moveOn_ok (s : State) (core : Nat) (p : Packet) (m : Member) (exits : Bool) : Ok s → Ok (State.moveOn s core p m exits) := by
  unfold State.moveOn; grind (splits := 40) -lia -linarith -ring -order
scoped grind_pattern State.moveOn_ok => State.moveOn s core p m exits

theorem State.takeAsync_ok (s : State) (wg t : Nat) : Ok s → Ok (State.takeAsync s wg t) := by
  unfold State.takeAsync; grind (splits := 40) -lia -linarith -ring -order
scoped grind_pattern State.takeAsync_ok => State.takeAsync s wg t

theorem State.takeMemberFault_ok (s : State) (p : Packet) (m : Member) (a : Async) : Ok s → Ok (State.takeMemberFault s p m a) := by
  unfold State.takeMemberFault; grind (splits := 40) -lia -linarith -ring -order
scoped grind_pattern State.takeMemberFault_ok => State.takeMemberFault s p m a

theorem State.finishMember_ok (s : State) (core : Nat) (p : Packet) (m : Member) : Ok s → Ok (State.finishMember s core p m) := by
  unfold State.finishMember; grind (splits := 40) -lia -linarith -ring -order
scoped grind_pattern State.finishMember_ok => State.finishMember s core p m

theorem State.checkBounds_ok (s : State) (ms : List Member) : Ok s → Ok (State.checkBounds s ms) := by
  unfold State.checkBounds; grind (splits := 40) -lia -linarith -ring -order
scoped grind_pattern State.checkBounds_ok => State.checkBounds s ms

theorem State.endPacket_ok (s : State) (core pkt : Nat) : Ok s → Ok (State.endPacket s core pkt) := by
  unfold State.endPacket; grind (splits := 40) -lia -linarith -ring -order
scoped grind_pattern State.endPacket_ok => State.endPacket s core pkt

theorem State.endTurn_ok (s : State) (core : Nat) : Ok s → Ok (State.endTurn s core) := by
  unfold State.endTurn; grind (splits := 40) -lia -linarith -ring -order
scoped grind_pattern State.endTurn_ok => State.endTurn s core

theorem badWord_ok (s : State) : Ok s → Ok (badWord s) := by
  unfold badWord; grind (splits := 40) -lia -linarith -ring -order
scoped grind_pattern badWord_ok => badWord s

end Sys2Proof.Laws.MemOk
end

