-- ==== Sys2Proof/Laws/MemOkCore.lean ====
section
/-! SUPPORT. What keeps the memories well formed (`State.memOk`): one lemma for each operation and each meaning of
the words of a core, the graph walker, the scheduler and the cluster engines. With
`open Sys2Proof.Laws.MemOk` the lemmas are patterns of `grind` as well. -/

namespace Sys2Proof.Laws.MemOk
set_option Elab.async false
open Sys2Proof Sys2Proof.Machine Sys2Proof.Machine.Num

/-! ## Integer -/

theorem op0_ok (lat : Nat) (n : Bool) (d : BitVec 7) (r : Word) (s : State) (c : Cur) (m : Member) : Ok s → OkE (op0 lat n d r s c m) := by
  unfold op0; grind (splits := 40) -lia -linarith -ring -order
scoped grind_pattern op0_ok => op0 lat n d r s c m

theorem opCmp_ok (lat : Nat) (o : OpCP) (f : Word → Word → Bool) (s : State) (c : Cur) (m : Member) : Ok s → OkE (opCmp lat o f s c m) := by
  unfold opCmp; grind (splits := 40) -lia -linarith -ring -order
scoped grind_pattern opCmp_ok => opCmp lat o f s c m

theorem opIadd64_ok (o : OpRR) (s : State) (c : Cur) (m : Member) : Ok s → OkE (opIadd64 o s c m) := by
  unfold opIadd64; grind (splits := 40) -lia -linarith -ring -order
scoped grind_pattern opIadd64_ok => opIadd64 o s c m

theorem opAddx64_ok (o : OpRR) (s : State) (c : Cur) (m : Member) : Ok s → OkE (opAddx64 o s c m) := by
  unfold opAddx64; grind (splits := 40) -lia -linarith -ring -order
scoped grind_pattern opAddx64_ok => opAddx64 o s c m

theorem opSel_ok (h : Hdr) (o : OpRR) (s : State) (c : Cur) (m : Member) : Ok s → OkE (opSel h o s c m) := by
  unfold opSel; grind (splits := 40) -lia -linarith -ring -order
scoped grind_pattern opSel_ok => opSel h o s c m

theorem opPlop_ok (o : OpPL) (s : State) (c : Cur) (m : Member) : Ok s → OkE (opPlop o s c m) := by
  unfold opPlop; grind (splits := 40) -lia -linarith -ring -order
scoped grind_pattern opPlop_ok => opPlop o s c m

theorem opV2p_ok (o : OpA) (s : State) (c : Cur) (m : Member) : Ok s → OkE (opV2p o s c m) := by
  unfold opV2p; grind (splits := 40) -lia -linarith -ring -order
scoped grind_pattern opV2p_ok => opV2p o s c m

theorem execIadd_ok (h : Hdr) (o : OpRR) (s : State) : Ok s → OkR (execIadd h o s) := by
  unfold execIadd; grind (splits := 40) -lia -linarith -ring -order
scoped grind_pattern execIadd_ok => execIadd h o s

theorem execIsub_ok (h : Hdr) (o : OpRR) (s : State) : Ok s → OkR (execIsub h o s) := by
  unfold execIsub; grind (splits := 40) -lia -linarith -ring -order
scoped grind_pattern execIsub_ok => execIsub h o s

theorem execImul_ok (h : Hdr) (o : OpRR) (s : State) : Ok s → OkR (execImul h o s) := by
  unfold execImul; grind (splits := 40) -lia -linarith -ring -order
scoped grind_pattern execImul_ok => execImul h o s

theorem execImulhiI_ok (h : Hdr) (o : OpRR) (s : State) : Ok s → OkR (execImulhiI h o s) := by
  unfold execImulhiI; grind (splits := 40) -lia -linarith -ring -order
scoped grind_pattern execImulhiI_ok => execImulhiI h o s

theorem execImulhiN_ok (h : Hdr) (o : OpRR) (s : State) : Ok s → OkR (execImulhiN h o s) := by
  unfold execImulhiN; grind (splits := 40) -lia -linarith -ring -order
scoped grind_pattern execImulhiN_ok => execImulhiN h o s

theorem execIminI_ok (h : Hdr) (o : OpRR) (s : State) : Ok s → OkR (execIminI h o s) := by
  unfold execIminI; grind (splits := 40) -lia -linarith -ring -order
scoped grind_pattern execIminI_ok => execIminI h o s

theorem execImaxI_ok (h : Hdr) (o : OpRR) (s : State) : Ok s → OkR (execImaxI h o s) := by
  unfold execImaxI; grind (splits := 40) -lia -linarith -ring -order
scoped grind_pattern execImaxI_ok => execImaxI h o s

theorem execIminN_ok (h : Hdr) (o : OpRR) (s : State) : Ok s → OkR (execIminN h o s) := by
  unfold execIminN; grind (splits := 40) -lia -linarith -ring -order
scoped grind_pattern execIminN_ok => execIminN h o s

theorem execImaxN_ok (h : Hdr) (o : OpRR) (s : State) : Ok s → OkR (execImaxN h o s) := by
  unfold execImaxN; grind (splits := 40) -lia -linarith -ring -order
scoped grind_pattern execImaxN_ok => execImaxN h o s

theorem execLand_ok (h : Hdr) (o : OpRR) (s : State) : Ok s → OkR (execLand h o s) := by
  unfold execLand; grind (splits := 40) -lia -linarith -ring -order
scoped grind_pattern execLand_ok => execLand h o s

theorem execLor_ok (h : Hdr) (o : OpRR) (s : State) : Ok s → OkR (execLor h o s) := by
  unfold execLor; grind (splits := 40) -lia -linarith -ring -order
scoped grind_pattern execLor_ok => execLor h o s

theorem execLxor_ok (h : Hdr) (o : OpRR) (s : State) : Ok s → OkR (execLxor h o s) := by
  unfold execLxor; grind (splits := 40) -lia -linarith -ring -order
scoped grind_pattern execLxor_ok => execLxor h o s

theorem execShl_ok (h : Hdr) (o : OpRR) (s : State) : Ok s → OkR (execShl h o s) := by
  unfold execShl; grind (splits := 40) -lia -linarith -ring -order
scoped grind_pattern execShl_ok => execShl h o s

theorem execShr_ok (h : Hdr) (o : OpRR) (s : State) : Ok s → OkR (execShr h o s) := by
  unfold execShr; grind (splits := 40) -lia -linarith -ring -order
scoped grind_pattern execShr_ok => execShr h o s

theorem execSar_ok (h : Hdr) (o : OpRR) (s : State) : Ok s → OkR (execSar h o s) := by
  unfold execSar; grind (splits := 40) -lia -linarith -ring -order
scoped grind_pattern execSar_ok => execSar h o s

theorem execImad_ok (h : Hdr) (o : OpRRD) (s : State) : Ok s → OkR (execImad h o s) := by
  unfold execImad; grind (splits := 40) -lia -linarith -ring -order
scoped grind_pattern execImad_ok => execImad h o s

theorem execIaddi_ok (h : Hdr) (o : OpRI) (s : State) : Ok s → OkR (execIaddi h o s) := by
  unfold execIaddi; grind (splits := 40) -lia -linarith -ring -order
scoped grind_pattern execIaddi_ok => execIaddi h o s

theorem execAndi_ok (h : Hdr) (o : OpRI) (s : State) : Ok s → OkR (execAndi h o s) := by
  unfold execAndi; grind (splits := 40) -lia -linarith -ring -order
scoped grind_pattern execAndi_ok => execAndi h o s

theorem execOri_ok (h : Hdr) (o : OpRI) (s : State) : Ok s → OkR (execOri h o s) := by
  unfold execOri; grind (splits := 40) -lia -linarith -ring -order
scoped grind_pattern execOri_ok => execOri h o s

theorem execXori_ok (h : Hdr) (o : OpRI) (s : State) : Ok s → OkR (execXori h o s) := by
  unfold execXori; grind (splits := 40) -lia -linarith -ring -order
scoped grind_pattern execXori_ok => execXori h o s

theorem execShli_ok (h : Hdr) (o : OpSh) (s : State) : Ok s → OkR (execShli h o s) := by
  unfold execShli; grind (splits := 40) -lia -linarith -ring -order
scoped grind_pattern execShli_ok => execShli h o s

theorem execShri_ok (h : Hdr) (o : OpSh) (s : State) : Ok s → OkR (execShri h o s) := by
  unfold execShri; grind (splits := 40) -lia -linarith -ring -order
scoped grind_pattern execShri_ok => execShri h o s

theorem execSari_ok (h : Hdr) (o : OpSh) (s : State) : Ok s → OkR (execSari h o s) := by
  unfold execSari; grind (splits := 40) -lia -linarith -ring -order
scoped grind_pattern execSari_ok => execSari h o s

theorem execMovi_ok (h : Hdr) (o : OpI14) (s : State) : Ok s → OkR (execMovi h o s) := by
  unfold execMovi; grind (splits := 40) -lia -linarith -ring -order
scoped grind_pattern execMovi_ok => execMovi h o s

theorem execIadd64_ok (h : Hdr) (o : OpRR) (s : State) : Ok s → OkR (execIadd64 h o s) := by
  unfold execIadd64; grind (splits := 40) -lia -linarith -ring -order
scoped grind_pattern execIadd64_ok => execIadd64 h o s

theorem execAddx64_ok (h : Hdr) (o : OpRR) (s : State) : Ok s → OkR (execAddx64 h o s) := by
  unfold execAddx64; grind (splits := 40) -lia -linarith -ring -order
scoped grind_pattern execAddx64_ok => execAddx64 h o s

theorem execIsetpI_ok (h : Hdr) (o : OpCP) (s : State) : Ok s → OkR (execIsetpI h o s) := by
  unfold execIsetpI; grind (splits := 40) -lia -linarith -ring -order
scoped grind_pattern execIsetpI_ok => execIsetpI h o s

theorem execIsetpN_ok (h : Hdr) (o : OpCP) (s : State) : Ok s → OkR (execIsetpN h o s) := by
  unfold execIsetpN; grind (splits := 40) -lia -linarith -ring -order
scoped grind_pattern execIsetpN_ok => execIsetpN h o s

theorem execSel_ok (h : Hdr) (o : OpRR) (s : State) : Ok s → OkR (execSel h o s) := by
  unfold execSel; grind (splits := 40) -lia -linarith -ring -order
scoped grind_pattern execSel_ok => execSel h o s

theorem execPlop_ok (h : Hdr) (o : OpPL) (s : State) : Ok s → OkR (execPlop h o s) := by
  unfold execPlop; grind (splits := 40) -lia -linarith -ring -order
scoped grind_pattern execPlop_ok => execPlop h o s

theorem execP2v_ok (h : Hdr) (o : OpND) (s : State) : Ok s → OkR (execP2v h o s) := by
  unfold execP2v; grind (splits := 40) -lia -linarith -ring -order
scoped grind_pattern execP2v_ok => execP2v h o s

theorem execV2p_ok (h : Hdr) (o : OpA) (s : State) : Ok s → OkR (execV2p h o s) := by
  unfold execV2p; grind (splits := 40) -lia -linarith -ring -order
scoped grind_pattern execV2p_ok => execV2p h o s

theorem execPopc_ok (h : Hdr) (o : OpRF) (s : State) : Ok s → OkR (execPopc h o s) := by
  unfold execPopc; grind (splits := 40) -lia -linarith -ring -order
scoped grind_pattern execPopc_ok => execPopc h o s

theorem execClz_ok (h : Hdr) (o : OpRF) (s : State) : Ok s → OkR (execClz h o s) := by
  unfold execClz; grind (splits := 40) -lia -linarith -ring -order
scoped grind_pattern execClz_ok => execClz h o s

theorem execBrev_ok (h : Hdr) (o : OpRF) (s : State) : Ok s → OkR (execBrev h o s) := by
  unfold execBrev; grind (splits := 40) -lia -linarith -ring -order
scoped grind_pattern execBrev_ok => execBrev h o s

theorem execCtz_ok (h : Hdr) (o : OpRF) (s : State) : Ok s → OkR (execCtz h o s) := by
  unfold execCtz; grind (splits := 40) -lia -linarith -ring -order
scoped grind_pattern execCtz_ok => execCtz h o s

theorem execLnot_ok (h : Hdr) (o : OpRF) (s : State) : Ok s → OkR (execLnot h o s) := by
  unfold execLnot; grind (splits := 40) -lia -linarith -ring -order
scoped grind_pattern execLnot_ok => execLnot h o s

theorem execNeg_ok (h : Hdr) (o : OpRF) (s : State) : Ok s → OkR (execNeg h o s) := by
  unfold execNeg; grind (splits := 40) -lia -linarith -ring -order
scoped grind_pattern execNeg_ok => execNeg h o s

theorem execAbs_ok (h : Hdr) (o : OpRF) (s : State) : Ok s → OkR (execAbs h o s) := by
  unfold execAbs; grind (splits := 40) -lia -linarith -ring -order
scoped grind_pattern execAbs_ok => execAbs h o s

theorem execBswz_ok (h : Hdr) (o : OpRRD) (s : State) : Ok s → OkR (execBswz h o s) := by
  unfold execBswz; grind (splits := 40) -lia -linarith -ring -order
scoped grind_pattern execBswz_ok => execBswz h o s

/-! ## Float -/

theorem opMinmax_ok (f : Fmt) (o : OpRR) (s : State) (c : Cur) (m : Member) : Ok s → OkE (opMinmax f o s c m) := by
  unfold opMinmax; grind (splits := 40) -lia -linarith -ring -order
scoped grind_pattern opMinmax_ok => opMinmax f o s c m

theorem opGqcvtQ_ok (o : OpRR) (s : State) (c : Cur) (m : Member) : Ok s → OkE (opGqcvtQ o s c m) := by
  unfold opGqcvtQ; grind (splits := 40) -lia -linarith -ring -order
scoped grind_pattern opGqcvtQ_ok => opGqcvtQ o s c m

theorem opGqcvtF_ok (o : OpRR) (s : State) (c : Cur) (m : Member) : Ok s → OkE (opGqcvtF o s c m) := by
  unfold opGqcvtF; grind (splits := 40) -lia -linarith -ring -order
scoped grind_pattern opGqcvtF_ok => opGqcvtF o s c m

theorem execFadd_ok (h : Hdr) (o : OpRR) (s : State) : Ok s → OkR (execFadd h o s) := by
  unfold execFadd; grind (splits := 40) -lia -linarith -ring -order
scoped grind_pattern execFadd_ok => execFadd h o s

theorem execFsub_ok (h : Hdr) (o : OpRR) (s : State) : Ok s → OkR (execFsub h o s) := by
  unfold execFsub; grind (splits := 40) -lia -linarith -ring -order
scoped grind_pattern execFsub_ok => execFsub h o s

theorem execFmul_ok (h : Hdr) (o : OpRR) (s : State) : Ok s → OkR (execFmul h o s) := by
  unfold execFmul; grind (splits := 40) -lia -linarith -ring -order
scoped grind_pattern execFmul_ok => execFmul h o s

theorem execFmin_ok (h : Hdr) (o : OpRR) (s : State) : Ok s → OkR (execFmin h o s) := by
  unfold execFmin; grind (splits := 40) -lia -linarith -ring -order
scoped grind_pattern execFmin_ok => execFmin h o s

theorem execFmax_ok (h : Hdr) (o : OpRR) (s : State) : Ok s → OkR (execFmax h o s) := by
  unfold execFmax; grind (splits := 40) -lia -linarith -ring -order
scoped grind_pattern execFmax_ok => execFmax h o s

theorem execFdiv_ok (h : Hdr) (o : OpRR) (s : State) : Ok s → OkR (execFdiv h o s) := by
  unfold execFdiv; grind (splits := 40) -lia -linarith -ring -order
scoped grind_pattern execFdiv_ok => execFdiv h o s

theorem execFfma_ok (h : Hdr) (o : OpRRD) (s : State) : Ok s → OkR (execFfma h o s) := by
  unfold execFfma; grind (splits := 40) -lia -linarith -ring -order
scoped grind_pattern execFfma_ok => execFfma h o s

theorem execFsetp_ok (h : Hdr) (o : OpCP) (s : State) : Ok s → OkR (execFsetp h o s) := by
  unfold execFsetp; grind (splits := 40) -lia -linarith -ring -order
scoped grind_pattern execFsetp_ok => execFsetp h o s

theorem execFabs_ok (h : Hdr) (o : OpRF) (s : State) : Ok s → OkR (execFabs h o s) := by
  unfold execFabs; grind (splits := 40) -lia -linarith -ring -order
scoped grind_pattern execFabs_ok => execFabs h o s

theorem execFneg_ok (h : Hdr) (o : OpRF) (s : State) : Ok s → OkR (execFneg h o s) := by
  unfold execFneg; grind (splits := 40) -lia -linarith -ring -order
scoped grind_pattern execFneg_ok => execFneg h o s

theorem execFfloor_ok (h : Hdr) (o : OpRF) (s : State) : Ok s → OkR (execFfloor h o s) := by
  unfold execFfloor; grind (splits := 40) -lia -linarith -ring -order
scoped grind_pattern execFfloor_ok => execFfloor h o s

theorem execFceil_ok (h : Hdr) (o : OpRF) (s : State) : Ok s → OkR (execFceil h o s) := by
  unfold execFceil; grind (splits := 40) -lia -linarith -ring -order
scoped grind_pattern execFceil_ok => execFceil h o s

theorem execFtrunc_ok (h : Hdr) (o : OpRF) (s : State) : Ok s → OkR (execFtrunc h o s) := by
  unfold execFtrunc; grind (splits := 40) -lia -linarith -ring -order
scoped grind_pattern execFtrunc_ok => execFtrunc h o s

theorem execFrint_ok (h : Hdr) (o : OpRF) (s : State) : Ok s → OkR (execFrint h o s) := by
  unfold execFrint; grind (splits := 40) -lia -linarith -ring -order
scoped grind_pattern execFrint_ok => execFrint h o s

theorem execHadd2Bf16_ok (h : Hdr) (o : OpRR) (s : State) : Ok s → OkR (execHadd2Bf16 h o s) := by
  unfold execHadd2Bf16; grind (splits := 40) -lia -linarith -ring -order
scoped grind_pattern execHadd2Bf16_ok => execHadd2Bf16 h o s

theorem execHadd2F16_ok (h : Hdr) (o : OpRR) (s : State) : Ok s → OkR (execHadd2F16 h o s) := by
  unfold execHadd2F16; grind (splits := 40) -lia -linarith -ring -order
scoped grind_pattern execHadd2F16_ok => execHadd2F16 h o s

theorem execHmul2Bf16_ok (h : Hdr) (o : OpRR) (s : State) : Ok s → OkR (execHmul2Bf16 h o s) := by
  unfold execHmul2Bf16; grind (splits := 40) -lia -linarith -ring -order
scoped grind_pattern execHmul2Bf16_ok => execHmul2Bf16 h o s

theorem execHmul2F16_ok (h : Hdr) (o : OpRR) (s : State) : Ok s → OkR (execHmul2F16 h o s) := by
  unfold execHmul2F16; grind (splits := 40) -lia -linarith -ring -order
scoped grind_pattern execHmul2F16_ok => execHmul2F16 h o s

theorem execHfma2Bf16_ok (h : Hdr) (o : OpRRD) (s : State) : Ok s → OkR (execHfma2Bf16 h o s) := by
  unfold execHfma2Bf16; grind (splits := 40) -lia -linarith -ring -order
scoped grind_pattern execHfma2Bf16_ok => execHfma2Bf16 h o s

theorem execHfma2F16_ok (h : Hdr) (o : OpRRD) (s : State) : Ok s → OkR (execHfma2F16 h o s) := by
  unfold execHfma2F16; grind (splits := 40) -lia -linarith -ring -order
scoped grind_pattern execHfma2F16_ok => execHfma2F16 h o s

theorem execHminmax2Bf16_ok (h : Hdr) (o : OpRR) (s : State) : Ok s → OkR (execHminmax2Bf16 h o s) := by
  unfold execHminmax2Bf16; grind (splits := 40) -lia -linarith -ring -order
scoped grind_pattern execHminmax2Bf16_ok => execHminmax2Bf16 h o s

theorem execHminmax2F16_ok (h : Hdr) (o : OpRR) (s : State) : Ok s → OkR (execHminmax2F16 h o s) := by
  unfold execHminmax2F16; grind (splits := 40) -lia -linarith -ring -order
scoped grind_pattern execHminmax2F16_ok => execHminmax2F16 h o s

theorem execCvt_ok (h : Hdr) (o : OpCvt) (s : State) : Ok s → OkR (execCvt h o s) := by
  unfold execCvt; grind (splits := 40) -lia -linarith -ring -order
scoped grind_pattern execCvt_ok => execCvt h o s

theorem execGqcvtQ_ok (h : Hdr) (o : OpRR) (s : State) : Ok s → OkR (execGqcvtQ h o s) := by
  unfold execGqcvtQ; grind (splits := 40) -lia -linarith -ring -order
scoped grind_pattern execGqcvtQ_ok => execGqcvtQ h o s

theorem execGqcvtF_ok (h : Hdr) (o : OpRR) (s : State) : Ok s → OkR (execGqcvtF h o s) := by
  unfold execGqcvtF; grind (splits := 40) -lia -linarith -ring -order
scoped grind_pattern execGqcvtF_ok => execGqcvtF h o s

theorem execRcp_ok (h : Hdr) (o : OpRF) (s : State) : Ok s → OkR (execRcp h o s) := by
  unfold execRcp; grind (splits := 40) -lia -linarith -ring -order
scoped grind_pattern execRcp_ok => execRcp h o s

theorem execRsqrt_ok (h : Hdr) (o : OpRF) (s : State) : Ok s → OkR (execRsqrt h o s) := by
  unfold execRsqrt; grind (splits := 40) -lia -linarith -ring -order
scoped grind_pattern execRsqrt_ok => execRsqrt h o s

theorem execSqrt_ok (h : Hdr) (o : OpRF) (s : State) : Ok s → OkR (execSqrt h o s) := by
  unfold execSqrt; grind (splits := 40) -lia -linarith -ring -order
scoped grind_pattern execSqrt_ok => execSqrt h o s

theorem execEx2_ok (h : Hdr) (o : OpRF) (s : State) : Ok s → OkR (execEx2 h o s) := by
  unfold execEx2; grind (splits := 40) -lia -linarith -ring -order
scoped grind_pattern execEx2_ok => execEx2 h o s

theorem execLg2_ok (h : Hdr) (o : OpRF) (s : State) : Ok s → OkR (execLg2 h o s) := by
  unfold execLg2; grind (splits := 40) -lia -linarith -ring -order
scoped grind_pattern execLg2_ok => execLg2 h o s

theorem execSin_ok (h : Hdr) (o : OpRF) (s : State) : Ok s → OkR (execSin h o s) := by
  unfold execSin; grind (splits := 40) -lia -linarith -ring -order
scoped grind_pattern execSin_ok => execSin h o s

theorem execCos_ok (h : Hdr) (o : OpRF) (s : State) : Ok s → OkR (execCos h o s) := by
  unfold execCos; grind (splits := 40) -lia -linarith -ring -order
scoped grind_pattern execCos_ok => execCos h o s

theorem execTanh_ok (h : Hdr) (o : OpRF) (s : State) : Ok s → OkR (execTanh h o s) := by
  unfold execTanh; grind (splits := 40) -lia -linarith -ring -order
scoped grind_pattern execTanh_ok => execTanh h o s

/-! ## Cross -/

theorem readAll_ok {α : Type} (c : Cur) (f : State → Member → Lane (State × α)) (x0 : List (Nat × Member)) (x1 : State) : (∀ (y0 : State) (y1 : Member), Ok y0 → OkEP (f y0 y1)) → Ok x1 → Ok (readAll c f x0 x1).1 := by
  fun_induction readAll c f x0 x1 <;> grind (splits := 40) -lia -linarith -ring -order
scoped grind_pattern readAll_ok => readAll c f x0 x1

theorem putAll_ok {α : Type} (c : Cur) (f : State → Seat α → Lane State) (x0 : List (Seat α)) (x1 : State) : (∀ (y0 : State) (y1 : Seat α), Ok y0 → OkE (f y0 y1)) → Ok x1 → Ok (putAll c f x0 x1) := by
  fun_induction putAll c f x0 x1 <;> grind (splits := 40) -lia -linarith -ring -order
scoped grind_pattern putAll_ok => putAll c f x0 x1

theorem doShfl_ok (f : Shfl) (o : OpRR) (s : State) (c : Cur) (live : List (Nat × Member)) : Ok s → Ok (doShfl f o s c live) := by
  unfold doShfl; grind (splits := 40) -lia -linarith -ring -order
scoped grind_pattern doShfl_ok => doShfl f o s c live

theorem readA_ok (a : BitVec 7) (s : State) (c : Cur) (live : List (Nat × Member)) : Ok s → Ok (readA a s c live).1 := by
  unfold readA; grind (splits := 40) -lia -linarith -ring -order
scoped grind_pattern readA_ok => readA a s c live

theorem doVoteP_ok (all : Bool) (o : OpVoteP) (s : State) (c : Cur) (live : List (Nat × Member)) : Ok s → Ok (doVoteP all o s c live) := by
  unfold doVoteP; grind (splits := 40) -lia -linarith -ring -order
scoped grind_pattern doVoteP_ok => doVoteP all o s c live

theorem doBallot_ok (o : OpVoteB) (s : State) (c : Cur) (live : List (Nat × Member)) : Ok s → Ok (doBallot o s c live) := by
  unfold doBallot; grind (splits := 40) -lia -linarith -ring -order
scoped grind_pattern doBallot_ok => doBallot o s c live

theorem doVoteEq_ok (o : OpVoteE) (s : State) (c : Cur) (live : List (Nat × Member)) : Ok s → Ok (doVoteEq o s c live) := by
  unfold doVoteEq; grind (splits := 40) -lia -linarith -ring -order
scoped grind_pattern doVoteEq_ok => doVoteEq o s c live

theorem doRedux_ok (o : OpRF) (f : Word → Word → Word) (fin : Word → Word) (s : State) (c : Cur) (live : List (Nat × Member)) : Ok s → Ok (doRedux o f fin s c live) := by
  unfold doRedux; grind (splits := 40) -lia -linarith -ring -order
scoped grind_pattern doRedux_ok => doRedux o f fin s c live

theorem doHbfly_ok (o : OpHb) (s : State) (c : Cur) (live : List (Nat × Member)) : Ok s → Ok (doHbfly o s c live) := by
  unfold doHbfly; grind (splits := 40) -lia -linarith -ring -order
scoped grind_pattern doHbfly_ok => doHbfly o s c live

theorem doCbld_ok (o : OpA) (s : State) (c : Cur) (live : List (Nat × Member)) : Ok s → Ok (doCbld o s c live) := by
  unfold doCbld; grind (splits := 40) -lia -linarith -ring -order
scoped grind_pattern doCbld_ok => doCbld o s c live

theorem doQmap_ok (o : OpDA) (s : State) (c : Cur) (live : List (Nat × Member)) : Ok s → Ok (doQmap o s c live) := by
  unfold doQmap; grind (splits := 40) -lia -linarith -ring -order
scoped grind_pattern doQmap_ok => doQmap o s c live

theorem execShflIdx_ok (h : Hdr) (o : OpRR) (s : State) : Ok s → OkR (execShflIdx h o s) := by
  unfold execShflIdx; grind (splits := 40) -lia -linarith -ring -order
scoped grind_pattern execShflIdx_ok => execShflIdx h o s

theorem execShflXor_ok (h : Hdr) (o : OpRR) (s : State) : Ok s → OkR (execShflXor h o s) := by
  unfold execShflXor; grind (splits := 40) -lia -linarith -ring -order
scoped grind_pattern execShflXor_ok => execShflXor h o s

theorem execShflUp_ok (h : Hdr) (o : OpRR) (s : State) : Ok s → OkR (execShflUp h o s) := by
  unfold execShflUp; grind (splits := 40) -lia -linarith -ring -order
scoped grind_pattern execShflUp_ok => execShflUp h o s

theorem execShflDn_ok (h : Hdr) (o : OpRR) (s : State) : Ok s → OkR (execShflDn h o s) := by
  unfold execShflDn; grind (splits := 40) -lia -linarith -ring -order
scoped grind_pattern execShflDn_ok => execShflDn h o s

theorem execVoteAll_ok (h : Hdr) (o : OpVoteP) (s : State) : Ok s → OkR (execVoteAll h o s) := by
  unfold execVoteAll; grind (splits := 40) -lia -linarith -ring -order
scoped grind_pattern execVoteAll_ok => execVoteAll h o s

theorem execVoteAny_ok (h : Hdr) (o : OpVoteP) (s : State) : Ok s → OkR (execVoteAny h o s) := by
  unfold execVoteAny; grind (splits := 40) -lia -linarith -ring -order
scoped grind_pattern execVoteAny_ok => execVoteAny h o s

theorem execVoteBallot_ok (h : Hdr) (o : OpVoteB) (s : State) : Ok s → OkR (execVoteBallot h o s) := by
  unfold execVoteBallot; grind (splits := 40) -lia -linarith -ring -order
scoped grind_pattern execVoteBallot_ok => execVoteBallot h o s

theorem execVoteEq_ok (h : Hdr) (o : OpVoteE) (s : State) : Ok s → OkR (execVoteEq h o s) := by
  unfold execVoteEq; grind (splits := 40) -lia -linarith -ring -order
scoped grind_pattern execVoteEq_ok => execVoteEq h o s

theorem execReduxAdd_ok (h : Hdr) (o : OpRF) (s : State) : Ok s → OkR (execReduxAdd h o s) := by
  unfold execReduxAdd; grind (splits := 40) -lia -linarith -ring -order
scoped grind_pattern execReduxAdd_ok => execReduxAdd h o s

theorem execReduxMinI_ok (h : Hdr) (o : OpRF) (s : State) : Ok s → OkR (execReduxMinI h o s) := by
  unfold execReduxMinI; grind (splits := 40) -lia -linarith -ring -order
scoped grind_pattern execReduxMinI_ok => execReduxMinI h o s

theorem execReduxMaxI_ok (h : Hdr) (o : OpRF) (s : State) : Ok s → OkR (execReduxMaxI h o s) := by
  unfold execReduxMaxI; grind (splits := 40) -lia -linarith -ring -order
scoped grind_pattern execReduxMaxI_ok => execReduxMaxI h o s

theorem execReduxMinN_ok (h : Hdr) (o : OpRF) (s : State) : Ok s → OkR (execReduxMinN h o s) := by
  unfold execReduxMinN; grind (splits := 40) -lia -linarith -ring -order
scoped grind_pattern execReduxMinN_ok => execReduxMinN h o s

theorem execReduxMaxN_ok (h : Hdr) (o : OpRF) (s : State) : Ok s → OkR (execReduxMaxN h o s) := by
  unfold execReduxMaxN; grind (splits := 40) -lia -linarith -ring -order
scoped grind_pattern execReduxMaxN_ok => execReduxMaxN h o s

theorem execReduxAnd_ok (h : Hdr) (o : OpRF) (s : State) : Ok s → OkR (execReduxAnd h o s) := by
  unfold execReduxAnd; grind (splits := 40) -lia -linarith -ring -order
scoped grind_pattern execReduxAnd_ok => execReduxAnd h o s

theorem execReduxOr_ok (h : Hdr) (o : OpRF) (s : State) : Ok s → OkR (execReduxOr h o s) := by
  unfold execReduxOr; grind (splits := 40) -lia -linarith -ring -order
scoped grind_pattern execReduxOr_ok => execReduxOr h o s

theorem execReduxXor_ok (h : Hdr) (o : OpRF) (s : State) : Ok s → OkR (execReduxXor h o s) := by
  unfold execReduxXor; grind (splits := 40) -lia -linarith -ring -order
scoped grind_pattern execReduxXor_ok => execReduxXor h o s

theorem execReduxFmin_ok (h : Hdr) (o : OpRF) (s : State) : Ok s → OkR (execReduxFmin h o s) := by
  unfold execReduxFmin; grind (splits := 40) -lia -linarith -ring -order
scoped grind_pattern execReduxFmin_ok => execReduxFmin h o s

theorem execReduxFmax_ok (h : Hdr) (o : OpRF) (s : State) : Ok s → OkR (execReduxFmax h o s) := by
  unfold execReduxFmax; grind (splits := 40) -lia -linarith -ring -order
scoped grind_pattern execReduxFmax_ok => execReduxFmax h o s

theorem execHbfly_ok (h : Hdr) (o : OpHb) (s : State) : Ok s → OkR (execHbfly h o s) := by
  unfold execHbfly; grind (splits := 40) -lia -linarith -ring -order
scoped grind_pattern execHbfly_ok => execHbfly h o s

theorem execUnpk_ok (h : Hdr) (o : OpUnpk) (s : State) : Ok s → OkR (execUnpk h o s) := by
  unfold execUnpk; grind (splits := 40) -lia -linarith -ring -order
scoped grind_pattern execUnpk_ok => execUnpk h o s

theorem execCbld_ok (h : Hdr) (o : OpA) (s : State) : Ok s → OkR (execCbld h o s) := by
  unfold execCbld; grind (splits := 40) -lia -linarith -ring -order
scoped grind_pattern execCbld_ok => execCbld h o s

theorem execQmap_ok (h : Hdr) (o : OpDA) (s : State) : Ok s → OkR (execQmap h o s) := by
  unfold execQmap; grind (splits := 40) -lia -linarith -ring -order
scoped grind_pattern execQmap_ok => execQmap h o s

theorem execClkrd_ok (h : Hdr) (o : OpD) (s : State) : Ok s → OkR (execClkrd h o s) := by
  unfold execClkrd; grind (splits := 40) -lia -linarith -ring -order
scoped grind_pattern execClkrd_ok => execClkrd h o s

/-! ## MemWords -/

theorem loadWord_ok (o : OpMA) (size : Nat) (signed : Bool) (s : State) (c : Cur) (m : Member) : Ok s → OkE (loadWord o size signed s c m) := by
  unfold loadWord; grind (splits := 40) -lia -linarith -ring -order
scoped grind_pattern loadWord_ok => loadWord o size signed s c m

theorem State.enqueue_ok (s : State) (m : Member) (e : SEntry) : Ok s → Ok (State.enqueue s m e) := by
  unfold State.enqueue; grind (splits := 40) -lia -linarith -ring -order
scoped grind_pattern State.enqueue_ok => State.enqueue s m e

theorem storeWord_ok (o : OpMA) (size : Nat) (s : State) (c : Cur) (m : Member) : Ok s → OkE (storeWord o size s c m) := by
  unfold storeWord; grind (splits := 40) -lia -linarith -ring -order
scoped grind_pattern storeWord_ok => storeWord o size s c m

theorem ldsWord_ok (o : OpS) (size : Nat) (s : State) (c : Cur) (m : Member) : Ok s → OkE (ldsWord o size s c m) := by
  unfold ldsWord; grind (splits := 40) -lia -linarith -ring -order
scoped grind_pattern ldsWord_ok => ldsWord o size s c m

theorem stsWord_ok (o : OpS) (size : Nat) (s : State) (c : Cur) (m : Member) : Ok s → OkE (stsWord o size s c m) := by
  unfold stsWord; grind (splits := 40) -lia -linarith -ring -order
scoped grind_pattern stsWord_ok => stsWord o size s c m

theorem prefetchWord_ok (o : OpPf) (s : State) (c : Cur) (m : Member) : Ok s → OkE (prefetchWord o s c m) := by
  unfold prefetchWord; grind (splits := 40) -lia -linarith -ring -order
scoped grind_pattern prefetchWord_ok => prefetchWord o s c m

theorem execLd8s_ok (h : Hdr) (o : OpMA) (s : State) : Ok s → OkR (execLd8s h o s) := by
  unfold execLd8s; grind (splits := 40) -lia -linarith -ring -order
scoped grind_pattern execLd8s_ok => execLd8s h o s

theorem execLd8z_ok (h : Hdr) (o : OpMA) (s : State) : Ok s → OkR (execLd8z h o s) := by
  unfold execLd8z; grind (splits := 40) -lia -linarith -ring -order
scoped grind_pattern execLd8z_ok => execLd8z h o s

theorem execLd16s_ok (h : Hdr) (o : OpMA) (s : State) : Ok s → OkR (execLd16s h o s) := by
  unfold execLd16s; grind (splits := 40) -lia -linarith -ring -order
scoped grind_pattern execLd16s_ok => execLd16s h o s

theorem execLd16z_ok (h : Hdr) (o : OpMA) (s : State) : Ok s → OkR (execLd16z h o s) := by
  unfold execLd16z; grind (splits := 40) -lia -linarith -ring -order
scoped grind_pattern execLd16z_ok => execLd16z h o s

theorem execLd32_ok (h : Hdr) (o : OpMA) (s : State) : Ok s → OkR (execLd32 h o s) := by
  unfold execLd32; grind (splits := 40) -lia -linarith -ring -order
scoped grind_pattern execLd32_ok => execLd32 h o s

theorem execLd64_ok (h : Hdr) (o : OpMA) (s : State) : Ok s → OkR (execLd64 h o s) := by
  unfold execLd64; grind (splits := 40) -lia -linarith -ring -order
scoped grind_pattern execLd64_ok => execLd64 h o s

theorem execLd128_ok (h : Hdr) (o : OpMA) (s : State) : Ok s → OkR (execLd128 h o s) := by
  unfold execLd128; grind (splits := 40) -lia -linarith -ring -order
scoped grind_pattern execLd128_ok => execLd128 h o s

theorem execSt8_ok (h : Hdr) (o : OpMA) (s : State) : Ok s → OkR (execSt8 h o s) := by
  unfold execSt8; grind (splits := 40) -lia -linarith -ring -order
scoped grind_pattern execSt8_ok => execSt8 h o s

theorem execSt16_ok (h : Hdr) (o : OpMA) (s : State) : Ok s → OkR (execSt16 h o s) := by
  unfold execSt16; grind (splits := 40) -lia -linarith -ring -order
scoped grind_pattern execSt16_ok => execSt16 h o s

theorem execSt32_ok (h : Hdr) (o : OpMA) (s : State) : Ok s → OkR (execSt32 h o s) := by
  unfold execSt32; grind (splits := 40) -lia -linarith -ring -order
scoped grind_pattern execSt32_ok => execSt32 h o s

theorem execSt64_ok (h : Hdr) (o : OpMA) (s : State) : Ok s → OkR (execSt64 h o s) := by
  unfold execSt64; grind (splits := 40) -lia -linarith -ring -order
scoped grind_pattern execSt64_ok => execSt64 h o s

theorem execSt128_ok (h : Hdr) (o : OpMA) (s : State) : Ok s → OkR (execSt128 h o s) := by
  unfold execSt128; grind (splits := 40) -lia -linarith -ring -order
scoped grind_pattern execSt128_ok => execSt128 h o s

theorem execLds32_ok (h : Hdr) (o : OpS) (s : State) : Ok s → OkR (execLds32 h o s) := by
  unfold execLds32; grind (splits := 40) -lia -linarith -ring -order
scoped grind_pattern execLds32_ok => execLds32 h o s

theorem execLds64_ok (h : Hdr) (o : OpS) (s : State) : Ok s → OkR (execLds64 h o s) := by
  unfold execLds64; grind (splits := 40) -lia -linarith -ring -order
scoped grind_pattern execLds64_ok => execLds64 h o s

theorem execLds128_ok (h : Hdr) (o : OpS) (s : State) : Ok s → OkR (execLds128 h o s) := by
  unfold execLds128; grind (splits := 40) -lia -linarith -ring -order
scoped grind_pattern execLds128_ok => execLds128 h o s

theorem execSts32_ok (h : Hdr) (o : OpS) (s : State) : Ok s → OkR (execSts32 h o s) := by
  unfold execSts32; grind (splits := 40) -lia -linarith -ring -order
scoped grind_pattern execSts32_ok => execSts32 h o s

theorem execSts64_ok (h : Hdr) (o : OpS) (s : State) : Ok s → OkR (execSts64 h o s) := by
  unfold execSts64; grind (splits := 40) -lia -linarith -ring -order
scoped grind_pattern execSts64_ok => execSts64 h o s

theorem execSts128_ok (h : Hdr) (o : OpS) (s : State) : Ok s → OkR (execSts128 h o s) := by
  unfold execSts128; grind (splits := 40) -lia -linarith -ring -order
scoped grind_pattern execSts128_ok => execSts128 h o s

theorem execPrefetch_ok (h : Hdr) (o : OpPf) (s : State) : Ok s → OkR (execPrefetch h o s) := by
  unfold execPrefetch; grind (splits := 40) -lia -linarith -ring -order
scoped grind_pattern execPrefetch_ok => execPrefetch h o s

/-! ## Atomic -/

theorem atomWord_ok (o : OpAT) (op n word : Nat) (s : State) (c : Cur) (m : Member) : Ok s → OkE (atomWord o op n word s c m) := by
  unfold atomWord; grind (splits := 40) -lia -linarith -ring -order
scoped grind_pattern atomWord_ok => atomWord o op n word s c m

theorem atomsWord_ok (o : OpATS) (op word : Nat) (s : State) (c : Cur) (m : Member) : Ok s → OkE (atomsWord o op word s c m) := by
  unfold atomsWord; grind (splits := 40) -lia -linarith -ring -order
scoped grind_pattern atomsWord_ok => atomsWord o op word s c m

theorem issueWord_ok (k : WKind) (h : Hdr) (ops : List Opn) (f : Nat → State → Cur → Member → Lane State) (s : State) : (∀ (y0 : Nat) (y1 : State) (y2 : Cur) (y3 : Member), Ok y1 → OkE (f y0 y1 y2 y3)) → Ok s → Ok (issueWord k h ops f s) := by
  unfold issueWord; grind (splits := 40) -lia -linarith -ring -order
scoped grind_pattern issueWord_ok => issueWord k h ops f s

theorem fenceWord_ok (kind scope word : Nat) (s : State) (c : Cur) (m : Member) : Ok s → OkE (fenceWord kind scope word s c m) := by
  unfold fenceWord; grind (splits := 40) -lia -linarith -ring -order
scoped grind_pattern fenceWord_ok => fenceWord kind scope word s c m

theorem doQfence_ok (o : OpA) (s : State) (c : Cur) (live : List (Nat × Member)) : Ok s → Ok (doQfence o s c live) := by
  unfold doQfence; grind (splits := 40) -lia -linarith -ring -order
scoped grind_pattern doQfence_ok => doQfence o s c live

theorem flushWord_ok (o : OpFlush) (word : Nat) (s : State) (c : Cur) (m : Member) : Ok s → OkE (flushWord o word s c m) := by
  unfold flushWord; grind (splits := 40) -lia -linarith -ring -order
scoped grind_pattern flushWord_ok => flushWord o word s c m

theorem cntaddWord_ok (o : OpCnt) (word : Nat) (s : State) (c : Cur) (m : Member) : Ok s → OkE (cntaddWord o word s c m) := by
  unfold cntaddWord; grind (splits := 40) -lia -linarith -ring -order
scoped grind_pattern cntaddWord_ok => cntaddWord o word s c m

theorem execAtom32Add_ok (h : Hdr) (o : OpAT) (s : State) : Ok s → OkR (execAtom32Add h o s) := by
  unfold execAtom32Add; grind (splits := 40) -lia -linarith -ring -order
scoped grind_pattern execAtom32Add_ok => execAtom32Add h o s

theorem execAtom32And_ok (h : Hdr) (o : OpAT) (s : State) : Ok s → OkR (execAtom32And h o s) := by
  unfold execAtom32And; grind (splits := 40) -lia -linarith -ring -order
scoped grind_pattern execAtom32And_ok => execAtom32And h o s

theorem execAtom32Or_ok (h : Hdr) (o : OpAT) (s : State) : Ok s → OkR (execAtom32Or h o s) := by
  unfold execAtom32Or; grind (splits := 40) -lia -linarith -ring -order
scoped grind_pattern execAtom32Or_ok => execAtom32Or h o s

theorem execAtom32Xor_ok (h : Hdr) (o : OpAT) (s : State) : Ok s → OkR (execAtom32Xor h o s) := by
  unfold execAtom32Xor; grind (splits := 40) -lia -linarith -ring -order
scoped grind_pattern execAtom32Xor_ok => execAtom32Xor h o s

theorem execAtom32MinI_ok (h : Hdr) (o : OpAT) (s : State) : Ok s → OkR (execAtom32MinI h o s) := by
  unfold execAtom32MinI; grind (splits := 40) -lia -linarith -ring -order
scoped grind_pattern execAtom32MinI_ok => execAtom32MinI h o s

theorem execAtom32MaxI_ok (h : Hdr) (o : OpAT) (s : State) : Ok s → OkR (execAtom32MaxI h o s) := by
  unfold execAtom32MaxI; grind (splits := 40) -lia -linarith -ring -order
scoped grind_pattern execAtom32MaxI_ok => execAtom32MaxI h o s

theorem execAtom32MinN_ok (h : Hdr) (o : OpAT) (s : State) : Ok s → OkR (execAtom32MinN h o s) := by
  unfold execAtom32MinN; grind (splits := 40) -lia -linarith -ring -order
scoped grind_pattern execAtom32MinN_ok => execAtom32MinN h o s

theorem execAtom32MaxN_ok (h : Hdr) (o : OpAT) (s : State) : Ok s → OkR (execAtom32MaxN h o s) := by
  unfold execAtom32MaxN; grind (splits := 40) -lia -linarith -ring -order
scoped grind_pattern execAtom32MaxN_ok => execAtom32MaxN h o s

theorem execAtom32Exch_ok (h : Hdr) (o : OpAT) (s : State) : Ok s → OkR (execAtom32Exch h o s) := by
  unfold execAtom32Exch; grind (splits := 40) -lia -linarith -ring -order
scoped grind_pattern execAtom32Exch_ok => execAtom32Exch h o s

theorem execAtom32Cas_ok (h : Hdr) (o : OpAT) (s : State) : Ok s → OkR (execAtom32Cas h o s) := by
  unfold execAtom32Cas; grind (splits := 40) -lia -linarith -ring -order
scoped grind_pattern execAtom32Cas_ok => execAtom32Cas h o s

theorem execAtom32Fadd_ok (h : Hdr) (o : OpAT) (s : State) : Ok s → OkR (execAtom32Fadd h o s) := by
  unfold execAtom32Fadd; grind (splits := 40) -lia -linarith -ring -order
scoped grind_pattern execAtom32Fadd_ok => execAtom32Fadd h o s

theorem execAtom32Fmin_ok (h : Hdr) (o : OpAT) (s : State) : Ok s → OkR (execAtom32Fmin h o s) := by
  unfold execAtom32Fmin; grind (splits := 40) -lia -linarith -ring -order
scoped grind_pattern execAtom32Fmin_ok => execAtom32Fmin h o s

theorem execAtom32Fmax_ok (h : Hdr) (o : OpAT) (s : State) : Ok s → OkR (execAtom32Fmax h o s) := by
  unfold execAtom32Fmax; grind (splits := 40) -lia -linarith -ring -order
scoped grind_pattern execAtom32Fmax_ok => execAtom32Fmax h o s

theorem execAtom64Add_ok (h : Hdr) (o : OpAT) (s : State) : Ok s → OkR (execAtom64Add h o s) := by
  unfold execAtom64Add; grind (splits := 40) -lia -linarith -ring -order
scoped grind_pattern execAtom64Add_ok => execAtom64Add h o s

theorem execAtom64And_ok (h : Hdr) (o : OpAT) (s : State) : Ok s → OkR (execAtom64And h o s) := by
  unfold execAtom64And; grind (splits := 40) -lia -linarith -ring -order
scoped grind_pattern execAtom64And_ok => execAtom64And h o s

theorem execAtom64Or_ok (h : Hdr) (o : OpAT) (s : State) : Ok s → OkR (execAtom64Or h o s) := by
  unfold execAtom64Or; grind (splits := 40) -lia -linarith -ring -order
scoped grind_pattern execAtom64Or_ok => execAtom64Or h o s

theorem execAtom64Xor_ok (h : Hdr) (o : OpAT) (s : State) : Ok s → OkR (execAtom64Xor h o s) := by
  unfold execAtom64Xor; grind (splits := 40) -lia -linarith -ring -order
scoped grind_pattern execAtom64Xor_ok => execAtom64Xor h o s

theorem execAtom64MinI_ok (h : Hdr) (o : OpAT) (s : State) : Ok s → OkR (execAtom64MinI h o s) := by
  unfold execAtom64MinI; grind (splits := 40) -lia -linarith -ring -order
scoped grind_pattern execAtom64MinI_ok => execAtom64MinI h o s

theorem execAtom64MaxI_ok (h : Hdr) (o : OpAT) (s : State) : Ok s → OkR (execAtom64MaxI h o s) := by
  unfold execAtom64MaxI; grind (splits := 40) -lia -linarith -ring -order
scoped grind_pattern execAtom64MaxI_ok => execAtom64MaxI h o s

theorem execAtom64MinN_ok (h : Hdr) (o : OpAT) (s : State) : Ok s → OkR (execAtom64MinN h o s) := by
  unfold execAtom64MinN; grind (splits := 40) -lia -linarith -ring -order
scoped grind_pattern execAtom64MinN_ok => execAtom64MinN h o s

theorem execAtom64MaxN_ok (h : Hdr) (o : OpAT) (s : State) : Ok s → OkR (execAtom64MaxN h o s) := by
  unfold execAtom64MaxN; grind (splits := 40) -lia -linarith -ring -order
scoped grind_pattern execAtom64MaxN_ok => execAtom64MaxN h o s

theorem execAtom64Exch_ok (h : Hdr) (o : OpAT) (s : State) : Ok s → OkR (execAtom64Exch h o s) := by
  unfold execAtom64Exch; grind (splits := 40) -lia -linarith -ring -order
scoped grind_pattern execAtom64Exch_ok => execAtom64Exch h o s

theorem execAtom64Cas_ok (h : Hdr) (o : OpAT) (s : State) : Ok s → OkR (execAtom64Cas h o s) := by
  unfold execAtom64Cas; grind (splits := 40) -lia -linarith -ring -order
scoped grind_pattern execAtom64Cas_ok => execAtom64Cas h o s

theorem execAtoms32Add_ok (h : Hdr) (o : OpATS) (s : State) : Ok s → OkR (execAtoms32Add h o s) := by
  unfold execAtoms32Add; grind (splits := 40) -lia -linarith -ring -order
scoped grind_pattern execAtoms32Add_ok => execAtoms32Add h o s

theorem execAtoms32And_ok (h : Hdr) (o : OpATS) (s : State) : Ok s → OkR (execAtoms32And h o s) := by
  unfold execAtoms32And; grind (splits := 40) -lia -linarith -ring -order
scoped grind_pattern execAtoms32And_ok => execAtoms32And h o s

theorem execAtoms32Or_ok (h : Hdr) (o : OpATS) (s : State) : Ok s → OkR (execAtoms32Or h o s) := by
  unfold execAtoms32Or; grind (splits := 40) -lia -linarith -ring -order
scoped grind_pattern execAtoms32Or_ok => execAtoms32Or h o s

theorem execAtoms32Xor_ok (h : Hdr) (o : OpATS) (s : State) : Ok s → OkR (execAtoms32Xor h o s) := by
  unfold execAtoms32Xor; grind (splits := 40) -lia -linarith -ring -order
scoped grind_pattern execAtoms32Xor_ok => execAtoms32Xor h o s

theorem execAtoms32MinI_ok (h : Hdr) (o : OpATS) (s : State) : Ok s → OkR (execAtoms32MinI h o s) := by
  unfold execAtoms32MinI; grind (splits := 40) -lia -linarith -ring -order
scoped grind_pattern execAtoms32MinI_ok => execAtoms32MinI h o s

theorem execAtoms32MaxI_ok (h : Hdr) (o : OpATS) (s : State) : Ok s → OkR (execAtoms32MaxI h o s) := by
  unfold execAtoms32MaxI; grind (splits := 40) -lia -linarith -ring -order
scoped grind_pattern execAtoms32MaxI_ok => execAtoms32MaxI h o s

theorem execAtoms32MinN_ok (h : Hdr) (o : OpATS) (s : State) : Ok s → OkR (execAtoms32MinN h o s) := by
  unfold execAtoms32MinN; grind (splits := 40) -lia -linarith -ring -order
scoped grind_pattern execAtoms32MinN_ok => execAtoms32MinN h o s

theorem execAtoms32MaxN_ok (h : Hdr) (o : OpATS) (s : State) : Ok s → OkR (execAtoms32MaxN h o s) := by
  unfold execAtoms32MaxN; grind (splits := 40) -lia -linarith -ring -order
scoped grind_pattern execAtoms32MaxN_ok => execAtoms32MaxN h o s

theorem execAtoms32Exch_ok (h : Hdr) (o : OpATS) (s : State) : Ok s → OkR (execAtoms32Exch h o s) := by
  unfold execAtoms32Exch; grind (splits := 40) -lia -linarith -ring -order
scoped grind_pattern execAtoms32Exch_ok => execAtoms32Exch h o s

theorem execAtoms32Cas_ok (h : Hdr) (o : OpATS) (s : State) : Ok s → OkR (execAtoms32Cas h o s) := by
  unfold execAtoms32Cas; grind (splits := 40) -lia -linarith -ring -order
scoped grind_pattern execAtoms32Cas_ok => execAtoms32Cas h o s

theorem execAtoms32Fadd_ok (h : Hdr) (o : OpATS) (s : State) : Ok s → OkR (execAtoms32Fadd h o s) := by
  unfold execAtoms32Fadd; grind (splits := 40) -lia -linarith -ring -order
scoped grind_pattern execAtoms32Fadd_ok => execAtoms32Fadd h o s

theorem execAtoms32Fmin_ok (h : Hdr) (o : OpATS) (s : State) : Ok s → OkR (execAtoms32Fmin h o s) := by
  unfold execAtoms32Fmin; grind (splits := 40) -lia -linarith -ring -order
scoped grind_pattern execAtoms32Fmin_ok => execAtoms32Fmin h o s

theorem execAtoms32Fmax_ok (h : Hdr) (o : OpATS) (s : State) : Ok s → OkR (execAtoms32Fmax h o s) := by
  unfold execAtoms32Fmax; grind (splits := 40) -lia -linarith -ring -order
scoped grind_pattern execAtoms32Fmax_ok => execAtoms32Fmax h o s

theorem execFenceAcq_ok (h : Hdr) (o : OpScope) (s : State) : Ok s → OkR (execFenceAcq h o s) := by
  unfold execFenceAcq; grind (splits := 40) -lia -linarith -ring -order
scoped grind_pattern execFenceAcq_ok => execFenceAcq h o s

theorem execFenceRel_ok (h : Hdr) (o : OpScope) (s : State) : Ok s → OkR (execFenceRel h o s) := by
  unfold execFenceRel; grind (splits := 40) -lia -linarith -ring -order
scoped grind_pattern execFenceRel_ok => execFenceRel h o s

theorem execFenceFull_ok (h : Hdr) (o : OpScope) (s : State) : Ok s → OkR (execFenceFull h o s) := by
  unfold execFenceFull; grind (splits := 40) -lia -linarith -ring -order
scoped grind_pattern execFenceFull_ok => execFenceFull h o s

theorem execQfence_ok (h : Hdr) (o : OpA) (s : State) : Ok s → OkR (execQfence h o s) := by
  unfold execQfence; grind (splits := 40) -lia -linarith -ring -order
scoped grind_pattern execQfence_ok => execQfence h o s

theorem execFlush_ok (h : Hdr) (o : OpFlush) (s : State) : Ok s → OkR (execFlush h o s) := by
  unfold execFlush; grind (splits := 40) -lia -linarith -ring -order
scoped grind_pattern execFlush_ok => execFlush h o s

theorem execCntadd_ok (h : Hdr) (o : OpCnt) (s : State) : Ok s → OkR (execCntadd h o s) := by
  unfold execCntadd; grind (splits := 40) -lia -linarith -ring -order
scoped grind_pattern execCntadd_ok => execCntadd h o s

/-! ## Graph -/

theorem State.rd_ok (s : State) (ia n : Nat) : Ok s → Ok (State.rd s ia n).1 := by
  unfold State.rd; grind (splits := 40) -lia -linarith -ring -order
scoped grind_pattern State.rd_ok => State.rd s ia n

theorem State.putDouble_ok (s : State) (ia v : Nat) : Ok s → Ok (State.putDouble s ia v) := by
  unfold State.putDouble; grind (splits := 40) -lia -linarith -ring -order
scoped grind_pattern State.putDouble_ok => State.putDouble s ia v

theorem State.modGraph_ok (s : State) (part g : Nat) (f : Graph → Graph) : Ok s → Ok (State.modGraph s part g f) := by
  unfold State.modGraph; grind (splits := 40) -lia -linarith -ring -order
scoped grind_pattern State.modGraph_ok => State.modGraph s part g f

theorem State.putRun_ok (s : State) (part g j count pending : Nat) : Ok s → Ok (State.putRun s part g j count pending) := by
  unfold State.putRun; grind (splits := 40) -lia -linarith -ring -order
scoped grind_pattern State.putRun_ok => State.putRun s part g j count pending

theorem State.fireNode_ok (s : State) (part g j : Nat) : Ok s → Ok (State.fireNode s part g j) := by
  unfold State.fireNode; grind (splits := 40) -lia -linarith -ring -order
scoped grind_pattern State.fireNode_ok => State.fireNode s part g j

theorem State.nodeDone_ok (s : State) (part g j : Nat) (succ : List Nat) : Ok s → Ok (State.nodeDone s part g j succ) := by
  unfold State.nodeDone; grind (splits := 40) -lia -linarith -ring -order
scoped grind_pattern State.nodeDone_ok => State.nodeDone s part g j succ

theorem State.launchFires_ok (s : State) (queue pos : Nat) : Ok s → Ok (State.launchFires s queue pos) := by
  unfold State.launchFires; grind (splits := 40) -lia -linarith -ring -order
scoped grind_pattern State.launchFires_ok => State.launchFires s queue pos

theorem State.stopGraph_ok (s : State) (part g cause info : Nat) : Ok s → Ok (State.stopGraph s part g cause info) := by
  unfold State.stopGraph; grind (splits := 40) -lia -linarith -ring -order
scoped grind_pattern State.stopGraph_ok => State.stopGraph s part g cause info

theorem execGraphDone_ok (part : Nat) (s : State) : Ok s → OkR (execGraphDone part s) := by
  unfold execGraphDone; grind (splits := 40) -lia -linarith -ring -order
scoped grind_pattern execGraphDone_ok => execGraphDone part s

theorem State.armEntry_ok (s : State) (part g : Nat) : Ok s → Ok (State.armEntry s part g) := by
  unfold State.armEntry; grind (splits := 40) -lia -linarith -ring -order
scoped grind_pattern State.armEntry_ok => State.armEntry s part g

theorem execGraphArm_ok (s : State) : Ok s → OkR (execGraphArm s) := by
  unfold execGraphArm; grind (splits := 40) -lia -linarith -ring -order
scoped grind_pattern execGraphArm_ok => execGraphArm s

/-! ## Sched -/

theorem treeGo_ok (x0 : Nat) (x1 : List (Nat × Option Rcb × Nat)) (x2 : TreeRead) : OkT x2 → OkT (treeGo x0 x1 x2) := by
  fun_induction treeGo x0 x1 x2 <;> grind (splits := 40) -lia -linarith -ring -order
scoped grind_pattern treeGo_ok => treeGo x0 x1 x2

theorem State.readTree_ok (s : State) (part : Nat) : Ok s → OkT (State.readTree s part) := by
  unfold State.readTree; grind (splits := 40) -lia -linarith -ring -order
scoped grind_pattern State.readTree_ok => State.readTree s part

theorem State.loadTree_ok (s : State) (part : Nat) : Ok s → Ok (State.loadTree s part) := by
  unfold State.loadTree; grind (splits := 40) -lia -linarith -ring -order
scoped grind_pattern State.loadTree_ok => State.loadTree s part

theorem State.putHead_ok (s : State) (q head : Nat) : Ok s → Ok (State.putHead s q head) := by
  unfold State.putHead; grind (splits := 40) -lia -linarith -ring -order
scoped grind_pattern State.putHead_ok => State.putHead s q head

theorem State.putNextwg_ok (s : State) (q n : Nat) : Ok s → Ok (State.putNextwg s q n) := by
  unfold State.putNextwg; grind (splits := 40) -lia -linarith -ring -order
scoped grind_pattern State.putNextwg_ok => State.putNextwg s q n

theorem State.putDeficit_ok (s : State) (q : Nat) (v : Int) : Ok s → Ok (State.putDeficit s q v) := by
  unfold State.putDeficit; grind (splits := 40) -lia -linarith -ring -order
scoped grind_pattern State.putDeficit_ok => State.putDeficit s q v

theorem State.settle_ok (s : State) (q : Nat) : Ok s → Ok (State.settle s q) := by
  intro h; unfold State.settle; exact Ok.ite (fun _ => State.putDeficit_ok _ _ _ h) (fun _ => h)
scoped grind_pattern State.settle_ok => State.settle s q

theorem State.passHead_ok (s : State) (q head : Nat) : Ok s → Ok (State.passHead s q head) := by
  unfold State.passHead; grind (splits := 40) -lia -linarith -ring -order
scoped grind_pattern State.passHead_ok => State.passHead s q head

theorem State.countLaunch_ok (s : State) (l : Launch) : Ok s → Ok (State.countLaunch s l) := by
  unfold State.countLaunch; grind (splits := 40) -lia -linarith -ring -order
scoped grind_pattern State.countLaunch_ok => State.countLaunch s l

theorem State.refuseLaunch_ok (s : State) (l : Launch) (head cause : Nat) : Ok s → Ok (State.refuseLaunch s l head cause) := by
  unfold State.refuseLaunch; grind (splits := 40) -lia -linarith -ring -order
scoped grind_pattern State.refuseLaunch_ok => State.refuseLaunch s l head cause

theorem State.headTry_ok (s : State) (part : Nat) (r : Rcb) : Ok s → Ok (State.headTry s part r).1 := by
  intro h
  have hd := State.doubles_ok s r.queue 4 h
  unfold State.headTry
  generalize s.doubles r.queue 4 = x at *
  match x with
  | .error (.region _ _) => exact State.raiseRegion_ok _ _ _ _ _ h
  | .error .refused => exact h
  | .error (.notRes _ _ _) => exact h
  | .error (.held _) => exact h
  | .ok (s1, ds) =>
    replace hd : Ok s1 := hd
    dsimp -zeta only
    generalize leafHdrOf ds = hh
    refine Ok.fst (fun _ => State.raiseRegion_ok _ _ _ _ _ hd) fun _ => Ok.fst (fun _ => State.settle_ok _ _ hd) fun _ => ?_
    have hd2 := State.doubles_ok s1 (hh.slot hh.head) 8 hd
    generalize s1.doubles (hh.slot hh.head) 8 = x at *
    match x with
    | .error (.region _ _) => exact State.raiseRegion_ok _ _ _ _ _ hd
    | .error .refused => exact hd
    | .error (.notRes _ _ _) => exact hd
    | .error (.held _) => exact hd
    | .ok (s2, ds2) =>
      replace hd2 : Ok s2 := hd2
      refine Ok.fst (fun _ => State.modPart_ok _ _ _ (State.passHead_ok _ _ _ hd2)) fun _ => Ok.fst (fun _ => hd2) fun _ => ?_
      generalize (launchOf 0 part r.ia (hh.slot hh.head) r.queue hh.head r.fdom ds2).refusal r.eceil = l
      cases l with
      | some c => exact State.refuseLaunch_ok _ _ _ _ hd2
      | none => exact hd2
scoped grind_pattern State.headTry_ok => State.headTry s part r

theorem State.headLaunch_ok (s : State) (part : Nat) (r : Rcb) (k : Nat) : Ok s → Ok (State.headLaunch s part r k).1 := by
  induction k generalizing s with
  | zero => exact id
  | succ k ih =>
    intro h
    have hd := State.headTry_ok s part r h
    unfold State.headLaunch
    split
    · grind
    · grind
scoped grind_pattern State.headLaunch_ok => State.headLaunch s part r k

theorem State.place_ok (s : State) (l : Launch) (g : Workgroup) : Ok s → Ok (State.place s l g) := by
  unfold State.place; grind (splits := 40) -lia -linarith -ring -order
scoped grind_pattern State.place_ok => State.place s l g

theorem State.dispatch_ok (s : State) (l : Launch) (xs : List (Nat × List Nat × Nat)) : Ok s → Ok (State.dispatch s l xs) := by
  unfold State.dispatch; grind (splits := 40) -lia -linarith -ring -order
scoped grind_pattern State.dispatch_ok => State.dispatch s l xs

theorem State.drr_ok (s : State) (part level : Nat) (cs : List Choice) : Ok s → Ok (State.drr s part level cs) := by
  unfold State.drr; grind (splits := 40) -lia -linarith -ring -order
scoped grind_pattern State.drr_ok => State.drr s part level cs

theorem State.select_ok (s : State) (part c : Nat) (heads : List (Rcb × Launch)) : Ok s → OkO (State.select s part c heads) := by
  intro h; unfold State.select; dsimp only
  split
  · exact OkO.none
  · exact State.drr_ok s part _ _ h
scoped grind_pattern State.select_ok => State.select s part c heads

theorem State.headOf_ok (s : State) (part : Nat) (r : Rcb) : Ok s → Ok (State.headOf s part r).1 := by
  intro h
  have h0 := State.touchAll_ok s (s.leafReads part r) h
  unfold State.headOf
  generalize s.touchAll (s.leafReads part r) = s0 at *
  refine Ok.fst (fun _ => h0) fun _ => ?_
  · have h1 := State.headLaunch_ok s0 part r ((s0.leafHdr r.queue).count + 1) h0
    generalize s0.headLaunch part r ((s0.leafHdr r.queue).count + 1) = x at *
    obtain ⟨s1, o⟩ := x
    cases o with
    | none => exact h1
    | some l => exact State.touchAll_ok s1 (s1.launchReads l) h1
scoped grind_pattern State.headOf_ok => State.headOf s part r

theorem State.heads_ok (s : State) (part : Nat) : Ok s → Ok (State.heads s part).1 := by
  intro h
  unfold State.heads
  exact foldlP_ok _ _ (s, []) h fun t a ht => State.headOf_ok _ _ _ ht
scoped grind_pattern State.heads_ok => State.heads s part

theorem State.dispatchOver_ok (s : State) (die : Nat) (heads : Tbl (List (Rcb × Launch))) (x0 : List (Nat × Nat)) : Ok s → Ok (State.dispatchOver s die heads x0) := by
  fun_induction State.dispatchOver s die heads x0 <;> grind (splits := 40) -lia -linarith -ring -order
scoped grind_pattern State.dispatchOver_ok => State.dispatchOver s die heads x0

theorem execDispatchStep_ok (s : State) : Ok s → OkR (execDispatchStep s) := by
  unfold execDispatchStep; grind (splits := 40) -lia -linarith -ring -order
scoped grind_pattern execDispatchStep_ok => execDispatchStep s

theorem State.chargeLeaf_ok (s : State) (g : Workgroup) : Ok s → Ok (State.chargeLeaf s g) := by
  unfold State.chargeLeaf; grind (splits := 40) -lia -linarith -ring -order
scoped grind_pattern State.chargeLeaf_ok => State.chargeLeaf s g

theorem State.laneReports_ok (s : State) (g : Workgroup) : Ok s → Ok (State.laneReports s g) := by
  unfold State.laneReports; grind (splits := 40) -lia -linarith -ring -order
scoped grind_pattern State.laneReports_ok => State.laneReports s g

theorem State.unqueue_ok (s : State) (e : Nat × Nat × Nat × List QEntry) : Ok s → Ok (State.unqueue s e) := by
  unfold State.unqueue; grind (splits := 40) -lia -linarith -ring -order
scoped grind_pattern State.unqueue_ok => State.unqueue s e

theorem State.forgetTiles_ok (s : State) (part : Nat) (gang : List Nat) (rs : List EReq) : Ok s → Ok (State.forgetTiles s part gang rs) := by
  unfold State.forgetTiles; grind (splits := 40) -lia -linarith -ring -order
scoped grind_pattern State.forgetTiles_ok => State.forgetTiles s part gang rs

theorem State.scrDrain_ok (s : State) (gang : List Nat) : Ok s → Ok (State.scrDrain s gang) := by
  unfold State.scrDrain; grind (splits := 40) -lia -linarith -ring -order
scoped grind_pattern State.scrDrain_ok => State.scrDrain s gang

theorem State.freeStore_ok (s : State) (gang : List Nat) (rs : List EReq) : Ok s → Ok (State.freeStore s gang rs) := by
  intro h; unfold State.freeStore
  refine foldl_ok _ _ _ (Ok.of (State.forgetTiles_ok _ _ _ _ (State.scrDrain_ok _ _ h)) rfl rfl rfl rfl) fun t a ht => foldl_ok _ _ _ ht fun t a ht => ?_
  exact Ok.ite (fun _ => State.due_ok _ _ (State.modTile_ok _ _ _ _ ht)) fun _ => ht
scoped grind_pattern State.freeStore_ok => State.freeStore s gang rs

theorem State.freeGang_ok (s : State) (gang : List Nat) : Ok s → Ok (State.freeGang s gang) := by
  unfold State.freeGang; grind (splits := 40) -lia -linarith -ring -order
scoped grind_pattern State.freeGang_ok => State.freeGang s gang

theorem State.retireRel_ok (s : State) (g : Workgroup) : Ok s → Ok (State.retireRel s g).1 := by
  unfold State.retireRel; grind (splits := 40) -lia -linarith -ring -order
scoped grind_pattern State.retireRel_ok => State.retireRel s g

theorem execWorkgroupRetire_ok (wg : Nat) (s : State) : Ok s → OkR (execWorkgroupRetire wg s) := by
  unfold execWorkgroupRetire; grind (splits := 40) -lia -linarith -ring -order
scoped grind_pattern execWorkgroupRetire_ok => execWorkgroupRetire wg s

theorem State.tellDone_ok (s : State) (l : Launch) : Ok s → Ok (State.tellDone s l) := by
  unfold State.tellDone; grind (splits := 40) -lia -linarith -ring -order
scoped grind_pattern State.tellDone_ok => State.tellDone s l

theorem execLaunchComplete_ok (s : State) : Ok s → OkR (execLaunchComplete s) := by
  unfold execLaunchComplete; grind (splits := 40) -lia -linarith -ring -order
scoped grind_pattern execLaunchComplete_ok => execLaunchComplete s

theorem execBudgetPeriod_ok (s : State) : Ok s → OkR (execBudgetPeriod s) := by
  unfold execBudgetPeriod; grind (splits := 40) -lia -linarith -ring -order
scoped grind_pattern execBudgetPeriod_ok => execBudgetPeriod s

/-! ## Swap -/

theorem State.takeCores_ok (s : State) (part : Nat) : Ok s → Ok (State.takeCores s part) := by
  unfold State.takeCores; grind (splits := 40) -lia -linarith -ring -order
scoped grind_pattern State.takeCores_ok => State.takeCores s part

theorem State.startHalt_ok (s : State) (part : Nat) : Ok s → Ok (State.startHalt s part) := by
  unfold State.startHalt; grind (splits := 40) -lia -linarith -ring -order
scoped grind_pattern State.startHalt_ok => State.startHalt s part

theorem State.spill_ok (s : State) (part die used : Nat) : Ok s → Ok (State.spill s part die used) := by
  unfold State.spill; grind (splits := 40) -lia -linarith -ring -order
scoped grind_pattern State.spill_ok => State.spill s part die used

theorem State.saveContext_ok (s : State) (part : Nat) : Ok s → Ok (State.saveContext s part) := by
  unfold State.saveContext; grind (splits := 40) -lia -linarith -ring -order
scoped grind_pattern State.saveContext_ok => State.saveContext s part

theorem State.fifoImage_ok (s : State) (part : Nat) : Ok s → Ok (State.fifoImage s part) := by
  unfold State.fifoImage; grind (splits := 40) -lia -linarith -ring -order
scoped grind_pattern State.fifoImage_ok => State.fifoImage s part

theorem State.leaveCores_ok (s : State) (part : Nat) : Ok s → Ok (State.leaveCores s part) := by
  unfold State.leaveCores; grind (splits := 40) -lia -linarith -ring -order
scoped grind_pattern State.leaveCores_ok => State.leaveCores s part

theorem execPartitionSwap_ok (s : State) : Ok s → OkR (execPartitionSwap s) := by
  unfold execPartitionSwap; grind (splits := 40) -lia -linarith -ring -order
scoped grind_pattern execPartitionSwap_ok => execPartitionSwap s

theorem State.modReq_ok (s : State) (id : Nat) (f : EReq → EReq) : Ok s → Ok (State.modReq s id f) := by
  unfold State.modReq; grind (splits := 40) -lia -linarith -ring -order
scoped grind_pattern State.modReq_ok => State.modReq s id f

theorem State.fillTable_ok (s : State) (cl core : Nat) : Ok s → Ok (State.fillTable s cl core) := by
  unfold State.fillTable; grind (splits := 40) -lia -linarith -ring -order
scoped grind_pattern State.fillTable_ok => State.fillTable s cl core

theorem State.untile_ok (s : State) (part : Nat) (t : Nat × Nat × Tile) : Ok s → Ok (State.untile s part t) := by
  unfold State.untile; grind (splits := 40) -lia -linarith -ring -order
scoped grind_pattern State.untile_ok => State.untile s part t

theorem State.unsmx_ok (s : State) (part : Nat) (x : SmxSave) : Ok s → Ok (State.unsmx s part x) := by
  unfold State.unsmx; grind (splits := 40) -lia -linarith -ring -order
scoped grind_pattern State.unsmx_ok => State.unsmx s part x

theorem State.askAgain_ok (s : State) (part : Nat) : Ok s → Ok (State.askAgain s part) := by
  unfold State.askAgain; grind (splits := 40) -lia -linarith -ring -order
scoped grind_pattern State.askAgain_ok => State.askAgain s part

theorem State.restoreContext_ok (s : State) (part : Nat) : Ok s → Ok (State.restoreContext s part) := by
  unfold State.restoreContext; grind (splits := 40) -lia -linarith -ring -order
scoped grind_pattern State.restoreContext_ok => State.restoreContext s part

theorem execContextRestore_ok (s : State) : Ok s → OkR (execContextRestore s) := by
  unfold execContextRestore; grind (splits := 40) -lia -linarith -ring -order
scoped grind_pattern execContextRestore_ok => execContextRestore s

theorem execTimeSliceEnd_ok (s : State) : Ok s → OkR (execTimeSliceEnd s) := by
  unfold execTimeSliceEnd; grind (splits := 40) -lia -linarith -ring -order
scoped grind_pattern execTimeSliceEnd_ok => execTimeSliceEnd s

/-! ## Engines -/

theorem State.modQueue_ok (s : State) (r : QRef) (f : List QEntry → List QEntry) : Ok s → Ok (State.modQueue s r f) := by
  unfold State.modQueue; grind (splits := 40) -lia -linarith -ring -order
scoped grind_pattern State.modQueue_ok => State.modQueue s r f

theorem State.tryFence1_ok (s : State) (r : QRef) : Ok s → Ok (State.tryFence1 s r) := by
  unfold State.tryFence1; grind (splits := 40) -lia -linarith -ring -order
scoped grind_pattern State.tryFence1_ok => State.tryFence1 s r

theorem State.settleFences_ok (s : State) (r : QRef) (x0 : Nat) : Ok s → Ok (State.settleFences s r x0) := by
  fun_induction State.settleFences s r x0 <;> grind (splits := 40) -lia -linarith -ring -order
scoped grind_pattern State.settleFences_ok => State.settleFences s r x0

theorem State.freeSmx_ok (s : State) (cl : Nat) : Ok s → Ok (State.freeSmx s cl) := by
  unfold State.freeSmx; grind (splits := 40) -lia -linarith -ring -order
scoped grind_pattern State.freeSmx_ok => State.freeSmx s cl

theorem State.dropReq_ok (s : State) (id : Nat) : Ok s → Ok (State.dropReq s id) := by
  unfold State.dropReq; grind (splits := 40) -lia -linarith -ring -order
scoped grind_pattern State.dropReq_ok => State.dropReq s id

theorem State.engineFault_ok (s : State) (r : EReq) (cause info : Nat) : Ok s → Ok (State.engineFault s r cause info) := by
  unfold State.engineFault; grind (splits := 40) -lia -linarith -ring -order
scoped grind_pattern State.engineFault_ok => State.engineFault s r cause info

theorem State.engineRegion_ok (s : State) (r : EReq) (cause info : Nat) : Ok s → Ok (State.engineRegion s r cause info) := by
  unfold State.engineRegion; grind (splits := 40) -lia -linarith -ring -order
scoped grind_pattern State.engineRegion_ok => State.engineRegion s r cause info

theorem State.engineHeld_ok (s : State) (r : EReq) (d : Nat) : Ok s → Ok (State.engineHeld s r d) := by
  unfold State.engineHeld; grind (splits := 40) -lia -linarith -ring -order
scoped grind_pattern State.engineHeld_ok => State.engineHeld s r d

theorem State.engineErr_ok (s : State) (r : EReq) (va : Nat) (x0 : MErr) : Ok s → Ok (State.engineErr s r va x0) := by
  unfold State.engineErr; grind (splits := 40) -lia -linarith -ring -order
scoped grind_pattern State.engineErr_ok => State.engineErr s r va x0

theorem State.engineStop_ok (s : State) (r : EReq) (x0 : EErr) : Ok s → Ok (State.engineStop s r x0) := by
  unfold State.engineStop; grind (splits := 40) -lia -linarith -ring -order
scoped grind_pattern State.engineStop_ok => State.engineStop s r x0

theorem State.engCheck_ok (s : State) (asid part dom va ia n : Nat) (rep : Report) : Ok s → Ok (State.engCheck s asid part dom va ia n rep) := by
  unfold State.engCheck; grind (splits := 40) -lia -linarith -ring -order
scoped grind_pattern State.engCheck_ok => State.engCheck s asid part dom va ia n rep

theorem State.engRead_ok (s : State) (die asid part dom : Nat) (rep : Report) (va n : Nat) (x0 : Nat) : Ok s → OkEP (State.engRead s die asid part dom rep va n x0) := by
  fun_induction State.engRead s die asid part dom rep va n x0 <;> grind (splits := 40) -lia -linarith -ring -order
scoped grind_pattern State.engRead_ok => State.engRead s die asid part dom rep va n x0

theorem State.poisonHome_ok (s : State) (block : Nat) : Ok s → Ok (State.poisonHome s block) := by
  unfold State.poisonHome; grind (splits := 40) -lia -linarith -ring -order
scoped grind_pattern State.poisonHome_ok => State.poisonHome s block

theorem State.poisonAt_ok (s : State) (ia n : Nat) : Ok s → Ok (State.poisonAt s ia n) := by
  unfold State.poisonAt; grind (splits := 40) -lia -linarith -ring -order
scoped grind_pattern State.poisonAt_ok => State.poisonAt s ia n

theorem State.poisonBytes_ok (s : State) (ia : Nat) (d : List (Byte × Bool)) : Ok s → Ok (State.poisonBytes s ia d) := by
  unfold State.poisonBytes; grind (splits := 40) -lia -linarith -ring -order
scoped grind_pattern State.poisonBytes_ok => State.poisonBytes s ia d

theorem State.engWrite_ok (s : State) (asid die va : Nat) (data : List (Byte × Bool)) (x0 : Nat) : Ok s → Ok (State.engWrite s asid die va data x0).1 := by
  fun_induction State.engWrite s asid die va data x0 <;> grind (splits := 40) -lia -linarith -ring -order
scoped grind_pattern State.engWrite_ok => State.engWrite s asid die va data x0

theorem State.reqRead_ok (s : State) (r : EReq) (va n : Nat) : Ok s → OkEP (State.reqRead s r va n) := by
  unfold State.reqRead; grind (splits := 40) -lia -linarith -ring -order
scoped grind_pattern State.reqRead_ok => State.reqRead s r va n

theorem State.reqWrite_ok (s : State) (r : EReq) (va : Nat) (d : List (Byte × Bool)) : Ok s → Ok (State.reqWrite s r va d).1 := by
  unfold State.reqWrite; grind (splits := 40) -lia -linarith -ring -order
scoped grind_pattern State.reqWrite_ok => State.reqWrite s r va d

theorem State.writeStop_ok (s : State) (r : EReq) (s1 : State) (e : EErr) : Ok s → Ok s1 → Ok (State.writeStop s r s1 e) := by
  unfold State.writeStop; grind (splits := 40) -lia -linarith -ring -order
scoped grind_pattern State.writeStop_ok => State.writeStop s r s1 e

theorem State.scrPut_ok (s : State) (h : Workgroup) (gran off : Nat) (data : List (Byte × Bool)) : Ok s → Ok (State.scrPut s h gran off data) := by
  unfold State.scrPut; grind (splits := 40) -lia -linarith -ring -order
scoped grind_pattern State.scrPut_ok => State.scrPut s h gran off data

theorem State.writePromise_ok (s : State) (r : EReq) : Ok s → Ok (State.writePromise s r) := by
  unfold State.writePromise; grind (splits := 40) -lia -linarith -ring -order
scoped grind_pattern State.writePromise_ok => State.writePromise s r

theorem State.finishReq_ok (s : State) (r : EReq) (c : Counter) : Ok s → Ok (State.finishReq s r c) := by
  unfold State.finishReq; grind (splits := 40) -lia -linarith -ring -order
scoped grind_pattern State.finishReq_ok => State.finishReq s r c

/-! ## Matrix -/

theorem State.passMatrix_ok (s : State) (r : EReq) : Ok s → Ok (State.passMatrix s r) := by
  unfold State.passMatrix; grind (splits := 40) -lia -linarith -ring -order
scoped grind_pattern State.passMatrix_ok => State.passMatrix s r

theorem execMatrixSelect_ok (cl : Nat) (s : State) : Ok s → OkR (execMatrixSelect cl s) := by
  unfold execMatrixSelect; grind (splits := 40) -lia -linarith -ring -order
scoped grind_pattern execMatrixSelect_ok => execMatrixSelect cl s

theorem State.grantPass_ok (s : State) (cl id : Nat) : Ok s → Ok (State.grantPass s cl id) := by
  unfold State.grantPass; grind (splits := 40) -lia -linarith -ring -order
scoped grind_pattern State.grantPass_ok => State.grantPass s cl id

theorem State.matrixDone_ok (s : State) (cl : Nat) (r : EReq) (n m : Nat) (v : Word) : Ok s → Ok (State.matrixDone s cl r n m v) := by
  unfold State.matrixDone; grind (splits := 40) -lia -linarith -ring -order
scoped grind_pattern State.matrixDone_ok => State.matrixDone s cl r n m v

theorem State.mxsPass_ok (s : State) (cl : Nat) (r : EReq) (ix : List Nat) : Ok s → Ok (State.mxsPass s cl r ix) := by
  unfold State.mxsPass; grind (splits := 40) -lia -linarith -ring -order
scoped grind_pattern State.mxsPass_ok => State.mxsPass s cl r ix

theorem execMatrixPass_ok (cl : Nat) (s : State) : Ok s → OkR (execMatrixPass cl s) := by
  unfold execMatrixPass; grind (splits := 40) -lia -linarith -ring -order
scoped grind_pattern execMatrixPass_ok => execMatrixPass cl s

theorem execTileClaimPass_ok (cl t : Nat) (s : State) : Ok s → OkR (execTileClaimPass cl t s) := by
  unfold execTileClaimPass; grind (splits := 40) -lia -linarith -ring -order
scoped grind_pattern execTileClaimPass_ok => execTileClaimPass cl t s

theorem State.kRow_ok (s : State) (r : EReq) (reg k : Nat) : Ok s → OkEP (State.kRow s r reg k) := by
  unfold State.kRow; grind (splits := 40) -lia -linarith -ring -order
scoped grind_pattern State.kRow_ok => State.kRow s r reg k

theorem State.kRows_ok (s : State) (r : EReq) (x0 : List Nat) : Ok s → OkEP (State.kRows s r x0) := by
  fun_induction State.kRows s r x0 <;> grind (splits := 40) -lia -linarith -ring -order
scoped grind_pattern State.kRows_ok => State.kRows s r x0

theorem State.giveBack_ok (s : State) (cl : Nat) (r : EReq) : Ok s → Ok (State.giveBack s cl r) := by
  unfold State.giveBack; grind (splits := 40) -lia -linarith -ring -order
scoped grind_pattern State.giveBack_ok => State.giveBack s cl r

theorem execSmxNormPass_ok (cl : Nat) (s : State) : Ok s → OkR (execSmxNormPass cl s) := by
  unfold execSmxNormPass; grind (splits := 40) -lia -linarith -ring -order
scoped grind_pattern execSmxNormPass_ok => execSmxNormPass cl s

theorem State.smxEmpty_ok (s : State) (cl : Nat) (r : EReq) (sum : Val) : Ok s → Ok (State.smxEmpty s cl r sum) := by
  unfold State.smxEmpty; grind (splits := 40) -lia -linarith -ring -order
scoped grind_pattern State.smxEmpty_ok => State.smxEmpty s cl r sum

theorem execAliasBuild_ok (cl : Nat) (s : State) : Ok s → OkR (execAliasBuild cl s) := by
  unfold execAliasBuild; grind (splits := 40) -lia -linarith -ring -order
scoped grind_pattern execAliasBuild_ok => execAliasBuild cl s

theorem execSmxSamplePass_ok (cl : Nat) (s : State) : Ok s → OkR (execSmxSamplePass cl s) := by
  unfold execSmxSamplePass; grind (splits := 40) -lia -linarith -ring -order
scoped grind_pattern execSmxSamplePass_ok => execSmxSamplePass cl s

/-! ## PowerCtl -/

theorem execLeaveRequest_ok (die asker id : Nat) (s : State) : Ok s → OkR (execLeaveRequest die asker id s) := by
  unfold execLeaveRequest; grind (splits := 40) -lia -linarith -ring -order
scoped grind_pattern execLeaveRequest_ok => execLeaveRequest die asker id s

theorem State.granted_ok (s : State) (e : Leave) : Ok s → Ok (State.granted s e) := by
  unfold State.granted; grind (splits := 40) -lia -linarith -ring -order
scoped grind_pattern State.granted_ok => State.granted s e

theorem State.grantLoop_ok (s : State) (die : Nat) (x0 : Nat) : Ok s → Ok (State.grantLoop s die x0) := by
  fun_induction State.grantLoop s die x0 <;> grind (splits := 40) -lia -linarith -ring -order
scoped grind_pattern State.grantLoop_ok => State.grantLoop s die x0

theorem execLeaveGrant_ok (s : State) : Ok s → OkR (execLeaveGrant s) := by
  unfold execLeaveGrant; grind (splits := 40) -lia -linarith -ring -order
scoped grind_pattern execLeaveGrant_ok => execLeaveGrant s

theorem State.applyShare_ok (s : State) (w : Nat × Nat) : Ok s → Ok (State.applyShare s w) := by
  unfold State.applyShare; grind (splits := 40) -lia -linarith -ring -order
scoped grind_pattern State.applyShare_ok => State.applyShare s w

theorem State.applyWrites_ok (s : State) : Ok s → Ok (State.applyWrites s) := by
  unfold State.applyWrites; grind (splits := 40) -lia -linarith -ring -order
scoped grind_pattern State.applyWrites_ok => State.applyWrites s

theorem State.applyBanks_ok (s : State) : Ok s → Ok (State.applyBanks s) := by
  unfold State.applyBanks; grind (splits := 40) -lia -linarith -ring -order
scoped grind_pattern State.applyBanks_ok => State.applyBanks s

theorem State.turnWindow_ok (s : State) : Ok s → Ok (State.turnWindow s) := by
  unfold State.turnWindow; grind (splits := 40) -lia -linarith -ring -order
scoped grind_pattern State.turnWindow_ok => State.turnWindow s

theorem State.afterWindow_ok (s u : State) : Ok s → Ok u → Ok (State.afterWindow s u) := by
  unfold State.afterWindow; grind (splits := 40) -lia -linarith -ring -order
scoped grind_pattern State.afterWindow_ok => State.afterWindow s u

theorem execPowerWindowStart_ok (s : State) : Ok s → OkR (execPowerWindowStart s) := by
  unfold execPowerWindowStart; grind (splits := 40) -lia -linarith -ring -order
scoped grind_pattern execPowerWindowStart_ok => execPowerWindowStart s

theorem execThermalTrip_ok (s : State) : Ok s → OkR (execThermalTrip s) := by
  unfold execThermalTrip; grind (splits := 40) -lia -linarith -ring -order
scoped grind_pattern execThermalTrip_ok => execThermalTrip s

end Sys2Proof.Laws.MemOk
end

