-- ==== Sys2Proof/Laws/MemOkUnits.lean ====
section
/-! SUPPORT. What keeps the memories well formed (`State.memOk`): one lemma for each operation and each meaning of
the copy and splice engines, calls, the bank commands, the command regions and eviction. With
`open Sys2Proof.Laws.MemOk` the lemmas are patterns of `grind` as well. -/

namespace Sys2Proof.Laws.MemOk
set_option Elab.async false
open Sys2Proof Sys2Proof.Machine Sys2Proof.Machine.Num

/-! ## Copy -/

theorem State.srcVal_ok (s : State) (r : EReq) (c : List Int) : Ok s → OkEP (State.srcVal s r c) := by
  unfold State.srcVal; grind (splits := 40) -lia -linarith -ring -order
scoped grind_pattern State.srcVal_ok => State.srcVal s r c

theorem eachE_ok {α β : Type} (f : State → α → Except EErr (State × β)) (x0 : List α) (x1 : State) : (∀ (y0 : State) (y1 : α), Ok y0 → OkEP (f y0 y1)) → Ok x1 → OkEP (eachE f x0 x1) := by
  fun_induction eachE f x0 x1 <;> grind (splits := 40) -lia -linarith -ring -order
scoped grind_pattern eachE_ok => eachE f x0 x1

theorem State.reqWrites_ok (s : State) (r : EReq) (x0 : List (Nat × List (Byte × Bool))) : Ok s → Ok (State.reqWrites s r x0).1 := by
  fun_induction State.reqWrites s r x0 <;> grind (splits := 40) -lia -linarith -ring -order
scoped grind_pattern State.reqWrites_ok => State.reqWrites s r x0

theorem State.boxVal_ok (s : State) (r : EReq) (j : Nat) (i : List Nat) : Ok s → OkEP (State.boxVal s r j i) := by
  unfold State.boxVal; grind (splits := 40) -lia -linarith -ring -order
scoped grind_pattern State.boxVal_ok => State.boxVal s r j i

theorem State.makeUnit_ok (s : State) (r : EReq) (u : Nat) : Ok s → OkEP (State.makeUnit s r u) := by
  unfold State.makeUnit; grind (splits := 40) -lia -linarith -ring -order
scoped grind_pattern State.makeUnit_ok => State.makeUnit s r u

theorem State.putScr_ok (s : State) (r : EReq) (x : BoxUnit) : Ok s → Ok (State.putScr s r x) := by
  unfold State.putScr; grind (splits := 40) -lia -linarith -ring -order
scoped grind_pattern State.putScr_ok => State.putScr s r x

theorem State.oldBytes_ok (s : State) (r : EReq) (ws : BoxWrites) (va n : Nat) : Ok s → OkEP (State.oldBytes s r ws va n) := by
  unfold State.oldBytes; grind (splits := 40) -lia -linarith -ring -order
scoped grind_pattern State.oldBytes_ok => State.oldBytes s r ws va n

theorem State.unitBytes_ok (s : State) (r : EReq) (ws : BoxWrites) (x : BoxUnit) : Ok s → Ok (State.unitBytes s r ws x).1 := by
  unfold State.unitBytes; grind (splits := 40) -lia -linarith -ring -order
scoped grind_pattern State.unitBytes_ok => State.unitBytes s r ws x

theorem State.putUnits_ok (s : State) (r : EReq) (xs : List BoxUnit) : Ok s → Ok (State.putUnits s r xs).1 := by
  intro h
  have ha := foldlP_ok (placeUnit r) xs (s, ⟨[], [], [], none⟩) h (fun t a ht => by
    unfold placeUnit
    split
    · exact ht
    · dsimp only
      split
      · exact State.putScr_ok _ _ _ ht
      · exact State.unitBytes_ok _ _ _ _ ht)
  unfold State.putUnits
  dsimp only
  generalize xs.foldl (placeUnit r) (s, ⟨[], [], [], none⟩) = a at *
  have hb := State.reqWrites_ok a.1 r (a.2.scale.reverse ++ a.2.data.reverse) ha
  split
  · rename_i e
    rw [e] at hb
    exact hb
  · rename_i e
    rw [e] at hb
    exact hb
scoped grind_pattern State.putUnits_ok => State.putUnits s r xs

theorem Prep.bind_ok (p : Prep) (f : State → EReq → Prep) : OkPr p → (∀ (y0 : State) (y1 : EReq), Ok y0 → OkPr (f y0 y1)) → OkPr (Prep.bind p f) := by
  unfold Prep.bind; grind (splits := 40) -lia -linarith -ring -order
scoped grind_pattern Prep.bind_ok => Prep.bind p f

theorem Prep.descr_ok (s : State) (r : EReq) (l : List (Nat × Nat)) : Ok s → OkPr (Prep.descr s r l) := by
  unfold Prep.descr; grind (splits := 40) -lia -linarith -ring -order
scoped grind_pattern Prep.descr_ok => Prep.descr s r l

theorem readRecord_ok (role : Role) (reg side : Nat) (s : State) (r : EReq) : Ok s → OkPr (readRecord role reg side s r) := by
  unfold readRecord; grind (splits := 40) -lia -linarith -ring -order
scoped grind_pattern readRecord_ok => readRecord role reg side s r

theorem checkScale_ok (s : State) (r : EReq) : Ok s → OkPr (checkScale s r) := by
  unfold checkScale; grind (splits := 40) -lia -linarith -ring -order
scoped grind_pattern checkScale_ok => checkScale s r

theorem orderRecs_ok (s : State) (r : EReq) : Ok s → OkPr (orderRecs s r) := by
  unfold orderRecs; grind (splits := 40) -lia -linarith -ring -order
scoped grind_pattern orderRecs_ok => orderRecs s r

theorem checkPair_ok (s : State) (r : EReq) : Ok s → OkPr (checkPair s r) := by
  unfold checkPair; grind (splits := 40) -lia -linarith -ring -order
scoped grind_pattern checkPair_ok => checkPair s r

theorem checkCounter_ok (s : State) (r : EReq) : Ok s → OkPr (checkCounter s r) := by
  unfold checkCounter; grind (splits := 40) -lia -linarith -ring -order
scoped grind_pattern checkCounter_ok => checkCounter s r

theorem takeSlots_ok (s : State) (r : EReq) : Ok s → OkPr (takeSlots s r) := by
  intro h; unfold takeSlots; dsimp only
  split
  · exact h
  · split
    · exact foldl_ok _ _ _ h (by grind)
    · exact OkPr.wait
scoped grind_pattern takeSlots_ok => takeSlots s r

theorem beginCopy_ok (bytes : Nat) (s : State) (r : EReq) : Ok s → OkPr (beginCopy bytes s r) := by
  unfold beginCopy; grind (splits := 40) -lia -linarith -ring -order
scoped grind_pattern beginCopy_ok => beginCopy bytes s r

theorem State.beginBox_ok (s : State) (r : EReq) : Ok s → OkPr (State.beginBox s r) := by
  unfold State.beginBox; grind (splits := 40) -lia -linarith -ring -order
scoped grind_pattern State.beginBox_ok => State.beginBox s r

theorem State.beginLin_ok (s : State) (r : EReq) : Ok s → OkPr (State.beginLin s r) := by
  unfold State.beginLin; grind (splits := 40) -lia -linarith -ring -order
scoped grind_pattern State.beginLin_ok => State.beginLin s r

theorem State.afterPrep_ok (s : State) (r : EReq) (x0 : Prep) : Ok s → OkPr x0 → Ok (State.afterPrep s r x0) := by
  unfold State.afterPrep; grind (splits := 40) -lia -linarith -ring -order
scoped grind_pattern State.afterPrep_ok => State.afterPrep s r x0

theorem execCopyBegin_ok (cluster queue : Nat) (s : State) : Ok s → OkR (execCopyBegin cluster queue s) := by
  unfold execCopyBegin; grind (splits := 40) -lia -linarith -ring -order
scoped grind_pattern execCopyBegin_ok => execCopyBegin cluster queue s

theorem State.boxChunk_ok (s : State) (r : EReq) : Ok s → Ok (State.boxChunk s r).1 := by
  unfold State.boxChunk; grind (splits := 40) -lia -linarith -ring -order
scoped grind_pattern State.boxChunk_ok => State.boxChunk s r

theorem State.linSource_ok (s : State) (r : EReq) : Ok s → OkEP (State.linSource s r) := by
  unfold State.linSource; grind (splits := 40) -lia -linarith -ring -order
scoped grind_pattern State.linSource_ok => State.linSource s r

theorem State.linChunk_ok (s : State) (r : EReq) : Ok s → Ok (State.linChunk s r).1 := by
  unfold State.linChunk; grind (splits := 40) -lia -linarith -ring -order
scoped grind_pattern State.linChunk_ok => State.linChunk s r

theorem execCopyChunk_ok (cluster queue : Nat) (s : State) : Ok s → OkR (execCopyChunk cluster queue s) := by
  unfold execCopyChunk; grind (splits := 40) -lia -linarith -ring -order
scoped grind_pattern execCopyChunk_ok => execCopyChunk cluster queue s

theorem State.fillSlots_ok (s : State) (r : EReq) : Ok s → Ok (State.fillSlots s r) := by
  unfold State.fillSlots; grind (splits := 40) -lia -linarith -ring -order
scoped grind_pattern State.fillSlots_ok => State.fillSlots s r

theorem execCopyComplete_ok (cluster queue : Nat) (s : State) : Ok s → OkR (execCopyComplete cluster queue s) := by
  unfold execCopyComplete; grind (splits := 40) -lia -linarith -ring -order
scoped grind_pattern execCopyComplete_ok => execCopyComplete cluster queue s

/-! ## Splice -/

theorem State.reqEntries_ok (s : State) (r : EReq) (va b n : Nat) : Ok s → OkEP (State.reqEntries s r va b n) := by
  unfold State.reqEntries; grind (splits := 40) -lia -linarith -ring -order
scoped grind_pattern State.reqEntries_ok => State.reqEntries s r va b n

theorem takeEntries_ok (va b n : Nat) (s : State) (r : EReq) : Ok s → OkPr (takeEntries va b n s r) := by
  unfold takeEntries; grind (splits := 40) -lia -linarith -ring -order
scoped grind_pattern takeEntries_ok => takeEntries va b n s r

theorem readPlan_ok (s : State) (r : EReq) : Ok s → OkPr (readPlan s r) := by
  unfold readPlan; grind (splits := 40) -lia -linarith -ring -order
scoped grind_pattern readPlan_ok => readPlan s r

theorem checkChoices_ok (s : State) (r : EReq) : Ok s → OkPr (checkChoices s r) := by
  unfold checkChoices; grind (splits := 40) -lia -linarith -ring -order
scoped grind_pattern checkChoices_ok => checkChoices s r

theorem State.beginSplice_ok (s : State) (r : EReq) : Ok s → OkPr (State.beginSplice s r) := by
  unfold State.beginSplice; grind (splits := 40) -lia -linarith -ring -order
scoped grind_pattern State.beginSplice_ok => State.beginSplice s r

theorem State.spliceRun_ok (s : State) (die queue : Nat) (op : EngOp) (f : State → EReq → State) : Ok s → (∀ (y0 : State) (y1 : EReq), Ok y0 → Ok (f y0 y1)) → Ok (State.spliceRun s die queue op f) := by
  unfold State.spliceRun; grind (splits := 40) -lia -linarith -ring -order
scoped grind_pattern State.spliceRun_ok => State.spliceRun s die queue op f

theorem State.spliceNext_ok (s : State) (r : EReq) (pos : Nat) (last : Bool) : Ok s → Ok (State.spliceNext s r pos last) := by
  unfold State.spliceNext; grind (splits := 40) -lia -linarith -ring -order
scoped grind_pattern State.spliceNext_ok => State.spliceNext s r pos last

theorem State.planRun_ok (s : State) (r : EReq) : Ok s → Ok (State.planRun s r) := by
  unfold State.planRun; grind (splits := 40) -lia -linarith -ring -order
scoped grind_pattern State.planRun_ok => State.planRun s r

theorem execSplicePlanRun_ok (die queue : Nat) (s : State) : Ok s → OkR (execSplicePlanRun die queue s) := by
  unfold execSplicePlanRun; grind (splits := 40) -lia -linarith -ring -order
scoped grind_pattern execSplicePlanRun_ok => execSplicePlanRun die queue s

theorem State.scatterRow_ok (s : State) (r : EReq) : Ok s → Ok (State.scatterRow s r) := by
  unfold State.scatterRow; grind (splits := 40) -lia -linarith -ring -order
scoped grind_pattern State.scatterRow_ok => State.scatterRow s r

theorem execSpliceScatterRow_ok (die queue : Nat) (s : State) : Ok s → OkR (execSpliceScatterRow die queue s) := by
  unfold execSpliceScatterRow; grind (splits := 40) -lia -linarith -ring -order
scoped grind_pattern execSpliceScatterRow_ok => execSpliceScatterRow die queue s

theorem State.outRow_ok (s : State) (r : EReq) (i : Nat) : Ok s → OkEP (State.outRow s r i) := by
  unfold State.outRow; grind (splits := 40) -lia -linarith -ring -order
scoped grind_pattern State.outRow_ok => State.outRow s r i

theorem State.combineRow_ok (s : State) (r : EReq) : Ok s → Ok (State.combineRow s r) := by
  intro h
  unfold State.combineRow
  extract_lets t f e is_
  split
  · exact State.engineFault_ok _ _ _ _ h
  · split
    · exact State.engineStop_ok _ _ _ h
    · rename_i e1
      have he := OkEP.get e1 (eachE_ok _ _ _ (fun y i hy => State.outRow_ok y r i hy) h)
      extract_lets bad d
      split
      · rename_i e2
        have h2 := State.reqWrite_ok _ r (r.pair 2 + t * r.w 4 * e) (d.map (fun b => (b, bad))) he
        rw [e2] at h2
        exact State.writeStop_ok _ _ _ _ h h2
      · rename_i e2
        have h2 := State.reqWrite_ok _ r (r.pair 2 + t * r.w 4 * e) (d.map (fun b => (b, bad))) he
        rw [e2] at h2
        exact State.spliceNext_ok _ _ _ _ h2
scoped grind_pattern State.combineRow_ok => State.combineRow s r

theorem execSpliceCombineRow_ok (die queue : Nat) (s : State) : Ok s → OkR (execSpliceCombineRow die queue s) := by
  unfold execSpliceCombineRow; grind (splits := 40) -lia -linarith -ring -order
scoped grind_pattern execSpliceCombineRow_ok => execSpliceCombineRow die queue s

theorem execSpliceComplete_ok (die queue : Nat) (s : State) : Ok s → OkR (execSpliceComplete die queue s) := by
  unfold execSpliceComplete; grind (splits := 40) -lia -linarith -ring -order
scoped grind_pattern execSpliceComplete_ok => execSpliceComplete die queue s

/-! ## Call -/

theorem State.descFail_ok (s : State) (r : EReq) (w : List Nat) : Ok s → Ok (State.descFail s r w) := by
  unfold State.descFail; grind (splits := 40) -lia -linarith -ring -order
scoped grind_pattern State.descFail_ok => State.descFail s r w

theorem State.trapCallers_ok (s : State) (r : EReq) (cause va : Nat) : Ok s → Ok (State.trapCallers s r cause va) := by
  unfold State.trapCallers; grind (splits := 40) -lia -linarith -ring -order
scoped grind_pattern State.trapCallers_ok => State.trapCallers s r cause va

theorem State.callFail_ok (s : State) (r : EReq) (stack seq : Nat) : Ok s → Ok (State.callFail s r stack seq) := by
  unfold State.callFail; grind (splits := 40) -lia -linarith -ring -order
scoped grind_pattern State.callFail_ok => State.callFail s r stack seq

theorem State.cleanIn_ok (s : State) (asid : Nat) (w : List Nat) (k : Nat) : Ok s → Ok (State.cleanIn s asid w k) := by
  unfold State.cleanIn; grind (splits := 40) -lia -linarith -ring -order
scoped grind_pattern State.cleanIn_ok => State.cleanIn s asid w k

theorem State.enterCall_ok (s : State) (r : EReq) (w : List Nat) : Ok s → Ok (State.enterCall s r w) := by
  unfold State.enterCall; grind (splits := 40) -lia -linarith -ring -order
scoped grind_pattern State.enterCall_ok => State.enterCall s r w

theorem State.queueCall_ok (s : State) (r : EReq) (w : List Nat) : Ok s → Ok (State.queueCall s r w) := by
  unfold State.queueCall; grind (splits := 40) -lia -linarith -ring -order
scoped grind_pattern State.queueCall_ok => State.queueCall s r w

theorem State.passCall_ok (s : State) (r : EReq) : Ok s → Ok (State.passCall s r) := by
  unfold State.passCall; grind (splits := 40) -lia -linarith -ring -order
scoped grind_pattern State.passCall_ok => State.passCall s r

theorem State.passTile_ok (s : State) (r : EReq) (l : List (Nat × Nat)) : Ok s → Ok (State.passTile s r l) := by
  unfold State.passTile; grind (splits := 40) -lia -linarith -ring -order
scoped grind_pattern State.passTile_ok => State.passTile s r l

theorem State.accept_ok (s : State) (r : EReq) : Ok s → Ok (State.accept s r) := by
  unfold State.accept; grind (splits := 40) -lia -linarith -ring -order
scoped grind_pattern State.accept_ok => State.accept s r

theorem State.passReq_ok (s : State) (r : EReq) : Ok s → Ok (State.passReq s r) := by
  unfold State.passReq; grind (splits := 40) -lia -linarith -ring -order
scoped grind_pattern State.passReq_ok => State.passReq s r

theorem State.placeFence_ok (s : State) (f : Nat × Nat × Word) : Ok s → Ok (State.placeFence s f) := by
  unfold State.placeFence; grind (splits := 40) -lia -linarith -ring -order
scoped grind_pattern State.placeFence_ok => State.placeFence s f

theorem execEngineRequestPass_ok (s : State) : Ok s → OkR (execEngineRequestPass s) := by
  unfold execEngineRequestPass; grind (splits := 40) -lia -linarith -ring -order
scoped grind_pattern execEngineRequestPass_ok => execEngineRequestPass s

theorem State.startBlock_ok (s : State) (r : EReq) (c : Call) (d : List Nat) (base : Nat) (rooms : List (List Nat)) : Ok s → Ok (State.startBlock s r c d base rooms) := by
  unfold State.startBlock; grind (splits := 40) -lia -linarith -ring -order
scoped grind_pattern State.startBlock_ok => State.startBlock s r c d base rooms

theorem execCallDispatch_ok (stack : Nat) (s : State) : Ok s → OkR (execCallDispatch stack s) := by
  unfold execCallDispatch; grind (splits := 40) -lia -linarith -ring -order
scoped grind_pattern execCallDispatch_ok => execCallDispatch stack s

theorem State.dropOut_ok (s : State) (g : Workgroup) (k : Nat) : Ok s → Ok (State.dropOut s g k) := by
  unfold State.dropOut; grind (splits := 40) -lia -linarith -ring -order
scoped grind_pattern State.dropOut_ok => State.dropOut s g k

theorem State.freeBlock_ok (s : State) (g : Workgroup) (k : Nat) : Ok s → Ok (State.freeBlock s g k) := by
  unfold State.freeBlock; grind (splits := 40) -lia -linarith -ring -order
scoped grind_pattern State.freeBlock_ok => State.freeBlock s g k

theorem execBlockComplete_ok (wg : Nat) (s : State) : Ok s → OkR (execBlockComplete wg s) := by
  intro h
  unfold execBlockComplete
  refine (OkR.next _).mpr ?_
  split
  · exact h
  · split
    · exact h
    · rename_i g _ _ k _
      refine Ok.ite (fun _ => Ok.ite (fun _ => h) fun _ => State.freeBlock_ok _ _ _ h) fun _ => Ok.ite (fun _ => h) fun _ => ?_
      have hd := State.dropOut_ok s g k h
      dsimp only
      split
      · refine State.freeBlock_ok _ _ _ ?_
        split
        · exact State.trapCallers_ok _ _ _ _ hd
        · exact hd
      · have ha := State.addCounterOf_ok _ (dieOfStack k) g.asid (callField g.call 6 56 0) (callField g.call 7 63 0) g.part g.dom g.id hd
        exact Ok.ite (fun _ => State.modWg_ok _ _ _ ha) fun _ => State.freeBlock_ok _ _ _ ha
scoped grind_pattern execBlockComplete_ok => execBlockComplete wg s

/-! ## NearMem -/

theorem State.spaOf_ok (s : State) (ia : Nat) (write : Bool) : Ok s → OkEP (State.spaOf s ia write) := by
  unfold State.spaOf; grind (splits := 40) -lia -linarith -ring -order
scoped grind_pattern State.spaOf_ok => State.spaOf s ia write

theorem State.askWave_ok (s : State) (k : Nat) : Ok s → Ok (State.askWave s k) := by
  unfold State.askWave; grind (splits := 40) -lia -linarith -ring -order
scoped grind_pattern State.askWave_ok => State.askWave s k

theorem State.failCmd_ok (s : State) (b : BankCmd) (cause info : Nat) : Ok s → Ok (State.failCmd s b cause info) := by
  unfold State.failCmd; grind (splits := 40) -lia -linarith -ring -order
scoped grind_pattern State.failCmd_ok => State.failCmd s b cause info

theorem State.reachSeq_ok (s : State) (k : Nat) (o : BankOp) (spa : Nat) (b : BankCmd) : Ok s → Ok (State.reachSeq s k o spa b) := by
  unfold State.reachSeq; grind (splits := 40) -lia -linarith -ring -order
scoped grind_pattern State.reachSeq_ok => State.reachSeq s k o spa b

theorem State.issueCmd_ok (s : State) (k : Nat) (o : BankOp) (b : BankCmd) : Ok s → Ok (State.issueCmd s k o b) := by
  unfold State.issueCmd; grind (splits := 40) -lia -linarith -ring -order
scoped grind_pattern State.issueCmd_ok => State.issueCmd s k o b

theorem bankRead_ok (a d : Nat) (bcst : Bool) (s : State) (m : Member) : Ok s → OkEP (bankRead a d bcst s m) := by
  unfold bankRead; grind (splits := 40) -lia -linarith -ring -order
scoped grind_pattern bankRead_ok => bankRead a d bcst s m

theorem bankSet_ok (o : BankOp) (d : Nat) (c : Cur) (s : State) (set : List (Seat (Nat × Word))) : Ok s → Ok (bankSet o d c s set) := by
  unfold bankSet; grind (splits := 40) -lia -linarith -ring -order
scoped grind_pattern bankSet_ok => bankSet o d c s set

theorem doNmbk_ok (o : BankOp) (a d : Nat) (s : State) (c : Cur) (live : List (Nat × Member)) : Ok s → Ok (doNmbk o a d s c live) := by
  unfold doNmbk; grind (splits := 40) -lia -linarith -ring -order
scoped grind_pattern doNmbk_ok => doNmbk o a d s c live

theorem execNmbkMac_ok (h : Hdr) (o : OpNbMac) (s : State) : Ok s → OkR (execNmbkMac h o s) := by
  unfold execNmbkMac; grind (splits := 40) -lia -linarith -ring -order
scoped grind_pattern execNmbkMac_ok => execNmbkMac h o s

theorem execNmbkBcst_ok (h : Hdr) (o : OpNbBcst) (s : State) : Ok s → OkR (execNmbkBcst h o s) := by
  unfold execNmbkBcst; grind (splits := 40) -lia -linarith -ring -order
scoped grind_pattern execNmbkBcst_ok => execNmbkBcst h o s

theorem execNmbkRdac_ok (h : Hdr) (o : OpNbRdac) (s : State) : Ok s → OkR (execNmbkRdac h o s) := by
  unfold execNmbkRdac; grind (splits := 40) -lia -linarith -ring -order
scoped grind_pattern execNmbkRdac_ok => execNmbkRdac h o s

theorem execNmbkLmac_ok (h : Hdr) (o : OpNbLmac) (s : State) : Ok s → OkR (execNmbkLmac h o s) := by
  unfold execNmbkLmac; grind (splits := 40) -lia -linarith -ring -order
scoped grind_pattern execNmbkLmac_ok => execNmbkLmac h o s

theorem State.macBank_ok (s : State) (k : Nat) (b : BankCmd) (pch bg bank : Nat) : Ok s → Ok (State.macBank s k b pch bg bank) := by
  unfold State.macBank; grind (splits := 40) -lia -linarith -ring -order
scoped grind_pattern State.macBank_ok => State.macBank s k b pch bg bank

theorem State.bcastPch_ok (s : State) (k : Nat) (b : BankCmd) (pch : Nat) : Ok s → Ok (State.bcastPch s k b pch) := by
  unfold State.bcastPch; grind (splits := 40) -lia -linarith -ring -order
scoped grind_pattern State.bcastPch_ok => State.bcastPch s k b pch

theorem State.rdac_ok (s : State) (k : Nat) (b : BankCmd) : Ok s → Ok (State.rdac s k b) := by
  unfold State.rdac; grind (splits := 40) -lia -linarith -ring -order
scoped grind_pattern State.rdac_ok => State.rdac s k b

theorem State.lmac_ok (s : State) (k : Nat) (b : BankCmd) : Ok s → Ok (State.lmac s k b) := by
  unfold State.lmac; grind (splits := 40) -lia -linarith -ring -order
scoped grind_pattern State.lmac_ok => State.lmac s k b

theorem State.runCmd_ok (s : State) (k : Nat) (b : BankCmd) : Ok s → Ok (State.runCmd s k b) := by
  unfold State.runCmd; grind (splits := 40) -lia -linarith -ring -order
scoped grind_pattern State.runCmd_ok => State.runCmd s k b

theorem State.replayCmd_ok (s : State) (k : Nat) (b : BankCmd) : Ok s → Ok (State.replayCmd s k b) := by
  unfold State.replayCmd; grind (splits := 40) -lia -linarith -ring -order
scoped grind_pattern State.replayCmd_ok => State.replayCmd s k b

theorem State.replayEntry_ok (s : State) (k : Nat) (x0 : StackLogged) : Ok s → Ok (State.replayEntry s k x0) := by
  unfold State.replayEntry; grind (splits := 40) -lia -linarith -ring -order
scoped grind_pattern State.replayEntry_ok => State.replayEntry s k x0

theorem State.replayStack_ok (s : State) (k : Nat) : Ok s → Ok (State.replayStack s k) := by
  unfold State.replayStack; grind (splits := 40) -lia -linarith -ring -order
scoped grind_pattern State.replayStack_ok => State.replayStack s k

theorem execBankCommandExecute_ok (stack pch : Nat) (s : State) : Ok s → OkR (execBankCommandExecute stack pch s) := by
  unfold execBankCommandExecute; grind (splits := 40) -lia -linarith -ring -order
scoped grind_pattern execBankCommandExecute_ok => execBankCommandExecute stack pch s

theorem State.waveBanksRun_ok (s : State) (k lo n : Nat) (b : BankCmd) : Ok s → Ok (State.waveBanksRun s k lo n b) := by
  unfold State.waveBanksRun; grind (splits := 40) -lia -linarith -ring -order
scoped grind_pattern State.waveBanksRun_ok => State.waveBanksRun s k lo n b

theorem execAllbankWave_ok (stack : Nat) (s : State) : Ok s → OkR (execAllbankWave stack s) := by
  unfold execAllbankWave; grind (splits := 40) -lia -linarith -ring -order
scoped grind_pattern execAllbankWave_ok => execAllbankWave stack s

theorem State.startKernel_ok (s : State) (k kern ia : Nat) : Ok s → Ok (State.startKernel s k kern ia) := by
  unfold State.startKernel; grind (splits := 40) -lia -linarith -ring -order
scoped grind_pattern State.startKernel_ok => State.startKernel s k kern ia

theorem execNmkickScrub_ok (_who : Who) (stack ia : Nat) (s : State) : Ok s → OkR (execNmkickScrub _who stack ia s) := by
  unfold execNmkickScrub; grind (splits := 40) -lia -linarith -ring -order
scoped grind_pattern execNmkickScrub_ok => execNmkickScrub _who stack ia s

theorem execNmkickMigrationCopy_ok (_who : Who) (stack ia : Nat) (s : State) : Ok s → OkR (execNmkickMigrationCopy _who stack ia s) := by
  unfold execNmkickMigrationCopy; grind (splits := 40) -lia -linarith -ring -order
scoped grind_pattern execNmkickMigrationCopy_ok => execNmkickMigrationCopy _who stack ia s

theorem execNmkickZero_ok (_who : Who) (stack ia : Nat) (s : State) : Ok s → OkR (execNmkickZero _who stack ia s) := by
  unfold execNmkickZero; grind (splits := 40) -lia -linarith -ring -order
scoped grind_pattern execNmkickZero_ok => execNmkickZero _who stack ia s

theorem State.kernelRow_ok (s : State) (k : Nat) (x : Kernel) : Ok s → Ok (State.kernelRow s k x) := by
  unfold State.kernelRow; grind (splits := 40) -lia -linarith -ring -order
scoped grind_pattern State.kernelRow_ok => State.kernelRow s k x

theorem execMicrocodeRowStep_ok (stack : Nat) (s : State) : Ok s → OkR (execMicrocodeRowStep stack s) := by
  unfold execMicrocodeRowStep; grind (splits := 40) -lia -linarith -ring -order
scoped grind_pattern execMicrocodeRowStep_ok => execMicrocodeRowStep stack s

theorem execMicrocodeKernelEnd_ok (stack : Nat) (s : State) : Ok s → OkR (execMicrocodeKernelEnd stack s) := by
  unfold execMicrocodeKernelEnd; grind (splits := 40) -lia -linarith -ring -order
scoped grind_pattern execMicrocodeKernelEnd_ok => execMicrocodeKernelEnd stack s

theorem execReductionAdd_ok (stack : Nat) (s : State) : Ok s → OkR (execReductionAdd stack s) := by
  unfold execReductionAdd; grind (splits := 40) -lia -linarith -ring -order
scoped grind_pattern execReductionAdd_ok => execReductionAdd stack s

/-! ## Command -/

theorem State.settleWindow_ok (s : State) (who : Who) : Ok s → Ok (State.settleWindow s who) := by
  unfold State.settleWindow; grind (splits := 40) -lia -linarith -ring -order
scoped grind_pattern State.settleWindow_ok => State.settleWindow s who

theorem execRrcommitCommit_ok (who : Who) (s : State) : Ok s → OkR (execRrcommitCommit who s) := by
  intro h
  refine Ok.ite (fun _ => State.modWindow_ok _ _ _ h) fun _ => ?_
  exact State.settleWindow_ok _ _ (State.modWindow_ok _ _ _ (Ok.of h rfl rfl rfl rfl))
scoped grind_pattern execRrcommitCommit_ok => execRrcommitCommit who s

theorem execRrcommitFetch_ok (who : Who) (s : State) : Ok s → OkR (execRrcommitFetch who s) := by
  unfold execRrcommitFetch; grind (splits := 40) -lia -linarith -ring -order
scoped grind_pattern execRrcommitFetch_ok => execRrcommitFetch who s

theorem State.settleInv_ok (s : State) (k : Nat) : Ok s → Ok (State.settleInv s k) := by
  unfold State.settleInv; grind (splits := 40) -lia -linarith -ring -order
scoped grind_pattern State.settleInv_ok => State.settleInv s k

theorem execStinv_ok (_who : Who) (k : Nat) (s : State) : Ok s → OkR (execStinv _who k s) := by
  unfold execStinv; grind (splits := 40) -lia -linarith -ring -order
scoped grind_pattern execStinv_ok => execStinv _who k s

theorem execHainv_ok (s : State) : Ok s → OkR (execHainv s) := by
  unfold execHainv; grind (splits := 40) -lia -linarith -ring -order
scoped grind_pattern execHainv_ok => execHainv s

theorem execPiinv_ok (s : State) : Ok s → OkR (execPiinv s) := by
  unfold execPiinv; grind (splits := 40) -lia -linarith -ring -order
scoped grind_pattern execPiinv_ok => execPiinv s

theorem execCminv_ok (s : State) : Ok s → OkR (execCminv s) := by
  unfold execCminv; grind (splits := 40) -lia -linarith -ring -order
scoped grind_pattern execCminv_ok => execCminv s

theorem execIcinv_ok (who : Who) (s : State) : Ok s → OkR (execIcinv who s) := by
  unfold execIcinv; grind (splits := 40) -lia -linarith -ring -order
scoped grind_pattern execIcinv_ok => execIcinv who s

theorem execNmcinv_ok (_who : Who) (k : Nat) (s : State) : Ok s → OkR (execNmcinv _who k s) := by
  unfold execNmcinv; grind (splits := 40) -lia -linarith -ring -order
scoped grind_pattern execNmcinv_ok => execNmcinv _who k s

theorem execReload_ok (_who : Who) (part : Nat) (s : State) : Ok s → OkR (execReload _who part s) := by
  unfold execReload; grind (splits := 40) -lia -linarith -ring -order
scoped grind_pattern execReload_ok => execReload _who part s

theorem State.killQueue_ok (s : State) (part asid : Nat) (r : Rcb) (h : LeafHdr) (x0 : Nat) : Ok s → Ok (State.killQueue s part asid r h x0) := by
  fun_induction State.killQueue s part asid r h x0 <;> grind (splits := 40) -lia -linarith -ring -order
scoped grind_pattern State.killQueue_ok => State.killQueue s part asid r h x0

theorem State.killQueues_ok (s : State) (part asid : Nat) : Ok s → Ok (State.killQueues s part asid) := by
  unfold State.killQueues; grind (splits := 40) -lia -linarith -ring -order
scoped grind_pattern State.killQueues_ok => State.killQueues s part asid

theorem State.killLaunches_ok (s : State) (part asid : Nat) : Ok s → Ok (State.killLaunches s part asid) := by
  unfold State.killLaunches; grind (splits := 40) -lia -linarith -ring -order
scoped grind_pattern State.killLaunches_ok => State.killLaunches s part asid

theorem State.orphanStores_ok (s : State) (part : Nat) (g : Workgroup) : Ok s → Ok (State.orphanStores s part g) := by
  unfold State.orphanStores; grind (splits := 40) -lia -linarith -ring -order
scoped grind_pattern State.orphanStores_ok => State.orphanStores s part g

theorem State.dropCmds_ok (s : State) (k wg : Nat) : Ok s → Ok (State.dropCmds s k wg) := by
  unfold State.dropCmds; grind (splits := 40) -lia -linarith -ring -order
scoped grind_pattern State.dropCmds_ok => State.dropCmds s k wg

theorem State.killWg_ok (s : State) (part : Nat) (g : Workgroup) : Ok s → Ok (State.killWg s part g) := by
  unfold State.killWg; grind (splits := 40) -lia -linarith -ring -order
scoped grind_pattern State.killWg_ok => State.killWg s part g

theorem State.killReqs_ok (s : State) (part asid : Nat) : Ok s → Ok (State.killReqs s part asid) := by
  unfold State.killReqs; grind (splits := 40) -lia -linarith -ring -order
scoped grind_pattern State.killReqs_ok => State.killReqs s part asid

theorem State.orphans_ok (s : State) (part : Nat) : Ok s → Ok (State.orphans s part) := by
  unfold State.orphans; grind (splits := 40) -lia -linarith -ring -order
scoped grind_pattern State.orphans_ok => State.orphans s part

theorem State.killStep_ok (s : State) (part : Nat) : Ok s → Ok (State.killStep s part) := by
  unfold State.killStep; grind (splits := 40) -lia -linarith -ring -order
scoped grind_pattern State.killStep_ok => State.killStep s part

theorem execKill_ok (_who : Who) (part asid : Nat) (s : State) : Ok s → OkR (execKill _who part asid s) := by
  unfold execKill; grind (splits := 40) -lia -linarith -ring -order
scoped grind_pattern execKill_ok => execKill _who part asid s

theorem execPortmapEnable_ok (_who : Who) (port : Nat) (val : Dword) (s : State) : Ok s → OkR (execPortmapEnable _who port val s) := by
  unfold execPortmapEnable; grind (splits := 40) -lia -linarith -ring -order
scoped grind_pattern execPortmapEnable_ok => execPortmapEnable _who port val s

/-! ## Control -/

theorem State.goTo_ok (s : State) (c : Cur) (m : Member) (pc : Nat) : Ok s → Ok (State.goTo s c m pc) := by
  unfold State.goTo; grind (splits := 40) -lia -linarith -ring -order
scoped grind_pattern State.goTo_ok => State.goTo s c m pc

theorem execNop_ok (_h : Hdr) (s : State) : Ok s → OkR (execNop _h s) := by
  unfold execNop; grind (splits := 40) -lia -linarith -ring -order
scoped grind_pattern execNop_ok => execNop _h s

theorem execBr_ok (h : Hdr) (o : OpBr) (s : State) : Ok s → OkR (execBr h o s) := by
  unfold execBr; grind (splits := 40) -lia -linarith -ring -order
scoped grind_pattern execBr_ok => execBr h o s

theorem State.putLink_ok (s : State) (c : Cur) (m : Member) (d pc : Nat) : Ok s → Ok (State.putLink s c m d pc) := by
  unfold State.putLink; grind (splits := 40) -lia -linarith -ring -order
scoped grind_pattern State.putLink_ok => State.putLink s c m d pc

theorem execCall_ok (h : Hdr) (o : OpBr) (s : State) : Ok s → OkR (execCall h o s) := by
  unfold execCall; grind (splits := 40) -lia -linarith -ring -order
scoped grind_pattern execCall_ok => execCall h o s

theorem execBrm_ok (h : Hdr) (o : OpBrm) (s : State) : Ok s → OkR (execBrm h o s) := by
  unfold execBrm; grind (splits := 40) -lia -linarith -ring -order
scoped grind_pattern execBrm_ok => execBrm h o s

theorem execJmpr_ok (h : Hdr) (o : OpA) (s : State) : Ok s → OkR (execJmpr h o s) := by
  unfold execJmpr; grind (splits := 40) -lia -linarith -ring -order
scoped grind_pattern execJmpr_ok => execJmpr h o s

theorem execCallr_ok (h : Hdr) (o : OpDA) (s : State) : Ok s → OkR (execCallr h o s) := by
  unfold execCallr; grind (splits := 40) -lia -linarith -ring -order
scoped grind_pattern execCallr_ok => execCallr h o s

theorem execExit_ok (h : Hdr) (s : State) : Ok s → OkR (execExit h s) := by
  unfold execExit; grind (splits := 40) -lia -linarith -ring -order
scoped grind_pattern execExit_ok => execExit h s

theorem execLit32_ok (h : Hdr) (o : OpLit) (s : State) : Ok s → OkR (execLit32 h o s) := by
  unfold execLit32; grind (splits := 40) -lia -linarith -ring -order
scoped grind_pattern execLit32_ok => execLit32 h o s

theorem execTrap_ok (h : Hdr) (o : OpTrap) (s : State) : Ok s → OkR (execTrap h o s) := by
  unfold execTrap; grind (splits := 40) -lia -linarith -ring -order
scoped grind_pattern execTrap_ok => execTrap h o s

theorem execYieldTurn_ok (h : Hdr) (s : State) : Ok s → OkR (execYieldTurn h s) := by
  unfold execYieldTurn; grind (splits := 40) -lia -linarith -ring -order
scoped grind_pattern execYieldTurn_ok => execYieldTurn h s

theorem execHset_ok (h : Hdr) (o : OpHset) (s : State) : Ok s → OkR (execHset h o s) := by
  unfold execHset; grind (splits := 40) -lia -linarith -ring -order
scoped grind_pattern execHset_ok => execHset h o s

theorem execRejoin_ok (h : Hdr) (o : OpHitch) (s : State) : Ok s → OkR (execRejoin h o s) := by
  unfold execRejoin; grind (splits := 40) -lia -linarith -ring -order
scoped grind_pattern execRejoin_ok => execRejoin h o s

theorem execBar_ok (h : Hdr) (s : State) : Ok s → OkR (execBar h s) := by
  unfold execBar; grind (splits := 40) -lia -linarith -ring -order
scoped grind_pattern execBar_ok => execBar h s

theorem execSleep_ok (h : Hdr) (o : OpA) (s : State) : Ok s → OkR (execSleep h o s) := by
  unfold execSleep; grind (splits := 40) -lia -linarith -ring -order
scoped grind_pattern execSleep_ok => execSleep h o s

theorem execWaitge_ok (h : Hdr) (o : OpWait) (s : State) : Ok s → OkR (execWaitge h o s) := by
  unfold execWaitge; grind (splits := 40) -lia -linarith -ring -order
scoped grind_pattern execWaitge_ok => execWaitge h o s

theorem execWaitp_ok (h : Hdr) (o : OpWaitP) (s : State) : Ok s → OkR (execWaitp h o s) := by
  unfold execWaitp; grind (splits := 40) -lia -linarith -ring -order
scoped grind_pattern execWaitp_ok => execWaitp h o s

theorem execSleepWake_ok (s : State) : Ok s → OkR (execSleepWake s) := by
  unfold execSleepWake; grind (splits := 40) -lia -linarith -ring -order
scoped grind_pattern execSleepWake_ok => execSleepWake s

theorem State.waitRead_ok (s : State) (wg t va : Nat) (once : Bool) : Ok s → Ok (State.waitRead s wg t va once) := by
  unfold State.waitRead; grind (splits := 40) -lia -linarith -ring -order
scoped grind_pattern State.waitRead_ok => State.waitRead s wg t va once

theorem execWaitgeReread_ok (wg t : Nat) (s : State) : Ok s → OkR (execWaitgeReread wg t s) := by
  unfold execWaitgeReread; grind (splits := 40) -lia -linarith -ring -order
scoped grind_pattern execWaitgeReread_ok => execWaitgeReread wg t s

theorem execWaitpRead_ok (wg t : Nat) (s : State) : Ok s → OkR (execWaitpRead wg t s) := by
  unfold execWaitpRead; grind (splits := 40) -lia -linarith -ring -order
scoped grind_pattern execWaitpRead_ok => execWaitpRead wg t s

theorem execHitchDeadlock_ok (wg : Nat) (s : State) : Ok s → OkR (execHitchDeadlock wg s) := by
  unfold execHitchDeadlock; grind (splits := 40) -lia -linarith -ring -order
scoped grind_pattern execHitchDeadlock_ok => execHitchDeadlock wg s

/-! ## EngineCmd -/

theorem engWord_ok (op : EngOp) (hitch a q : Nat) (d : Option Nat) (s : State) (c : Cur) (m : Member) : Ok s → OkE (engWord op hitch a q d s c m) := by
  unfold engWord; grind (splits := 40) -lia -linarith -ring -order
scoped grind_pattern engWord_ok => engWord op hitch a q d s c m

theorem mxrdWord_ok (o : OpDAQ) (s : State) (c : Cur) (m : Member) : Ok s → OkE (mxrdWord o s c m) := by
  unfold mxrdWord; grind (splits := 40) -lia -linarith -ring -order
scoped grind_pattern mxrdWord_ok => mxrdWord o s c m

theorem mxstatWord_ok (o : OpDQ) (s : State) (c : Cur) (m : Member) : Ok s → OkE (mxstatWord o s c m) := by
  unfold mxstatWord; grind (splits := 40) -lia -linarith -ring -order
scoped grind_pattern mxstatWord_ok => mxstatWord o s c m

theorem doStcfg_ok (o : OpAQ) (s : State) (c : Cur) (live : List (Nat × Member)) : Ok s → Ok (doStcfg o s c live) := by
  unfold doStcfg; grind (splits := 40) -lia -linarith -ring -order
scoped grind_pattern doStcfg_ok => doStcfg o s c live

theorem execMxs_ok (h : Hdr) (o : OpEnA) (s : State) : Ok s → OkR (execMxs h o s) := by
  unfold execMxs; grind (splits := 40) -lia -linarith -ring -order
scoped grind_pattern execMxs_ok => execMxs h o s

theorem execSmx_ok (h : Hdr) (o : OpEnA) (s : State) : Ok s → OkR (execSmx h o s) := by
  unfold execSmx; grind (splits := 40) -lia -linarith -ring -order
scoped grind_pattern execSmx_ok => execSmx h o s

theorem execMxrd_ok (h : Hdr) (o : OpDAQ) (s : State) : Ok s → OkR (execMxrd h o s) := by
  unfold execMxrd; grind (splits := 40) -lia -linarith -ring -order
scoped grind_pattern execMxrd_ok => execMxrd h o s

theorem execMxstat_ok (h : Hdr) (o : OpDQ) (s : State) : Ok s → OkR (execMxstat h o s) := by
  unfold execMxstat; grind (splits := 40) -lia -linarith -ring -order
scoped grind_pattern execMxstat_ok => execMxstat h o s

theorem execCpbox_ok (h : Hdr) (o : OpEn) (s : State) : Ok s → OkR (execCpbox h o s) := by
  unfold execCpbox; grind (splits := 40) -lia -linarith -ring -order
scoped grind_pattern execCpbox_ok => execCpbox h o s

theorem execCplin_ok (h : Hdr) (o : OpEn) (s : State) : Ok s → OkR (execCplin h o s) := by
  unfold execCplin; grind (splits := 40) -lia -linarith -ring -order
scoped grind_pattern execCplin_ok => execCplin h o s

theorem execStcfg_ok (h : Hdr) (o : OpAQ) (s : State) : Ok s → OkR (execStcfg h o s) := by
  unfold execStcfg; grind (splits := 40) -lia -linarith -ring -order
scoped grind_pattern execStcfg_ok => execStcfg h o s

theorem execRtplan_ok (h : Hdr) (o : OpEnS) (s : State) : Ok s → OkR (execRtplan h o s) := by
  unfold execRtplan; grind (splits := 40) -lia -linarith -ring -order
scoped grind_pattern execRtplan_ok => execRtplan h o s

theorem execRtscat_ok (h : Hdr) (o : OpEnS) (s : State) : Ok s → OkR (execRtscat h o s) := by
  unfold execRtscat; grind (splits := 40) -lia -linarith -ring -order
scoped grind_pattern execRtscat_ok => execRtscat h o s

theorem execRtcomb_ok (h : Hdr) (o : OpEnS) (s : State) : Ok s → OkR (execRtcomb h o s) := by
  unfold execRtcomb; grind (splits := 40) -lia -linarith -ring -order
scoped grind_pattern execRtcomb_ok => execRtcomb h o s

theorem execNmcall_ok (h : Hdr) (o : OpEnN) (s : State) : Ok s → OkR (execNmcall h o s) := by
  unfold execNmcall; grind (splits := 40) -lia -linarith -ring -order
scoped grind_pattern execNmcall_ok => execNmcall h o s

/-! ## Evict -/

theorem State.poolSet_ok (s : State) (part i : Nat) (b : Bool) : Ok s → Ok (State.poolSet s part i b) := by
  intro h
  unfold State.poolSet
  exact Ok.ite (fun _ => h) fun _ => State.putDouble_ok _ _ _ h
scoped grind_pattern State.poolSet_ok => State.poolSet s part i b

theorem State.putNfree_ok (s : State) (part n : Nat) : Ok s → Ok (State.putNfree s part n) := by
  unfold State.putNfree; grind (splits := 40) -lia -linarith -ring -order
scoped grind_pattern State.putNfree_ok => State.putNfree s part n

theorem State.putLeaves_ok (s : State) (k : Nat) (ls : List Leaf) (f : Nat → Nat) : Ok s → Ok (State.putLeaves s k ls f) := by
  unfold State.putLeaves; grind (splits := 40) -lia -linarith -ring -order
scoped grind_pattern State.putLeaves_ok => State.putLeaves s k ls f

theorem State.pageOut_ok (s : State) (k page off : Nat) (x0 : Nat) : Ok s → OkE (State.pageOut s k page off x0) := by
  fun_induction State.pageOut s k page off x0 <;> grind (splits := 40) -lia -linarith -ring -order
scoped grind_pattern State.pageOut_ok => State.pageOut s k page off x0

theorem State.pageIn_ok (s : State) (k page off : Nat) (x0 : Nat) : Ok s → OkE (State.pageIn s k page off x0) := by
  fun_induction State.pageIn s k page off x0 <;> grind (splits := 40) -lia -linarith -ring -order
scoped grind_pattern State.pageIn_ok => State.pageIn s k page off x0

theorem State.leftPage_ok (s : State) (r : Except MErr State) (part k page off : Nat) : Ok s → OkE r → OkV (State.leftPage s r part k page off) := by
  intro h hr
  unfold State.leftPage
  split
  · exact trivial
  · exact State.putNfree_ok _ _ _ (State.putDouble_ok _ _ _ (State.putLeaves_ok _ _ _ _ hr))
scoped grind_pattern State.leftPage_ok => State.leftPage s r part k page off

theorem State.evictPage_ok (s : State) (part k page : Nat) : Ok s → OkV (State.evictPage s part k page) := by
  intro h
  unfold State.evictPage
  extract_lets p
  split
  · exact trivial
  · split
    · exact trivial
    · exact State.leftPage_ok _ _ _ _ _ _ h (State.pageOut_ok _ _ _ _ _ (State.putLeaves_ok _ _ _ _ (State.poolSet_ok _ _ _ _ h)))
scoped grind_pattern State.evictPage_ok => State.evictPage s part k page

theorem State.landPage_ok (s : State) (r : Except MErr State) (part k pool : Nat) (e : Nat × Nat × Nat) : Ok s → OkE r → Ok (State.landPage s r part k pool e) := by
  intro h hr
  unfold State.landPage
  split
  · exact h
  · exact State.replayStack_ok _ _ (State.poolSet_ok _ _ _ _ (State.putLeaves_ok _ _ _ _ (State.putNfree_ok _ _ _ (State.putDouble_ok _ _ _ hr))))
scoped grind_pattern State.landPage_ok => State.landPage s r part k pool e

theorem State.bringPage_ok (s : State) (part k pool : Nat) (e : Nat × Nat × Nat) : Ok s → Ok (State.bringPage s part k pool e) := by
  intro h
  exact State.landPage_ok _ _ _ _ _ _ h (State.pageIn_ok _ _ _ _ _ h)
scoped grind_pattern State.bringPage_ok => State.bringPage s part k pool e

theorem State.starve_ok (s : State) (part : Nat) (l : Launch) : Ok s → Ok (State.starve s part l) := by
  unfold State.starve; grind (splits := 40) -lia -linarith -ring -order
scoped grind_pattern State.starve_ok => State.starve s part l

theorem State.evictFor_ok (s : State) (part k : Nat) (l : Launch) : Ok s → Ok (State.evictFor s part k l) := by
  unfold State.evictFor; grind (splits := 40) -lia -linarith -ring -order
scoped grind_pattern State.evictFor_ok => State.evictFor s part k l

theorem execPageEvict_ok (s : State) : Ok s → OkR (execPageEvict s) := by
  unfold execPageEvict; grind (splits := 40) -lia -linarith -ring -order
scoped grind_pattern execPageEvict_ok => execPageEvict s

theorem State.bringBack_ok (s : State) (w : Want) : Ok s → Ok (State.bringBack s w) := by
  intro h
  unfold State.bringBack
  split
  · exact h
  · refine Ok.ite (fun _ => h) fun _ => ?_
    split
    · exact State.bringPage_ok _ _ _ _ _ h
    · split
      · exact h
      · split
        · rename_i e
          exact OkV.get e (State.evictPage_ok _ _ _ _ h)
        · exact Ok.ite (fun _ => h) fun _ => State.starve_ok _ _ _ h
        · exact h
scoped grind_pattern State.bringBack_ok => State.bringBack s w

theorem execPageBringBack_ok (s : State) : Ok s → OkR (execPageBringBack s) := by
  intro h
  exact foldl_ok _ _ _ h (fun t w ht => State.bringBack_ok t w ht)
scoped grind_pattern execPageBringBack_ok => execPageBringBack s

end Sys2Proof.Laws.MemOk
end

