-- ==== Sys2Proof/Laws/MemOkSystem.lean ====
section
/-! SUPPORT. What keeps the memories well formed (`State.memOk`): one lemma for each operation and each meaning of
the walker events, faults, the host side, the system registers and a cc. With
`open Sys2Proof.Laws.MemOk` the lemmas are patterns of `grind` as well. -/

namespace Sys2Proof.Laws.MemOk
set_option Elab.async false
open Sys2Proof Sys2Proof.Machine Sys2Proof.Machine.Num

/-! ## Walker -/

theorem State.nodeErr_ok (s : State) (part : Nat) (x0 : MErr) : Ok s → OkN (State.nodeErr s part x0) := by
  unfold State.nodeErr; grind (splits := 40) -lia -linarith -ring -order
scoped grind_pattern State.nodeErr_ok => State.nodeErr s part x0

theorem State.nodeRead_ok (s : State) (part at_ v n : Nat) (f : State → List Nat → NodeRes) : Ok s → (∀ (y0 : State) (y1 : List Nat), Ok y0 → OkN (f y0 y1)) → OkN (State.nodeRead s part at_ v n f) := by
  unfold State.nodeRead; grind (splits := 40) -lia -linarith -ring -order
scoped grind_pattern State.nodeRead_ok => State.nodeRead s part at_ v n f

theorem State.launchNode_ok (s : State) (part g j at_ : Nat) (nd : Node) : Ok s → OkN (State.launchNode s part g j at_ nd) := by
  unfold State.launchNode; grind (splits := 40) -lia -linarith -ring -order
scoped grind_pattern State.launchNode_ok => State.launchNode s part g j at_ nd

theorem State.copyNode_ok (s : State) (part g j at_ : Nat) (nd : Node) : Ok s → OkN (State.copyNode s part g j at_ nd) := by
  unfold State.copyNode; grind (splits := 40) -lia -linarith -ring -order
scoped grind_pattern State.copyNode_ok => State.copyNode s part g j at_ nd

theorem State.nodeWord_ok (s : State) (part at_ : Nat) (nd : Node) (f : State → Nat → NodeRes) : Ok s → (∀ (y0 : State) (y1 : Nat), Ok y0 → OkN (f y0 y1)) → OkN (State.nodeWord s part at_ nd f) := by
  unfold State.nodeWord; grind (splits := 40) -lia -linarith -ring -order
scoped grind_pattern State.nodeWord_ok => State.nodeWord s part at_ nd f

theorem State.nodeWork_ok (s : State) (part g j at_ : Nat) (nd : Node) : Ok s → OkN (State.nodeWork s part g j at_ nd) := by
  unfold State.nodeWork; grind (splits := 40) -lia -linarith -ring -order
scoped grind_pattern State.nodeWork_ok => State.nodeWork s part g j at_ nd

theorem State.haltGraph_ok (s : State) (part g cause info : Nat) : Ok s → Ok (State.haltGraph s part g cause info) := by
  unfold State.haltGraph; grind (splits := 40) -lia -linarith -ring -order
scoped grind_pattern State.haltGraph_ok => State.haltGraph s part g cause info

theorem State.nodeThen_ok (s : State) (part g j : Nat) (x0 : NodeRes) : Ok s → OkN x0 → Ok (State.nodeThen s part g j x0) := by
  unfold State.nodeThen; grind (splits := 40) -lia -linarith -ring -order
scoped grind_pattern State.nodeThen_ok => State.nodeThen s part g j x0

theorem State.runNode_ok (s : State) (part : Nat) (x : Graph) (j : Nat) : Ok s → Ok (State.runNode s part x j) := by
  unfold State.runNode; grind (splits := 40) -lia -linarith -ring -order
scoped grind_pattern State.runNode_ok => State.runNode s part x j

theorem State.beginNode_ok (s : State) (part g j : Nat) : Ok s → Ok (State.beginNode s part g j) := by
  unfold State.beginNode; grind (splits := 40) -lia -linarith -ring -order
scoped grind_pattern State.beginNode_ok => State.beginNode s part g j

theorem State.copyErr_ok (s : State) (part g id : Nat) (x0 : EErr) : Ok s → Ok (State.copyErr s part g id x0) := by
  unfold State.copyErr; grind (splits := 40) -lia -linarith -ring -order
scoped grind_pattern State.copyErr_ok => State.copyErr s part g id x0

theorem State.copyStep_ok (s : State) (die : Nat) : Ok s → Ok (State.copyStep s die) := by
  unfold State.copyStep; grind (splits := 40) -lia -linarith -ring -order
scoped grind_pattern State.copyStep_ok => State.copyStep s die

theorem State.fifoStep_ok (s : State) (die : Nat) : Ok s → Ok (State.fifoStep s die) := by
  unfold State.fifoStep; grind (splits := 40) -lia -linarith -ring -order
scoped grind_pattern State.fifoStep_ok => State.fifoStep s die

theorem execWalkerNodeStep_ok (s : State) : Ok s → OkR (execWalkerNodeStep s) := by
  unfold execWalkerNodeStep; grind (splits := 40) -lia -linarith -ring -order
scoped grind_pattern execWalkerNodeStep_ok => execWalkerNodeStep s

theorem execLaunchNodeRetry_ok (s : State) : Ok s → OkR (execLaunchNodeRetry s) := by
  unfold execLaunchNodeRetry; grind (splits := 40) -lia -linarith -ring -order
scoped grind_pattern execLaunchNodeRetry_ok => execLaunchNodeRetry s

/-! ## Faults -/

theorem execAsyncTrap_ok (wg t : Nat) (s : State) : Ok s → OkR (execAsyncTrap wg t s) := by
  unfold execAsyncTrap; grind (splits := 40) -lia -linarith -ring -order
scoped grind_pattern execAsyncTrap_ok => execAsyncTrap wg t s

theorem State.stopWg_ok (s : State) (wg : Nat) (f : FaultInfo) : Ok s → Ok (State.stopWg s wg f) := by
  unfold State.stopWg; grind (splits := 40) -lia -linarith -ring -order
scoped grind_pattern State.stopWg_ok => State.stopWg s wg f

theorem State.countFatal_ok (s : State) (g : Workgroup) (f : FaultInfo) : Ok s → Ok (State.countFatal s g f) := by
  unfold State.countFatal; grind (splits := 40) -lia -linarith -ring -order
scoped grind_pattern State.countFatal_ok => State.countFatal s g f

theorem State.endMember_ok (s : State) (f : FaultInfo) (g : Workgroup) : Ok s → Ok (State.endMember s f g) := by
  unfold State.endMember; grind (splits := 40) -lia -linarith -ring -order
scoped grind_pattern State.endMember_ok => State.endMember s f g

theorem execWorkgroupFatal_ok (wg : Nat) (s : State) : Ok s → OkR (execWorkgroupFatal wg s) := by
  unfold execWorkgroupFatal; grind (splits := 40) -lia -linarith -ring -order
scoped grind_pattern execWorkgroupFatal_ok => execWorkgroupFatal wg s

theorem State.haltDomain_ok (s : State) (part dom : Nat) (f : FaultInfo) : Ok s → Ok (State.haltDomain s part dom f) := by
  unfold State.haltDomain; grind (splits := 40) -lia -linarith -ring -order
scoped grind_pattern State.haltDomain_ok => State.haltDomain s part dom f

theorem State.regionFault_ok (s : State) (x : RegionFault) : Ok s → Ok (State.regionFault s x) := by
  unfold State.regionFault; grind (splits := 40) -lia -linarith -ring -order
scoped grind_pattern State.regionFault_ok => State.regionFault s x

theorem execRegionFatal_ok (s : State) : Ok s → OkR (execRegionFatal s) := by
  unfold execRegionFatal; grind (splits := 40) -lia -linarith -ring -order
scoped grind_pattern execRegionFatal_ok => execRegionFatal s

theorem execCounterAddFail_ok (s : State) : Ok s → OkR (execCounterAddFail s) := by
  unfold execCounterAddFail; grind (splits := 40) -lia -linarith -ring -order
scoped grind_pattern execCounterAddFail_ok => execCounterAddFail s

theorem State.capacity_ok (s : State) (die unit kind remain where_ : Nat) : Ok s → Ok (State.capacity s die unit kind remain where_) := by
  intro h
  unfold State.capacity
  exact State.msix_ok _ _ (Ok.ite (fun _ => h) (fun _ => State.modPower_ok _ _ _ (State.putBytes_ok _ _ _ _ h)))
scoped grind_pattern State.capacity_ok => State.capacity s die unit kind remain where_

theorem State.markCluster_ok (s : State) (cl : Nat) : Ok s → Ok (State.markCluster s cl) := by
  unfold State.markCluster; grind (splits := 40) -lia -linarith -ring -order
scoped grind_pattern State.markCluster_ok => State.markCluster s cl

theorem State.markClusters_ok (s : State) : Ok s → Ok (State.markClusters s) := by
  unfold State.markClusters; grind (splits := 40) -lia -linarith -ring -order
scoped grind_pattern State.markClusters_ok => State.markClusters s

theorem execClusterSubstitute_ok (cl : Nat) (s : State) : Ok s → OkR (execClusterSubstitute cl s) := by
  unfold execClusterSubstitute; grind (splits := 40) -lia -linarith -ring -order
scoped grind_pattern execClusterSubstitute_ok => execClusterSubstitute cl s

theorem execRowRetire_ok (stack row : Nat) (s : State) : Ok s → OkR (execRowRetire stack row s) := by
  unfold execRowRetire; grind (splits := 40) -lia -linarith -ring -order
scoped grind_pattern execRowRetire_ok => execRowRetire stack row s

theorem State.liveTile_ok (s : State) (cl : Nat) : Ok s → Ok (State.liveTile s cl) := by
  unfold State.liveTile; grind (splits := 40) -lia -linarith -ring -order
scoped grind_pattern State.liveTile_ok => State.liveTile s cl

theorem State.poisonLine_ok (s : State) (l : Line) : Ok s → Ok (State.poisonLine s l) := by
  unfold State.poisonLine; grind (splits := 40) -lia -linarith -ring -order
scoped grind_pattern State.poisonLine_ok => State.poisonLine s l

theorem State.uncorrectable_ok (s : State) (x0 : ErrSite) : Ok s → Ok (State.uncorrectable s x0) := by
  unfold State.uncorrectable; grind (splits := 40) -lia -linarith -ring -order
scoped grind_pattern State.uncorrectable_ok => State.uncorrectable s x0

theorem execUncorrectableError_ok (s : State) : Ok s → OkR (execUncorrectableError s) := by
  unfold execUncorrectableError; grind (splits := 40) -lia -linarith -ring -order
scoped grind_pattern execUncorrectableError_ok => execUncorrectableError s

theorem State.countCorrected_ok (s : State) (die kind : Nat) : Ok s → Ok (State.countCorrected s die kind) := by
  unfold State.countCorrected; grind (splits := 40) -lia -linarith -ring -order
scoped grind_pattern State.countCorrected_ok => State.countCorrected s die kind

theorem State.clusterCorrected_ok (s : State) (core kind : Nat) : Ok s → Ok (State.clusterCorrected s core kind) := by
  unfold State.clusterCorrected; grind (splits := 40) -lia -linarith -ring -order
scoped grind_pattern State.clusterCorrected_ok => State.clusterCorrected s core kind

theorem execCorrectedError_ok (s : State) : Ok s → OkR (execCorrectedError s) := by
  unfold execCorrectedError; grind (splits := 40) -lia -linarith -ring -order
scoped grind_pattern execCorrectedError_ok => execCorrectedError s

theorem State.losePeer_ok (s : State) (d : Nat) : Ok s → Ok (State.losePeer s d) := by
  unfold State.losePeer; grind (splits := 40) -lia -linarith -ring -order
scoped grind_pattern State.losePeer_ok => State.losePeer s d

theorem execPeerRetry_ok (id : Nat) (s : State) : Ok s → OkR (execPeerRetry id s) := by
  unfold execPeerRetry; grind (splits := 40) -lia -linarith -ring -order
scoped grind_pattern execPeerRetry_ok => execPeerRetry id s

theorem execPeerLost_ok (s : State) : Ok s → OkR (execPeerLost s) := by
  unfold execPeerLost; grind (splits := 40) -lia -linarith -ring -order
scoped grind_pattern execPeerLost_ok => execPeerLost s

theorem execLaneFailure_ok (s : State) : Ok s → OkR (execLaneFailure s) := by
  unfold execLaneFailure; grind (splits := 40) -lia -linarith -ring -order
scoped grind_pattern execLaneFailure_ok => execLaneFailure s

theorem execLaneRetrainDone_ok (port : Nat) (s : State) : Ok s → OkR (execLaneRetrainDone port s) := by
  unfold execLaneRetrainDone; grind (splits := 40) -lia -linarith -ring -order
scoped grind_pattern execLaneRetrainDone_ok => execLaneRetrainDone port s

theorem execUalinkPortUp_ok (s : State) : Ok s → OkR (execUalinkPortUp s) := by
  unfold execUalinkPortUp; grind (splits := 40) -lia -linarith -ring -order
scoped grind_pattern execUalinkPortUp_ok => execUalinkPortUp s

theorem execCxlLinkDown_ok (s : State) : Ok s → OkR (execCxlLinkDown s) := by
  unfold execCxlLinkDown; grind (splits := 40) -lia -linarith -ring -order
scoped grind_pattern execCxlLinkDown_ok => execCxlLinkDown s

theorem execCxlLinkUp_ok (s : State) : Ok s → OkR (execCxlLinkUp s) := by
  unfold execCxlLinkUp; grind (splits := 40) -lia -linarith -ring -order
scoped grind_pattern execCxlLinkUp_ok => execCxlLinkUp s

/-! ## Host -/

theorem State.windowIa_ok (s : State) (hpa : Nat) (write : Bool) : Ok s → OkEP (State.windowIa s hpa write) := by
  unfold State.windowIa; grind (splits := 40) -lia -linarith -ring -order
scoped grind_pattern State.windowIa_ok => State.windowIa s hpa write

theorem State.linkPoison_ok (s : State) (ia n : Nat) : Ok s → Ok (State.linkPoison s ia n) := by
  unfold State.linkPoison; grind (splits := 40) -lia -linarith -ring -order
scoped grind_pattern State.linkPoison_ok => State.linkPoison s ia n

theorem execHostMemRead_ok (s : State) : Ok s → OkR (execHostMemRead s) := by
  unfold execHostMemRead; grind (splits := 40) -lia -linarith -ring -order
scoped grind_pattern execHostMemRead_ok => execHostMemRead s

theorem execHostMemWrite_ok (s : State) : Ok s → OkR (execHostMemWrite s) := by
  unfold execHostMemWrite; grind (splits := 40) -lia -linarith -ring -order
scoped grind_pattern execHostMemWrite_ok => execHostMemWrite s

theorem execHostSnoop_ok (s : State) : Ok s → OkR (execHostSnoop s) := by
  intro h
  refine Ok.ite (fun _ => h) fun _ => State.emit_ok _ _ ?_
  exact Ok.ite (fun _ => Ok.hostPut h _ _ rfl rfl rfl rfl) fun _ => h
scoped grind_pattern execHostSnoop_ok => execHostSnoop s

theorem State.bar4Word_ok (s : State) (o v : Nat) : Ok s → Ok (State.bar4Word s o v) := by
  unfold State.bar4Word; grind (splits := 40) -lia -linarith -ring -order
scoped grind_pattern State.bar4Word_ok => State.bar4Word s o v

theorem State.bar4Write_ok (s : State) (off v : Nat) : Ok s → Ok (State.bar4Write s off v) := by
  unfold State.bar4Write; grind (splits := 40) -lia -linarith -ring -order
scoped grind_pattern State.bar4Write_ok => State.bar4Write s off v

theorem State.bar2Put_ok (s : State) (o v : Nat) : Ok s → Ok (State.bar2Put s o v) := by
  unfold State.bar2Put; grind (splits := 40) -lia -linarith -ring -order
scoped grind_pattern State.bar2Put_ok => State.bar2Put s o v

theorem State.bar2Write_ok (s : State) (off v : Nat) : Ok s → Ok (State.bar2Write s off v) := by
  unfold State.bar2Write; grind (splits := 40) -lia -linarith -ring -order
scoped grind_pattern State.bar2Write_ok => State.bar2Write s off v

theorem State.barWrite_ok (s : State) (bar off v : Nat) : Ok s → Ok (State.barWrite s bar off v) := by
  unfold State.barWrite; grind (splits := 40) -lia -linarith -ring -order
scoped grind_pattern State.barWrite_ok => State.barWrite s bar off v

theorem execHostRegisterAccess_ok (s : State) : Ok s → OkR (execHostRegisterAccess s) := by
  unfold execHostRegisterAccess; grind (splits := 40) -lia -linarith -ring -order
scoped grind_pattern execHostRegisterAccess_ok => execHostRegisterAccess s

theorem execMsixUnmask_ok (s : State) : Ok s → OkR (execMsixUnmask s) := by
  unfold execMsixUnmask; grind (splits := 40) -lia -linarith -ring -order
scoped grind_pattern execMsixUnmask_ok => execMsixUnmask s

theorem execPeerRead_ok (s : State) : Ok s → OkR (execPeerRead s) := by
  unfold execPeerRead; grind (splits := 40) -lia -linarith -ring -order
scoped grind_pattern execPeerRead_ok => execPeerRead s

theorem State.peerAnswer_ok (s : State) (o : Out) : Ok s → Ok (State.peerAnswer s o) := by
  unfold State.peerAnswer; grind (splits := 40) -lia -linarith -ring -order
scoped grind_pattern State.peerAnswer_ok => State.peerAnswer s o

theorem execPeerWrite_ok (s : State) : Ok s → OkR (execPeerWrite s) := by
  unfold execPeerWrite; grind (splits := 40) -lia -linarith -ring -order
scoped grind_pattern execPeerWrite_ok => execPeerWrite s

theorem execPeerAtomic_ok (s : State) : Ok s → OkR (execPeerAtomic s) := by
  unfold execPeerAtomic; grind (splits := 40) -lia -linarith -ring -order
scoped grind_pattern execPeerAtomic_ok => execPeerAtomic s

theorem keepRepairs_ok (old new : State) : Ok old → Ok new → Ok (keepRepairs old new) := by
  unfold keepRepairs; grind (splits := 40) -lia -linarith -ring -order
scoped grind_pattern keepRepairs_ok => keepRepairs old new

theorem State.bootBoth_ok (s : State) (st slot svn : Nat) : Ok s → Ok (State.bootBoth s st slot svn) := by
  unfold State.bootBoth; grind (splits := 40) -lia -linarith -ring -order
scoped grind_pattern State.bootBoth_ok => State.bootBoth s st slot svn

theorem State.cleared_ok (s : State) : Ok s → Ok (State.cleared s) := by
  intro h
  exact Ok.fresh h rfl rfl rfl rfl
scoped grind_pattern State.cleared_ok => State.cleared s

theorem State.bootNext_ok (s : State) : Ok s → Ok (State.bootNext s) := by
  unfold State.bootNext; grind (splits := 40) -lia -linarith -ring -order
scoped grind_pattern State.bootNext_ok => State.bootNext s

theorem State.bootTick_ok (s : State) : Ok s → Ok (State.bootTick s) := by
  unfold State.bootTick; grind (splits := 40) -lia -linarith -ring -order
scoped grind_pattern State.bootTick_ok => State.bootTick s

theorem State.booted_ok (s : State) : Ok s → Ok (State.booted s) := by
  unfold State.booted; grind (splits := 40) -lia -linarith -ring -order
scoped grind_pattern State.booted_ok => State.booted s

theorem execResetDevice_ok (s : State) : Ok s → OkR (execResetDevice s) := by
  intro h
  exact (OkR.next _).mpr (keepRepairs_ok s s.cleared h (State.cleared_ok s h))
scoped grind_pattern execResetDevice_ok => execResetDevice s

theorem State.answer_ok (s : State) (resp : List Byte) : Ok s → Ok (State.answer s resp) := by
  unfold State.answer; grind (splits := 40) -lia -linarith -ring -order
scoped grind_pattern State.answer_ok => State.answer s resp

theorem State.unserved_ok (s : State) : Ok s → Ok (State.unserved s) := by
  unfold State.unserved; grind (splits := 40) -lia -linarith -ring -order
scoped grind_pattern State.unserved_ok => State.unserved s

theorem execSpdmGetVersion_ok (s : State) : Ok s → OkR (execSpdmGetVersion s) := by
  unfold execSpdmGetVersion; grind (splits := 40) -lia -linarith -ring -order
scoped grind_pattern execSpdmGetVersion_ok => execSpdmGetVersion s

theorem execSpdmGetCapabilities_ok (s : State) : Ok s → OkR (execSpdmGetCapabilities s) := by
  unfold execSpdmGetCapabilities; grind (splits := 40) -lia -linarith -ring -order
scoped grind_pattern execSpdmGetCapabilities_ok => execSpdmGetCapabilities s

theorem execSpdmNegotiateAlgorithms_ok (s : State) : Ok s → OkR (execSpdmNegotiateAlgorithms s) := by
  unfold execSpdmNegotiateAlgorithms; grind (splits := 40) -lia -linarith -ring -order
scoped grind_pattern execSpdmNegotiateAlgorithms_ok => execSpdmNegotiateAlgorithms s

theorem execSpdmGetDigests_ok (s : State) : Ok s → OkR (execSpdmGetDigests s) := by
  unfold execSpdmGetDigests; grind (splits := 40) -lia -linarith -ring -order
scoped grind_pattern execSpdmGetDigests_ok => execSpdmGetDigests s

theorem execSpdmGetCertificate_ok (s : State) : Ok s → OkR (execSpdmGetCertificate s) := by
  unfold execSpdmGetCertificate; grind (splits := 40) -lia -linarith -ring -order
scoped grind_pattern execSpdmGetCertificate_ok => execSpdmGetCertificate s

theorem State.signed_ok (s : State) (slot : Nat) (head body : List Byte) : Ok s → Ok (State.signed s slot head body) := by
  unfold State.signed; grind (splits := 40) -lia -linarith -ring -order
scoped grind_pattern State.signed_ok => State.signed s slot head body

theorem execSpdmChallenge_ok (s : State) : Ok s → OkR (execSpdmChallenge s) := by
  unfold execSpdmChallenge; grind (splits := 40) -lia -linarith -ring -order
scoped grind_pattern execSpdmChallenge_ok => execSpdmChallenge s

theorem execSpdmGetMeasurements_ok (s : State) : Ok s → OkR (execSpdmGetMeasurements s) := by
  unfold execSpdmGetMeasurements; grind (splits := 40) -lia -linarith -ring -order
scoped grind_pattern execSpdmGetMeasurements_ok => execSpdmGetMeasurements s

/-! ## SysReg -/

theorem sysrdWord_ok (o : OpSys) (s : State) (c : Cur) (m : Member) : Ok s → OkE (sysrdWord o s c m) := by
  unfold sysrdWord; grind (splits := 40) -lia -linarith -ring -order
scoped grind_pattern sysrdWord_ok => sysrdWord o s c m

theorem syswrWord_ok (o : OpSys) (s : State) (c : Cur) (m : Member) : Ok s → OkE (syswrWord o s c m) := by
  unfold syswrWord; grind (splits := 40) -lia -linarith -ring -order
scoped grind_pattern syswrWord_ok => syswrWord o s c m

theorem flagsWord_ok (o : OpD) (s : State) (c : Cur) (m : Member) : Ok s → OkE (flagsWord o s c m) := by
  unfold flagsWord; grind (splits := 40) -lia -linarith -ring -order
scoped grind_pattern flagsWord_ok => flagsWord o s c m

theorem trapretWord_ok (s : State) (c : Cur) (m : Member) : Ok s → OkE (trapretWord s c m) := by
  unfold trapretWord; grind (splits := 40) -lia -linarith -ring -order
scoped grind_pattern trapretWord_ok => trapretWord s c m

theorem execSysrd_ok (h : Hdr) (o : OpSys) (s : State) : Ok s → OkR (execSysrd h o s) := by
  unfold execSysrd; grind (splits := 40) -lia -linarith -ring -order
scoped grind_pattern execSysrd_ok => execSysrd h o s

theorem execSyswr_ok (h : Hdr) (o : OpSys) (s : State) : Ok s → OkR (execSyswr h o s) := by
  unfold execSyswr; grind (splits := 40) -lia -linarith -ring -order
scoped grind_pattern execSyswr_ok => execSyswr h o s

theorem execFlagsWrite_ok (h : Hdr) (o : OpD) (s : State) : Ok s → OkR (execFlagsWrite h o s) := by
  unfold execFlagsWrite; grind (splits := 40) -lia -linarith -ring -order
scoped grind_pattern execFlagsWrite_ok => execFlagsWrite h o s

theorem execTrapret_ok (h : Hdr) (s : State) : Ok s → OkR (execTrapret h s) := by
  unfold execTrapret; grind (splits := 40) -lia -linarith -ring -order
scoped grind_pattern execTrapret_ok => execTrapret h s

/-! ## Tick -/

theorem State.freeGangs_ok (s : State) : Ok s → Ok (State.freeGangs s) := by
  unfold State.freeGangs; grind (splits := 40) -lia -linarith -ring -order
scoped grind_pattern State.freeGangs_ok => State.freeGangs s

theorem State.takeNotes_ok (s : State) : Ok s → Ok (State.takeNotes s) := by
  unfold State.takeNotes; grind (splits := 40) -lia -linarith -ring -order
scoped grind_pattern State.takeNotes_ok => State.takeNotes s

theorem State.writeFlags_ok (s : State) : Ok s → Ok (State.writeFlags s) := by
  unfold State.writeFlags; grind (splits := 40) -lia -linarith -ring -order
scoped grind_pattern State.writeFlags_ok => State.writeFlags s

theorem State.portResume_ok (s : State) (d : Nat) : Ok s → Ok (State.portResume s d) := by
  unfold State.portResume; grind (splits := 40) -lia -linarith -ring -order
scoped grind_pattern State.portResume_ok => State.portResume s d

theorem State.earlyBack_ok (s : State) (die : Nat) : Ok s → Ok (State.earlyBack s die) := by
  unfold State.earlyBack; grind (splits := 40) -lia -linarith -ring -order
scoped grind_pattern State.earlyBack_ok => State.earlyBack s die

theorem State.settle1_ok (s : State) : Ok s → Ok (State.settle1 s) := by
  unfold State.settle1; grind (splits := 40) -lia -linarith -ring -order
scoped grind_pattern State.settle1_ok => State.settle1 s

theorem State.addActs_ok (s : State) : Ok s → Ok (State.addActs s) := by
  intro h
  exact Ok.of h rfl rfl rfl rfl
scoped grind_pattern State.addActs_ok => State.addActs s

theorem State.tick_ok (s : State) : Ok s → Ok (State.tick s) := by
  intro h
  have h0 : Ok { s with clk := s.clk + 1 } := Ok.of h rfl rfl rfl rfl
  exact Ok.ite (fun _ => h0) fun _ => Ok.ite (fun _ => State.bootTick_ok _ h0) fun _ => State.addActs_ok _ (State.settle1_ok _ h0)
scoped grind_pattern State.tick_ok => State.tick s

theorem State.withPacket_ok (s : State) (core : Nat) (stack : Option Nat) (ws : List Word) : Ok s → Ok (State.withPacket s core stack ws) := by
  intro h
  have h1 := State.booted_ok s h
  exact Oks.put core _ h1 (Ok.scratch s.booted core h1)
scoped grind_pattern State.withPacket_ok => State.withPacket s core stack ws

/-! ## Step -/

theorem State.withFetchWord_ok (s : State) (nbits w : Nat) : Ok s → Ok (State.withFetchWord s nbits w) := by
  unfold State.withFetchWord; grind (splits := 40) -lia -linarith -ring -order
scoped grind_pattern State.withFetchWord_ok => State.withFetchWord s nbits w

end Sys2Proof.Laws.MemOk
end

