-- ==== Sys2Proof/Laws/PerInstr.lean ====
section
/-! SUPPORT. Decoding and encoding agree, instruction by instruction (R215, R226 to R236): the family `DecodeEncode`. -/

namespace Sys2Proof

/-- A bit of an assembled word, by its place in the joined fields. -/
theorem Fields.toWord_bit (f : Fields) (i : Nat) : f.toWord.getLsbD i =
    BitVec.getLsbD (w := 1 + 7 + 2 + 1 + 7 + 7 + 7)
      (BitVec.ofBool f.c ++ f.op ++ f.g ++ BitVec.ofBool f.n ++ f.d ++ f.a ++ f.b) i := rfl

/-- The fields of an assembled word are the fields it was made of. -/
theorem Fields.ofWord_toWord (f : Fields) : Fields.ofWord f.toWord = f := by
  obtain ⟨c, op, g, n, d, a, b⟩ := f
  simp only [Fields.ofWord, Fields.mk.injEq]
  refine ⟨?_, ?_, ?_, ?_, ?_, ?_, ?_⟩
  · simp only [Fields.toWord_bit, BitVec.getLsbD_append, BitVec.getLsbD_ofBool]; simp
  all_goals
    first
    | (simp only [Fields.toWord_bit, BitVec.getLsbD_append, BitVec.getLsbD_ofBool]; simp)
    | (apply BitVec.eq_of_getLsbD_eq
       intro i hi
       rw [BitVec.getLsbD_extractLsb', Fields.toWord_bit]
       interval_cases i <;> simp only [BitVec.getLsbD_append, BitVec.getLsbD_ofBool] <;> simp)

/-- A bit of the 22-bit offset field, by its place in the joined fields. -/
theorem Fields.off22_bit (f : Fields) (i : Nat) : f.off22.getLsbD i =
    BitVec.getLsbD (w := 1 + 7 + 7 + 7) (BitVec.ofBool f.n ++ f.d ++ f.a ++ f.b) i := rfl

/-! ## Pieces of a field -/

theorem piece_hitch : ∀ x : BitVec 4, (0#3 ++ x : BitVec 7).extractLsb' 0 4 = x := by decide
theorem piece_lo3 : ∀ (y : BitVec 4) (x : BitVec 3), (y ++ x : BitVec 7).extractLsb' 0 3 = x := by decide
theorem piece_hi4 : ∀ (y : BitVec 4) (x : BitVec 3), (y ++ x : BitVec 7).extractLsb' 3 4 = y := by decide
theorem piece_lo5 : ∀ (y : BitVec 2) (x : BitVec 5), (y ++ x : BitVec 7).extractLsb' 0 5 = x := by decide
theorem piece_hi2 : ∀ (y : BitVec 2) (x : BitVec 5), (y ++ x : BitVec 7).extractLsb' 5 2 = y := by decide
theorem piece_cvt_src : ∀ (x y : BitVec 3) (z : Bool), (x ++ y ++ BitVec.ofBool z : BitVec 7).extractLsb' 4 3 = x := by decide
theorem piece_cvt_dst : ∀ (x y : BitVec 3) (z : Bool), (x ++ y ++ BitVec.ofBool z : BitVec 7).extractLsb' 1 3 = y := by decide
theorem piece_cvt_rz : ∀ (x y : BitVec 3) (z : Bool), (x ++ y ++ BitVec.ofBool z : BitVec 7)[0] = z := by decide
theorem piece_pair : ∀ (x : BitVec 2) (y : BitVec 4), (0#1 ++ x ++ y : BitVec 7).extractLsb' 4 2 = x := by decide
theorem piece_fmt : ∀ (x : BitVec 2) (y : BitVec 4), (0#1 ++ x ++ y : BitVec 7).extractLsb' 0 4 = y := by decide
theorem piece_spl_h : ∀ (x : BitVec 4) (y : BitVec 2), (x ++ 0#1 ++ y : BitVec 7).extractLsb' 3 4 = x := by decide
theorem piece_spl_q : ∀ (x : BitVec 4) (y : BitVec 2), (x ++ 0#1 ++ y : BitVec 7).extractLsb' 0 2 = y := by decide
theorem piece_tbl : ∀ x : BitVec 4, (x.extractLsb' 2 2 ++ x.extractLsb' 0 2 : BitVec 4) = x := by decide
theorem piece_tb : ∀ x : BitVec 2, (0#5 ++ x : BitVec 7).extractLsb' 0 2 = x := by decide

theorem join_off22 (x : BitVec 22) :
    (BitVec.ofBool (x.getLsbD 21) ++ x.extractLsb' 14 7 ++ x.extractLsb' 7 7 ++ x.extractLsb' 0 7 : BitVec 22) = x := by
  apply BitVec.eq_of_getLsbD_eq
  intro i hi
  simp only [BitVec.getLsbD_append, BitVec.getLsbD_ofBool]
  interval_cases i <;> simp

theorem join_off22' (x : BitVec 22) :
    (BitVec.ofBool x[21] ++ x.extractLsb' 14 7 ++ x.extractLsb' 7 7 ++ x.extractLsb' 0 7 : BitVec 22) = x := by
  simpa using join_off22 x

theorem piece_brm_cnt (c : Bool) (g : BitVec 2) (x : BitVec 2) (y0 y1 y2 y3 : BitVec 5) :
    (Fields.off22 ⟨c, 2#7, g, x[1], x.extractLsb' 0 1 ++ y3 ++ y2.extractLsb' 4 1, y2.extractLsb' 0 4 ++ y1.extractLsb' 2 3,
      y1.extractLsb' 0 2 ++ y0⟩).extractLsb' 20 2 = x := by
  apply BitVec.eq_of_getLsbD_eq
  intro i hi
  rw [BitVec.getLsbD_extractLsb', Fields.off22_bit]
  interval_cases i <;> simp only [BitVec.getLsbD_append, BitVec.getLsbD_ofBool] <;> simp

theorem piece_brm_p0 (c : Bool) (g : BitVec 2) (x : BitVec 2) (y0 y1 y2 y3 : BitVec 5) :
    (Fields.off22 ⟨c, 2#7, g, x[1], x.extractLsb' 0 1 ++ y3 ++ y2.extractLsb' 4 1, y2.extractLsb' 0 4 ++ y1.extractLsb' 2 3,
      y1.extractLsb' 0 2 ++ y0⟩).extractLsb' 0 5 = y0 := by
  apply BitVec.eq_of_getLsbD_eq
  intro i hi
  rw [BitVec.getLsbD_extractLsb', Fields.off22_bit]
  interval_cases i <;> simp only [BitVec.getLsbD_append, BitVec.getLsbD_ofBool] <;> simp

theorem piece_brm_p1 (c : Bool) (g : BitVec 2) (x : BitVec 2) (y0 y1 y2 y3 : BitVec 5) :
    (Fields.off22 ⟨c, 2#7, g, x[1], x.extractLsb' 0 1 ++ y3 ++ y2.extractLsb' 4 1, y2.extractLsb' 0 4 ++ y1.extractLsb' 2 3,
      y1.extractLsb' 0 2 ++ y0⟩).extractLsb' 5 5 = y1 := by
  apply BitVec.eq_of_getLsbD_eq
  intro i hi
  rw [BitVec.getLsbD_extractLsb', Fields.off22_bit]
  interval_cases i <;> simp only [BitVec.getLsbD_append, BitVec.getLsbD_ofBool] <;> simp

theorem piece_brm_p2 (c : Bool) (g : BitVec 2) (x : BitVec 2) (y0 y1 y2 y3 : BitVec 5) :
    (Fields.off22 ⟨c, 2#7, g, x[1], x.extractLsb' 0 1 ++ y3 ++ y2.extractLsb' 4 1, y2.extractLsb' 0 4 ++ y1.extractLsb' 2 3,
      y1.extractLsb' 0 2 ++ y0⟩).extractLsb' 10 5 = y2 := by
  apply BitVec.eq_of_getLsbD_eq
  intro i hi
  rw [BitVec.getLsbD_extractLsb', Fields.off22_bit]
  interval_cases i <;> simp only [BitVec.getLsbD_append, BitVec.getLsbD_ofBool] <;> simp

theorem piece_brm_p3 (c : Bool) (g : BitVec 2) (x : BitVec 2) (y0 y1 y2 y3 : BitVec 5) :
    (Fields.off22 ⟨c, 2#7, g, x[1], x.extractLsb' 0 1 ++ y3 ++ y2.extractLsb' 4 1, y2.extractLsb' 0 4 ++ y1.extractLsb' 2 3,
      y1.extractLsb' 0 2 ++ y0⟩).extractLsb' 15 5 = y3 := by
  apply BitVec.eq_of_getLsbD_eq
  intro i hi
  rw [BitVec.getLsbD_extractLsb', Fields.off22_bit]
  interval_cases i <;> simp only [BitVec.getLsbD_append, BitVec.getLsbD_ofBool] <;> simp

theorem join_num14 (x : BitVec 14) : (x.extractLsb' 7 7 ++ x.extractLsb' 0 7 : BitVec 14) = x := by
  apply BitVec.eq_of_getLsbD_eq
  intro i hi
  simp only [BitVec.getLsbD_append]
  interval_cases i <;> simp

theorem piece_half_lo (x y : BitVec 16) : (y ++ x : BitVec 32).extractLsb' 0 16 = x := by
  apply BitVec.eq_of_getLsbD_eq
  intro i hi
  rw [BitVec.getLsbD_extractLsb']
  have h : ∀ j, (y ++ x : BitVec 32).getLsbD j = BitVec.getLsbD (w := 16 + 16) (y ++ x) j := fun _ => rfl
  rw [h, BitVec.getLsbD_append]
  interval_cases i <;> simp

theorem piece_half_hi (x y : BitVec 16) : (y ++ x : BitVec 32).extractLsb' 16 16 = y := by
  apply BitVec.eq_of_getLsbD_eq
  intro i hi
  rw [BitVec.getLsbD_extractLsb']
  have h : ∀ j, (y ++ x : BitVec 32).getLsbD j = BitVec.getLsbD (w := 16 + 16) (y ++ x) j := fun _ => rfl
  rw [h, BitVec.getLsbD_append]
  interval_cases i <;> simp

namespace Laws.DecodeEncode

/-- Decoding the words of a well-formed instruction, with whatever words follow them, gives the instruction back and leaves
the words that follow. -/
def Statement (i : Instr) : Prop := i.wf = true → ∀ rest : List Word, decode (encode i ++ rest) = .ok (i, rest)

/-- What is left to show of a word, once its fields are known. -/
theorem of_fields {i : Instr} {f : Fields} {ws : List Word} (hf : i.fields = some (f, ws)) (hd : i.dataWords = ws.length)
    (hc : i.wf = true → ∀ rest : List Word, candidate f ((ws ++ rest).headD 0#32) (((ws ++ rest).drop 1).headD 0#32) = .ok i) : Statement i := by
  intro hw rest
  simp only [encode, hf, List.cons_append, decode, decodeWord, Fields.ofWord_toWord, hc hw rest, hw, and_self, if_true, hd,
    List.length_append]
  rw [if_neg (by omega), List.drop_left]

/-- A command or an event is no word. -/
theorem of_event {i : Instr} (h : i.wf = false) : Statement i := fun hw => by simp [h] at hw

theorem nop (h : Hdr) : Statement (.nop h) := of_fields rfl rfl (fun _ _ => by
  simp [candidate, candidate0, Fields.hdr])
theorem br (h : Hdr) (o : OpBr) : Statement (.br h o) := of_fields rfl rfl (fun _ _ => by
  simp [candidate, candidate0, Fields.hdr, Fields.off22, join_off22'])
theorem call (h : Hdr) (o : OpBr) : Statement (.call h o) := of_fields rfl rfl (fun _ _ => by
  simp [candidate, candidate0, Fields.hdr, Fields.off22, join_off22'])
theorem brm (h : Hdr) (o : OpBrm) : Statement (.brm h o) := of_fields rfl rfl (fun _ _ => by
  simp [candidate, candidate0, Fields.hdr, piece_brm_cnt, piece_brm_p0, piece_brm_p1, piece_brm_p2, piece_brm_p3, piece_half_lo, piece_half_hi])
theorem jmpr (h : Hdr) (o : OpA) : Statement (.jmpr h o) := of_fields rfl rfl (fun _ _ => by
  simp [candidate, candidate0, Fields.hdr])
theorem callr (h : Hdr) (o : OpDA) : Statement (.callr h o) := of_fields rfl rfl (fun _ _ => by
  simp [candidate, candidate0, Fields.hdr])
theorem exit (h : Hdr) : Statement (.exit h) := of_fields rfl rfl (fun _ _ => by
  simp [candidate, candidate0, Fields.hdr])
theorem lit32 (h : Hdr) (o : OpLit) : Statement (.lit32 h o) := of_fields rfl rfl (fun _ _ => by
  simp [candidate, candidate0, Fields.hdr])
theorem trap (h : Hdr) (o : OpTrap) : Statement (.trap h o) := of_fields rfl rfl (fun _ _ => by
  simp [candidate, candidate0, Fields.hdr])
theorem yieldTurn (h : Hdr) : Statement (.yieldTurn h) := of_fields rfl rfl (fun _ _ => by
  simp [candidate, candidate0, Fields.hdr])
theorem hset (h : Hdr) (o : OpHset) : Statement (.hset h o) := of_fields rfl rfl (fun _ _ => by
  simp [candidate, candidate0, Fields.hdr, piece_hitch])
theorem rejoin (h : Hdr) (o : OpHitch) : Statement (.rejoin h o) := of_fields rfl rfl (fun _ _ => by
  simp [candidate, candidate0, Fields.hdr, piece_hitch])
theorem bar (h : Hdr) : Statement (.bar h) := of_fields rfl rfl (fun _ _ => by
  simp [candidate, candidate0, Fields.hdr])
theorem sleep (h : Hdr) (o : OpA) : Statement (.sleep h o) := of_fields rfl rfl (fun _ _ => by
  simp [candidate, candidate0, Fields.hdr])
theorem waitge (h : Hdr) (o : OpWait) : Statement (.waitge h o) := of_fields rfl rfl (fun _ _ => by
  simp [candidate, candidate0, Fields.hdr, piece_lo3])
theorem waitp (h : Hdr) (o : OpWaitP) : Statement (.waitp h o) := of_fields rfl rfl (fun _ _ => by
  simp [candidate, candidate0, Fields.hdr, piece_lo3])
theorem iadd (h : Hdr) (o : OpRR) : Statement (.iadd h o) := of_fields rfl rfl (fun _ _ => by
  simp [candidate, candidate1, Fields.hdr])
theorem isub (h : Hdr) (o : OpRR) : Statement (.isub h o) := of_fields rfl rfl (fun _ _ => by
  simp [candidate, candidate1, Fields.hdr])
theorem imul (h : Hdr) (o : OpRR) : Statement (.imul h o) := of_fields rfl rfl (fun _ _ => by
  simp [candidate, candidate1, Fields.hdr])
theorem imulhiI (h : Hdr) (o : OpRR) : Statement (.imulhiI h o) := of_fields rfl rfl (fun _ _ => by
  simp [candidate, candidate1, Fields.hdr])
theorem imulhiN (h : Hdr) (o : OpRR) : Statement (.imulhiN h o) := of_fields rfl rfl (fun _ _ => by
  simp [candidate, candidate1, Fields.hdr])
theorem imad (h : Hdr) (o : OpRRD) : Statement (.imad h o) := of_fields rfl rfl (fun _ _ => by
  simp [candidate, candidate1, Fields.hdr])
theorem iminI (h : Hdr) (o : OpRR) : Statement (.iminI h o) := of_fields rfl rfl (fun _ _ => by
  simp [candidate, candidate1, Fields.hdr])
theorem imaxI (h : Hdr) (o : OpRR) : Statement (.imaxI h o) := of_fields rfl rfl (fun _ _ => by
  simp [candidate, candidate1, Fields.hdr])
theorem iminN (h : Hdr) (o : OpRR) : Statement (.iminN h o) := of_fields rfl rfl (fun _ _ => by
  simp [candidate, candidate1, Fields.hdr])
theorem imaxN (h : Hdr) (o : OpRR) : Statement (.imaxN h o) := of_fields rfl rfl (fun _ _ => by
  simp [candidate, candidate1, Fields.hdr])
theorem land (h : Hdr) (o : OpRR) : Statement (.land h o) := of_fields rfl rfl (fun _ _ => by
  simp [candidate, candidate1, Fields.hdr])
theorem lor (h : Hdr) (o : OpRR) : Statement (.lor h o) := of_fields rfl rfl (fun _ _ => by
  simp [candidate, candidate1, Fields.hdr])
theorem lxor (h : Hdr) (o : OpRR) : Statement (.lxor h o) := of_fields rfl rfl (fun _ _ => by
  simp [candidate, candidate1, Fields.hdr])
theorem shl (h : Hdr) (o : OpRR) : Statement (.shl h o) := of_fields rfl rfl (fun _ _ => by
  simp [candidate, candidate1, Fields.hdr])
theorem shr (h : Hdr) (o : OpRR) : Statement (.shr h o) := of_fields rfl rfl (fun _ _ => by
  simp [candidate, candidate1, Fields.hdr])
theorem sar (h : Hdr) (o : OpRR) : Statement (.sar h o) := of_fields rfl rfl (fun _ _ => by
  simp [candidate, candidate1, Fields.hdr])
theorem iaddi (h : Hdr) (o : OpRI) : Statement (.iaddi h o) := of_fields rfl rfl (fun _ _ => by
  simp [candidate, candidate2, Fields.hdr])
theorem andi (h : Hdr) (o : OpRI) : Statement (.andi h o) := of_fields rfl rfl (fun _ _ => by
  simp [candidate, candidate2, Fields.hdr])
theorem ori (h : Hdr) (o : OpRI) : Statement (.ori h o) := of_fields rfl rfl (fun _ _ => by
  simp [candidate, candidate2, Fields.hdr])
theorem xori (h : Hdr) (o : OpRI) : Statement (.xori h o) := of_fields rfl rfl (fun _ _ => by
  simp [candidate, candidate2, Fields.hdr])
theorem shli (h : Hdr) (o : OpSh) : Statement (.shli h o) := of_fields rfl rfl (fun _ _ => by
  simp [candidate, candidate2, Fields.hdr, piece_lo5, piece_hi2])
theorem shri (h : Hdr) (o : OpSh) : Statement (.shri h o) := of_fields rfl rfl (fun _ _ => by
  simp [candidate, candidate2, Fields.hdr, piece_lo5, piece_hi2])
theorem sari (h : Hdr) (o : OpSh) : Statement (.sari h o) := of_fields rfl rfl (fun _ _ => by
  simp [candidate, candidate2, Fields.hdr, piece_lo5, piece_hi2])
theorem movi (h : Hdr) (o : OpI14) : Statement (.movi h o) := of_fields rfl rfl (fun _ _ => by
  simp [candidate, candidate2, Fields.hdr, join_num14])
theorem iadd64 (h : Hdr) (o : OpRR) : Statement (.iadd64 h o) := of_fields rfl rfl (fun _ _ => by
  simp [candidate, candidate2, Fields.hdr])
theorem addx64 (h : Hdr) (o : OpRR) : Statement (.addx64 h o) := of_fields rfl rfl (fun _ _ => by
  simp [candidate, candidate2, Fields.hdr])
theorem isetpI (h : Hdr) (o : OpCP) : Statement (.isetpI h o) := of_fields rfl rfl (fun _ _ => by
  simp [candidate, candidate2, Fields.hdr, piece_lo5, piece_hi2])
theorem isetpN (h : Hdr) (o : OpCP) : Statement (.isetpN h o) := of_fields rfl rfl (fun _ _ => by
  simp [candidate, candidate2, Fields.hdr, piece_lo5, piece_hi2])
theorem sel (h : Hdr) (o : OpRR) : Statement (.sel h o) := of_fields rfl rfl (fun _ _ => by
  simp [candidate, candidate2, Fields.hdr])
theorem plop (h : Hdr) (o : OpPL) : Statement (.plop h o) := of_fields rfl rfl (fun _ _ => by
  simp [candidate, candidate2, Fields.hdr, piece_lo5, piece_hi2, piece_tbl])
theorem p2v (h : Hdr) (o : OpND) : Statement (.p2v h o) := of_fields rfl rfl (fun _ _ => by
  simp [candidate, candidate2, Fields.hdr])
theorem v2p (h : Hdr) (o : OpA) : Statement (.v2p h o) := of_fields rfl rfl (fun _ _ => by
  simp [candidate, candidate2, Fields.hdr])
theorem popc (h : Hdr) (o : OpRF) : Statement (.popc h o) := of_fields rfl rfl (fun _ _ => by
  simp [candidate, candidate2, Fields.hdr])
theorem clz (h : Hdr) (o : OpRF) : Statement (.clz h o) := of_fields rfl rfl (fun _ _ => by
  simp [candidate, candidate2, Fields.hdr])
theorem brev (h : Hdr) (o : OpRF) : Statement (.brev h o) := of_fields rfl rfl (fun _ _ => by
  simp [candidate, candidate2, Fields.hdr])
theorem ctz (h : Hdr) (o : OpRF) : Statement (.ctz h o) := of_fields rfl rfl (fun _ _ => by
  simp [candidate, candidate2, Fields.hdr])
theorem lnot (h : Hdr) (o : OpRF) : Statement (.lnot h o) := of_fields rfl rfl (fun _ _ => by
  simp [candidate, candidate2, Fields.hdr])
theorem neg (h : Hdr) (o : OpRF) : Statement (.neg h o) := of_fields rfl rfl (fun _ _ => by
  simp [candidate, candidate2, Fields.hdr])
theorem abs (h : Hdr) (o : OpRF) : Statement (.abs h o) := of_fields rfl rfl (fun _ _ => by
  simp [candidate, candidate2, Fields.hdr])
theorem bswz (h : Hdr) (o : OpRRD) : Statement (.bswz h o) := of_fields rfl rfl (fun _ _ => by
  simp [candidate, candidate2, Fields.hdr])
theorem fadd (h : Hdr) (o : OpRR) : Statement (.fadd h o) := of_fields rfl rfl (fun _ _ => by
  simp [candidate, candidate3, Fields.hdr])
theorem fsub (h : Hdr) (o : OpRR) : Statement (.fsub h o) := of_fields rfl rfl (fun _ _ => by
  simp [candidate, candidate3, Fields.hdr])
theorem fmul (h : Hdr) (o : OpRR) : Statement (.fmul h o) := of_fields rfl rfl (fun _ _ => by
  simp [candidate, candidate3, Fields.hdr])
theorem ffma (h : Hdr) (o : OpRRD) : Statement (.ffma h o) := of_fields rfl rfl (fun _ _ => by
  simp [candidate, candidate3, Fields.hdr])
theorem fmin (h : Hdr) (o : OpRR) : Statement (.fmin h o) := of_fields rfl rfl (fun _ _ => by
  simp [candidate, candidate3, Fields.hdr])
theorem fmax (h : Hdr) (o : OpRR) : Statement (.fmax h o) := of_fields rfl rfl (fun _ _ => by
  simp [candidate, candidate3, Fields.hdr])
theorem fdiv (h : Hdr) (o : OpRR) : Statement (.fdiv h o) := of_fields rfl rfl (fun _ _ => by
  simp [candidate, candidate4, Fields.hdr])
theorem fsetp (h : Hdr) (o : OpCP) : Statement (.fsetp h o) := of_fields rfl rfl (fun _ _ => by
  simp [candidate, candidate3, Fields.hdr, piece_lo5, piece_hi2])
theorem fabs (h : Hdr) (o : OpRF) : Statement (.fabs h o) := of_fields rfl rfl (fun _ _ => by
  simp [candidate, candidate3, Fields.hdr])
theorem fneg (h : Hdr) (o : OpRF) : Statement (.fneg h o) := of_fields rfl rfl (fun _ _ => by
  simp [candidate, candidate3, Fields.hdr])
theorem ffloor (h : Hdr) (o : OpRF) : Statement (.ffloor h o) := of_fields rfl rfl (fun _ _ => by
  simp [candidate, candidate3, Fields.hdr])
theorem fceil (h : Hdr) (o : OpRF) : Statement (.fceil h o) := of_fields rfl rfl (fun _ _ => by
  simp [candidate, candidate3, Fields.hdr])
theorem ftrunc (h : Hdr) (o : OpRF) : Statement (.ftrunc h o) := of_fields rfl rfl (fun _ _ => by
  simp [candidate, candidate3, Fields.hdr])
theorem frint (h : Hdr) (o : OpRF) : Statement (.frint h o) := of_fields rfl rfl (fun _ _ => by
  simp [candidate, candidate3, Fields.hdr])
theorem hadd2Bf16 (h : Hdr) (o : OpRR) : Statement (.hadd2Bf16 h o) := of_fields rfl rfl (fun _ _ => by
  simp [candidate, candidate3, Fields.hdr])
theorem hadd2F16 (h : Hdr) (o : OpRR) : Statement (.hadd2F16 h o) := of_fields rfl rfl (fun _ _ => by
  simp [candidate, candidate3, Fields.hdr])
theorem hmul2Bf16 (h : Hdr) (o : OpRR) : Statement (.hmul2Bf16 h o) := of_fields rfl rfl (fun _ _ => by
  simp [candidate, candidate3, Fields.hdr])
theorem hmul2F16 (h : Hdr) (o : OpRR) : Statement (.hmul2F16 h o) := of_fields rfl rfl (fun _ _ => by
  simp [candidate, candidate3, Fields.hdr])
theorem hfma2Bf16 (h : Hdr) (o : OpRRD) : Statement (.hfma2Bf16 h o) := of_fields rfl rfl (fun _ _ => by
  simp [candidate, candidate3, Fields.hdr])
theorem hfma2F16 (h : Hdr) (o : OpRRD) : Statement (.hfma2F16 h o) := of_fields rfl rfl (fun _ _ => by
  simp [candidate, candidate3, Fields.hdr])
theorem hminmax2Bf16 (h : Hdr) (o : OpRR) : Statement (.hminmax2Bf16 h o) := of_fields rfl rfl (fun _ _ => by
  simp [candidate, candidate3, Fields.hdr])
theorem hminmax2F16 (h : Hdr) (o : OpRR) : Statement (.hminmax2F16 h o) := of_fields rfl rfl (fun _ _ => by
  simp [candidate, candidate3, Fields.hdr])
theorem cvt (h : Hdr) (o : OpCvt) : Statement (.cvt h o) := of_fields rfl rfl (fun _ _ => by
  simp [candidate, candidate4, Fields.hdr, piece_cvt_src, piece_cvt_dst, piece_cvt_rz])
theorem gqcvtQ (h : Hdr) (o : OpRR) : Statement (.gqcvtQ h o) := of_fields rfl rfl (fun _ _ => by
  simp [candidate, candidate4, Fields.hdr])
theorem gqcvtF (h : Hdr) (o : OpRR) : Statement (.gqcvtF h o) := of_fields rfl rfl (fun _ _ => by
  simp [candidate, candidate4, Fields.hdr])
theorem rcp (h : Hdr) (o : OpRF) : Statement (.rcp h o) := of_fields rfl rfl (fun _ _ => by
  simp [candidate, candidate4, Fields.hdr])
theorem rsqrt (h : Hdr) (o : OpRF) : Statement (.rsqrt h o) := of_fields rfl rfl (fun _ _ => by
  simp [candidate, candidate4, Fields.hdr])
theorem sqrt (h : Hdr) (o : OpRF) : Statement (.sqrt h o) := of_fields rfl rfl (fun _ _ => by
  simp [candidate, candidate4, Fields.hdr])
theorem ex2 (h : Hdr) (o : OpRF) : Statement (.ex2 h o) := of_fields rfl rfl (fun _ _ => by
  simp [candidate, candidate4, Fields.hdr])
theorem lg2 (h : Hdr) (o : OpRF) : Statement (.lg2 h o) := of_fields rfl rfl (fun _ _ => by
  simp [candidate, candidate4, Fields.hdr])
theorem sin (h : Hdr) (o : OpRF) : Statement (.sin h o) := of_fields rfl rfl (fun _ _ => by
  simp [candidate, candidate4, Fields.hdr])
theorem cos (h : Hdr) (o : OpRF) : Statement (.cos h o) := of_fields rfl rfl (fun _ _ => by
  simp [candidate, candidate4, Fields.hdr])
theorem tanh (h : Hdr) (o : OpRF) : Statement (.tanh h o) := of_fields rfl rfl (fun _ _ => by
  simp [candidate, candidate4, Fields.hdr])
theorem shflIdx (h : Hdr) (o : OpRR) : Statement (.shflIdx h o) := of_fields rfl rfl (fun _ _ => by
  simp [candidate, candidate4, Fields.hdr])
theorem shflXor (h : Hdr) (o : OpRR) : Statement (.shflXor h o) := of_fields rfl rfl (fun _ _ => by
  simp [candidate, candidate4, Fields.hdr])
theorem shflUp (h : Hdr) (o : OpRR) : Statement (.shflUp h o) := of_fields rfl rfl (fun _ _ => by
  simp [candidate, candidate4, Fields.hdr])
theorem shflDn (h : Hdr) (o : OpRR) : Statement (.shflDn h o) := of_fields rfl rfl (fun _ _ => by
  simp [candidate, candidate4, Fields.hdr])
theorem voteAll (h : Hdr) (o : OpVoteP) : Statement (.voteAll h o) := of_fields rfl rfl (fun _ _ => by
  simp [candidate, candidate4, Fields.hdr, piece_lo5, piece_hi2])
theorem voteAny (h : Hdr) (o : OpVoteP) : Statement (.voteAny h o) := of_fields rfl rfl (fun _ _ => by
  simp [candidate, candidate4, Fields.hdr, piece_lo5, piece_hi2])
theorem voteBallot (h : Hdr) (o : OpVoteB) : Statement (.voteBallot h o) := of_fields rfl rfl (fun _ _ => by
  simp [candidate, candidate4, Fields.hdr, piece_lo5, piece_hi2])
theorem voteEq (h : Hdr) (o : OpVoteE) : Statement (.voteEq h o) := of_fields rfl rfl (fun _ _ => by
  simp [candidate, candidate4, Fields.hdr, piece_lo5])
theorem reduxAdd (h : Hdr) (o : OpRF) : Statement (.reduxAdd h o) := of_fields rfl rfl (fun _ _ => by
  simp [candidate, candidate4, Fields.hdr])
theorem reduxMinI (h : Hdr) (o : OpRF) : Statement (.reduxMinI h o) := of_fields rfl rfl (fun _ _ => by
  simp [candidate, candidate4, Fields.hdr])
theorem reduxMaxI (h : Hdr) (o : OpRF) : Statement (.reduxMaxI h o) := of_fields rfl rfl (fun _ _ => by
  simp [candidate, candidate4, Fields.hdr])
theorem reduxMinN (h : Hdr) (o : OpRF) : Statement (.reduxMinN h o) := of_fields rfl rfl (fun _ _ => by
  simp [candidate, candidate4, Fields.hdr])
theorem reduxMaxN (h : Hdr) (o : OpRF) : Statement (.reduxMaxN h o) := of_fields rfl rfl (fun _ _ => by
  simp [candidate, candidate4, Fields.hdr])
theorem reduxAnd (h : Hdr) (o : OpRF) : Statement (.reduxAnd h o) := of_fields rfl rfl (fun _ _ => by
  simp [candidate, candidate4, Fields.hdr])
theorem reduxOr (h : Hdr) (o : OpRF) : Statement (.reduxOr h o) := of_fields rfl rfl (fun _ _ => by
  simp [candidate, candidate4, Fields.hdr])
theorem reduxXor (h : Hdr) (o : OpRF) : Statement (.reduxXor h o) := of_fields rfl rfl (fun _ _ => by
  simp [candidate, candidate4, Fields.hdr])
theorem reduxFmin (h : Hdr) (o : OpRF) : Statement (.reduxFmin h o) := of_fields rfl rfl (fun _ _ => by
  simp [candidate, candidate4, Fields.hdr])
theorem reduxFmax (h : Hdr) (o : OpRF) : Statement (.reduxFmax h o) := of_fields rfl rfl (fun _ _ => by
  simp [candidate, candidate4, Fields.hdr])
theorem hbfly (h : Hdr) (o : OpHb) : Statement (.hbfly h o) := of_fields rfl rfl (fun _ _ => by
  simp [candidate, candidate4, Fields.hdr, piece_lo3])
theorem unpk (h : Hdr) (o : OpUnpk) : Statement (.unpk h o) := of_fields rfl rfl (fun _ _ => by
  simp [candidate, candidate4, Fields.hdr, piece_pair, piece_fmt])
theorem cbld (h : Hdr) (o : OpA) : Statement (.cbld h o) := of_fields rfl rfl (fun _ _ => by
  simp [candidate, candidate4, Fields.hdr])
theorem qmap (h : Hdr) (o : OpDA) : Statement (.qmap h o) := of_fields rfl rfl (fun _ _ => by
  simp [candidate, candidate4, Fields.hdr])
theorem clkrd (h : Hdr) (o : OpD) : Statement (.clkrd h o) := of_fields rfl rfl (fun _ _ => by
  simp [candidate, candidate4, Fields.hdr])
theorem ld8s (h : Hdr) (o : OpMA) : Statement (.ld8s h o) := of_fields rfl rfl (fun _ _ => by
  simp [candidate, candidate5, Fields.hdr, piece_lo5, piece_hi2])
theorem ld8z (h : Hdr) (o : OpMA) : Statement (.ld8z h o) := of_fields rfl rfl (fun _ _ => by
  simp [candidate, candidate5, Fields.hdr, piece_lo5, piece_hi2])
theorem ld16s (h : Hdr) (o : OpMA) : Statement (.ld16s h o) := of_fields rfl rfl (fun _ _ => by
  simp [candidate, candidate5, Fields.hdr, piece_lo5, piece_hi2])
theorem ld16z (h : Hdr) (o : OpMA) : Statement (.ld16z h o) := of_fields rfl rfl (fun _ _ => by
  simp [candidate, candidate5, Fields.hdr, piece_lo5, piece_hi2])
theorem ld32 (h : Hdr) (o : OpMA) : Statement (.ld32 h o) := of_fields rfl rfl (fun _ _ => by
  simp [candidate, candidate5, Fields.hdr, piece_lo5, piece_hi2])
theorem ld64 (h : Hdr) (o : OpMA) : Statement (.ld64 h o) := of_fields rfl rfl (fun _ _ => by
  simp [candidate, candidate5, Fields.hdr, piece_lo5, piece_hi2])
theorem ld128 (h : Hdr) (o : OpMA) : Statement (.ld128 h o) := of_fields rfl rfl (fun _ _ => by
  simp [candidate, candidate5, Fields.hdr, piece_lo5, piece_hi2])
theorem st8 (h : Hdr) (o : OpMA) : Statement (.st8 h o) := of_fields rfl rfl (fun _ _ => by
  simp [candidate, candidate5, Fields.hdr, piece_lo5, piece_hi2])
theorem st16 (h : Hdr) (o : OpMA) : Statement (.st16 h o) := of_fields rfl rfl (fun _ _ => by
  simp [candidate, candidate5, Fields.hdr, piece_lo5, piece_hi2])
theorem st32 (h : Hdr) (o : OpMA) : Statement (.st32 h o) := of_fields rfl rfl (fun _ _ => by
  simp [candidate, candidate5, Fields.hdr, piece_lo5, piece_hi2])
theorem st64 (h : Hdr) (o : OpMA) : Statement (.st64 h o) := of_fields rfl rfl (fun _ _ => by
  simp [candidate, candidate5, Fields.hdr, piece_lo5, piece_hi2])
theorem st128 (h : Hdr) (o : OpMA) : Statement (.st128 h o) := of_fields rfl rfl (fun _ _ => by
  simp [candidate, candidate5, Fields.hdr, piece_lo5, piece_hi2])
theorem lds32 (h : Hdr) (o : OpS) : Statement (.lds32 h o) := of_fields rfl rfl (fun _ _ => by
  simp [candidate, candidate6, Fields.hdr, piece_lo5])
theorem lds64 (h : Hdr) (o : OpS) : Statement (.lds64 h o) := of_fields rfl rfl (fun _ _ => by
  simp [candidate, candidate6, Fields.hdr, piece_lo5])
theorem lds128 (h : Hdr) (o : OpS) : Statement (.lds128 h o) := of_fields rfl rfl (fun _ _ => by
  simp [candidate, candidate6, Fields.hdr, piece_lo5])
theorem sts32 (h : Hdr) (o : OpS) : Statement (.sts32 h o) := of_fields rfl rfl (fun _ _ => by
  simp [candidate, candidate6, Fields.hdr, piece_lo5])
theorem sts64 (h : Hdr) (o : OpS) : Statement (.sts64 h o) := of_fields rfl rfl (fun _ _ => by
  simp [candidate, candidate6, Fields.hdr, piece_lo5])
theorem sts128 (h : Hdr) (o : OpS) : Statement (.sts128 h o) := of_fields rfl rfl (fun _ _ => by
  simp [candidate, candidate6, Fields.hdr, piece_lo5])
theorem prefetch (h : Hdr) (o : OpPf) : Statement (.prefetch h o) := of_fields rfl rfl (fun _ _ => by
  simp [candidate, candidate6, Fields.hdr, piece_lo5, piece_hi2])
theorem atom32Add (h : Hdr) (o : OpAT) : Statement (.atom32Add h o) := of_fields rfl rfl (fun _ _ => by
  simp [candidate, candidate6, Fields.hdr, piece_lo3, piece_hi4])
theorem atom32And (h : Hdr) (o : OpAT) : Statement (.atom32And h o) := of_fields rfl rfl (fun _ _ => by
  simp [candidate, candidate6, Fields.hdr, piece_lo3, piece_hi4])
theorem atom32Or (h : Hdr) (o : OpAT) : Statement (.atom32Or h o) := of_fields rfl rfl (fun _ _ => by
  simp [candidate, candidate6, Fields.hdr, piece_lo3, piece_hi4])
theorem atom32Xor (h : Hdr) (o : OpAT) : Statement (.atom32Xor h o) := of_fields rfl rfl (fun _ _ => by
  simp [candidate, candidate6, Fields.hdr, piece_lo3, piece_hi4])
theorem atom32MinI (h : Hdr) (o : OpAT) : Statement (.atom32MinI h o) := of_fields rfl rfl (fun _ _ => by
  simp [candidate, candidate6, Fields.hdr, piece_lo3, piece_hi4])
theorem atom32MaxI (h : Hdr) (o : OpAT) : Statement (.atom32MaxI h o) := of_fields rfl rfl (fun _ _ => by
  simp [candidate, candidate6, Fields.hdr, piece_lo3, piece_hi4])
theorem atom32MinN (h : Hdr) (o : OpAT) : Statement (.atom32MinN h o) := of_fields rfl rfl (fun _ _ => by
  simp [candidate, candidate6, Fields.hdr, piece_lo3, piece_hi4])
theorem atom32MaxN (h : Hdr) (o : OpAT) : Statement (.atom32MaxN h o) := of_fields rfl rfl (fun _ _ => by
  simp [candidate, candidate6, Fields.hdr, piece_lo3, piece_hi4])
theorem atom32Exch (h : Hdr) (o : OpAT) : Statement (.atom32Exch h o) := of_fields rfl rfl (fun _ _ => by
  simp [candidate, candidate6, Fields.hdr, piece_lo3, piece_hi4])
theorem atom32Cas (h : Hdr) (o : OpAT) : Statement (.atom32Cas h o) := of_fields rfl rfl (fun _ _ => by
  simp [candidate, candidate6, Fields.hdr, piece_lo3, piece_hi4])
theorem atom32Fadd (h : Hdr) (o : OpAT) : Statement (.atom32Fadd h o) := of_fields rfl rfl (fun _ _ => by
  simp [candidate, candidate6, Fields.hdr, piece_lo3, piece_hi4])
theorem atom32Fmin (h : Hdr) (o : OpAT) : Statement (.atom32Fmin h o) := of_fields rfl rfl (fun _ _ => by
  simp [candidate, candidate6, Fields.hdr, piece_lo3, piece_hi4])
theorem atom32Fmax (h : Hdr) (o : OpAT) : Statement (.atom32Fmax h o) := of_fields rfl rfl (fun _ _ => by
  simp [candidate, candidate6, Fields.hdr, piece_lo3, piece_hi4])
theorem atom64Add (h : Hdr) (o : OpAT) : Statement (.atom64Add h o) := of_fields rfl rfl (fun _ _ => by
  simp [candidate, candidate6, Fields.hdr, piece_lo3, piece_hi4])
theorem atom64And (h : Hdr) (o : OpAT) : Statement (.atom64And h o) := of_fields rfl rfl (fun _ _ => by
  simp [candidate, candidate6, Fields.hdr, piece_lo3, piece_hi4])
theorem atom64Or (h : Hdr) (o : OpAT) : Statement (.atom64Or h o) := of_fields rfl rfl (fun _ _ => by
  simp [candidate, candidate6, Fields.hdr, piece_lo3, piece_hi4])
theorem atom64Xor (h : Hdr) (o : OpAT) : Statement (.atom64Xor h o) := of_fields rfl rfl (fun _ _ => by
  simp [candidate, candidate6, Fields.hdr, piece_lo3, piece_hi4])
theorem atom64MinI (h : Hdr) (o : OpAT) : Statement (.atom64MinI h o) := of_fields rfl rfl (fun _ _ => by
  simp [candidate, candidate6, Fields.hdr, piece_lo3, piece_hi4])
theorem atom64MaxI (h : Hdr) (o : OpAT) : Statement (.atom64MaxI h o) := of_fields rfl rfl (fun _ _ => by
  simp [candidate, candidate6, Fields.hdr, piece_lo3, piece_hi4])
theorem atom64MinN (h : Hdr) (o : OpAT) : Statement (.atom64MinN h o) := of_fields rfl rfl (fun _ _ => by
  simp [candidate, candidate6, Fields.hdr, piece_lo3, piece_hi4])
theorem atom64MaxN (h : Hdr) (o : OpAT) : Statement (.atom64MaxN h o) := of_fields rfl rfl (fun _ _ => by
  simp [candidate, candidate6, Fields.hdr, piece_lo3, piece_hi4])
theorem atom64Exch (h : Hdr) (o : OpAT) : Statement (.atom64Exch h o) := of_fields rfl rfl (fun _ _ => by
  simp [candidate, candidate6, Fields.hdr, piece_lo3, piece_hi4])
theorem atom64Cas (h : Hdr) (o : OpAT) : Statement (.atom64Cas h o) := of_fields rfl rfl (fun _ _ => by
  simp [candidate, candidate6, Fields.hdr, piece_lo3, piece_hi4])
theorem atoms32Add (h : Hdr) (o : OpATS) : Statement (.atoms32Add h o) := of_fields rfl rfl (fun _ _ => by
  simp [candidate, candidate6, Fields.hdr, piece_lo3, piece_hi4])
theorem atoms32And (h : Hdr) (o : OpATS) : Statement (.atoms32And h o) := of_fields rfl rfl (fun _ _ => by
  simp [candidate, candidate6, Fields.hdr, piece_lo3, piece_hi4])
theorem atoms32Or (h : Hdr) (o : OpATS) : Statement (.atoms32Or h o) := of_fields rfl rfl (fun _ _ => by
  simp [candidate, candidate6, Fields.hdr, piece_lo3, piece_hi4])
theorem atoms32Xor (h : Hdr) (o : OpATS) : Statement (.atoms32Xor h o) := of_fields rfl rfl (fun _ _ => by
  simp [candidate, candidate6, Fields.hdr, piece_lo3, piece_hi4])
theorem atoms32MinI (h : Hdr) (o : OpATS) : Statement (.atoms32MinI h o) := of_fields rfl rfl (fun _ _ => by
  simp [candidate, candidate6, Fields.hdr, piece_lo3, piece_hi4])
theorem atoms32MaxI (h : Hdr) (o : OpATS) : Statement (.atoms32MaxI h o) := of_fields rfl rfl (fun _ _ => by
  simp [candidate, candidate6, Fields.hdr, piece_lo3, piece_hi4])
theorem atoms32MinN (h : Hdr) (o : OpATS) : Statement (.atoms32MinN h o) := of_fields rfl rfl (fun _ _ => by
  simp [candidate, candidate6, Fields.hdr, piece_lo3, piece_hi4])
theorem atoms32MaxN (h : Hdr) (o : OpATS) : Statement (.atoms32MaxN h o) := of_fields rfl rfl (fun _ _ => by
  simp [candidate, candidate6, Fields.hdr, piece_lo3, piece_hi4])
theorem atoms32Exch (h : Hdr) (o : OpATS) : Statement (.atoms32Exch h o) := of_fields rfl rfl (fun _ _ => by
  simp [candidate, candidate6, Fields.hdr, piece_lo3, piece_hi4])
theorem atoms32Cas (h : Hdr) (o : OpATS) : Statement (.atoms32Cas h o) := of_fields rfl rfl (fun _ _ => by
  simp [candidate, candidate6, Fields.hdr, piece_lo3, piece_hi4])
theorem atoms32Fadd (h : Hdr) (o : OpATS) : Statement (.atoms32Fadd h o) := of_fields rfl rfl (fun _ _ => by
  simp [candidate, candidate6, Fields.hdr, piece_lo3, piece_hi4])
theorem atoms32Fmin (h : Hdr) (o : OpATS) : Statement (.atoms32Fmin h o) := of_fields rfl rfl (fun _ _ => by
  simp [candidate, candidate6, Fields.hdr, piece_lo3, piece_hi4])
theorem atoms32Fmax (h : Hdr) (o : OpATS) : Statement (.atoms32Fmax h o) := of_fields rfl rfl (fun _ _ => by
  simp [candidate, candidate6, Fields.hdr, piece_lo3, piece_hi4])
theorem fenceAcq (h : Hdr) (o : OpScope) : Statement (.fenceAcq h o) := of_fields rfl rfl (fun _ _ => by
  simp [candidate, candidate6, Fields.hdr, piece_lo3, piece_hi4])
theorem fenceRel (h : Hdr) (o : OpScope) : Statement (.fenceRel h o) := of_fields rfl rfl (fun _ _ => by
  simp [candidate, candidate6, Fields.hdr, piece_lo3, piece_hi4])
theorem fenceFull (h : Hdr) (o : OpScope) : Statement (.fenceFull h o) := of_fields rfl rfl (fun _ _ => by
  simp [candidate, candidate6, Fields.hdr, piece_lo3, piece_hi4])
theorem qfence (h : Hdr) (o : OpA) : Statement (.qfence h o) := of_fields rfl rfl (fun _ _ => by
  simp [candidate, candidate6, Fields.hdr])
theorem flush (h : Hdr) (o : OpFlush) : Statement (.flush h o) := of_fields rfl rfl (fun _ _ => by
  simp [candidate, candidate6, Fields.hdr])
theorem mxs (h : Hdr) (o : OpEnA) : Statement (.mxs h o) := of_fields rfl rfl (fun _ _ => by
  simp [candidate, candidate7, Fields.hdr, piece_lo3, piece_hi4])
theorem smx (h : Hdr) (o : OpEnA) : Statement (.smx h o) := of_fields rfl rfl (fun _ _ => by
  simp [candidate, candidate7, Fields.hdr, piece_lo3, piece_hi4])
theorem mxrd (h : Hdr) (o : OpDAQ) : Statement (.mxrd h o) := of_fields rfl rfl (fun _ _ => by
  simp [candidate, candidate7, Fields.hdr, piece_lo3])
theorem mxstat (h : Hdr) (o : OpDQ) : Statement (.mxstat h o) := of_fields rfl rfl (fun _ _ => by
  simp [candidate, candidate7, Fields.hdr, piece_lo3])
theorem cpbox (h : Hdr) (o : OpEn) : Statement (.cpbox h o) := of_fields rfl rfl (fun _ _ => by
  simp [candidate, candidate7, Fields.hdr, piece_lo3, piece_hi4])
theorem cplin (h : Hdr) (o : OpEn) : Statement (.cplin h o) := of_fields rfl rfl (fun _ _ => by
  simp [candidate, candidate7, Fields.hdr, piece_lo3, piece_hi4])
theorem stcfg (h : Hdr) (o : OpAQ) : Statement (.stcfg h o) := of_fields rfl rfl (fun _ _ => by
  simp [candidate, candidate7, Fields.hdr, piece_lo3])
theorem rtplan (h : Hdr) (o : OpEnS) : Statement (.rtplan h o) := of_fields rfl rfl (fun _ _ => by
  simp [candidate, candidate7, Fields.hdr, piece_spl_h, piece_spl_q])
theorem rtscat (h : Hdr) (o : OpEnS) : Statement (.rtscat h o) := of_fields rfl rfl (fun _ _ => by
  simp [candidate, candidate7, Fields.hdr, piece_spl_h, piece_spl_q])
theorem rtcomb (h : Hdr) (o : OpEnS) : Statement (.rtcomb h o) := of_fields rfl rfl (fun _ _ => by
  simp [candidate, candidate7, Fields.hdr, piece_spl_h, piece_spl_q])
theorem nmcall (h : Hdr) (o : OpEnN) : Statement (.nmcall h o) := of_fields rfl rfl (fun _ _ => by
  simp [candidate, candidate7, Fields.hdr, piece_hi4])
theorem nmbkMac (h : Hdr) (o : OpNbMac) : Statement (.nmbkMac h o) := of_fields rfl rfl (fun _ _ => by
  obtain ⟨a, all, clr, fb⟩ := o
  cases all <;> cases clr <;> cases fb <;> simp [candidate, candidate7, Fields.hdr])
theorem nmbkBcst (h : Hdr) (o : OpNbBcst) : Statement (.nmbkBcst h o) := of_fields rfl rfl (fun _ _ => by
  obtain ⟨d, a, all⟩ := o
  cases all <;> simp [candidate, candidate7, Fields.hdr])
theorem nmbkRdac (h : Hdr) (o : OpNbRdac) : Statement (.nmbkRdac h o) := of_fields rfl rfl (fun _ _ => by
  obtain ⟨d, a, clr, fb⟩ := o
  cases clr <;> cases fb <;> simp [candidate, candidate7, Fields.hdr])
theorem nmbkLmac (h : Hdr) (o : OpNbLmac) : Statement (.nmbkLmac h o) := of_fields rfl rfl (fun _ _ => by
  obtain ⟨tb, a, clr⟩ := o
  cases clr <;> simp [candidate, candidate7, Fields.hdr, piece_tb])
theorem cntadd (h : Hdr) (o : OpCnt) : Statement (.cntadd h o) := of_fields rfl rfl (fun _ _ => by
  simp [candidate, candidate7, Fields.hdr, piece_lo3])
theorem sysrd (h : Hdr) (o : OpSys) : Statement (.sysrd h o) := of_fields rfl rfl (fun _ _ => by
  simp [candidate, candidate7, Fields.hdr, join_num14])
theorem syswr (h : Hdr) (o : OpSys) : Statement (.syswr h o) := of_fields rfl rfl (fun hw _ => by
  have hn : ¬o.num = 64#14 := by simpa [Instr.wf] using hw
  simp [hn, candidate, candidate7, Fields.hdr, join_num14])
theorem trapret (h : Hdr) : Statement (.trapret h) := of_fields rfl rfl (fun _ _ => by
  simp [candidate, candidate7, Fields.hdr])
theorem flagsWrite (h : Hdr) (o : OpD) : Statement (.flagsWrite h o) := of_fields rfl rfl (fun _ _ => by
  simp [candidate, candidate7, Fields.hdr])
theorem rrcommitCommit (who : Who) : Statement (.rrcommitCommit who) := of_event rfl
theorem rrcommitFetch (who : Who) : Statement (.rrcommitFetch who) := of_event rfl
theorem stinv (who : Who) (stack : Nat) : Statement (.stinv who stack) := of_event rfl
theorem nmcinv (who : Who) (stack : Nat) : Statement (.nmcinv who stack) := of_event rfl
theorem icinv (who : Who) : Statement (.icinv who) := of_event rfl
theorem reload (who : Who) (part : Nat) : Statement (.reload who part) := of_event rfl
theorem kill (who : Who) (part : Nat) (asid : Nat) : Statement (.kill who part asid) := of_event rfl
theorem nmkickScrub (who : Who) (stack : Nat) (ia : Nat) : Statement (.nmkickScrub who stack ia) := of_event rfl
theorem nmkickMigrationCopy (who : Who) (stack : Nat) (ia : Nat) : Statement (.nmkickMigrationCopy who stack ia) := of_event rfl
theorem nmkickZero (who : Who) (stack : Nat) (ia : Nat) : Statement (.nmkickZero who stack ia) := of_event rfl
theorem portmapEnable (who : Who) (port : Nat) (val : Dword) : Statement (.portmapEnable who port val) := of_event rfl
theorem issueTurn (core : Nat) : Statement (.issueTurn core) := of_event rfl
theorem rhizoidIssue (stack : Nat) (pos : Nat) : Statement (.rhizoidIssue stack pos) := of_event rfl
theorem hitchDeadlock (wg : Nat) : Statement (.hitchDeadlock wg) := of_event rfl
theorem waitgeReread (wg : Nat) (t : Nat) : Statement (.waitgeReread wg t) := of_event rfl
theorem waitpRead (wg : Nat) (t : Nat) : Statement (.waitpRead wg t) := of_event rfl
theorem storeDrain (wg : Nat) (braid : Nat) : Statement (.storeDrain wg braid) := of_event rfl
theorem storePerformHome (core : Nat) (idx : Nat) : Statement (.storePerformHome core idx) := of_event rfl
theorem loadReturn (wg : Nat) (t : Nat) (seq : Nat) : Statement (.loadReturn wg t seq) := of_event rfl
theorem fenceToken (core : Nat) (idx : Nat) : Statement (.fenceToken core idx) := of_event rfl
theorem workgroupRetire (wg : Nat) : Statement (.workgroupRetire wg) := of_event rfl
theorem leaveRequest (die : Nat) (asker : Nat) (id : Nat) : Statement (.leaveRequest die asker id) := of_event rfl
theorem matrixSelect (cluster : Nat) : Statement (.matrixSelect cluster) := of_event rfl
theorem matrixPass (cluster : Nat) : Statement (.matrixPass cluster) := of_event rfl
theorem tileClaimPass (cluster : Nat) (tile : Nat) : Statement (.tileClaimPass cluster tile) := of_event rfl
theorem smxNormPass (cluster : Nat) : Statement (.smxNormPass cluster) := of_event rfl
theorem aliasBuild (cluster : Nat) : Statement (.aliasBuild cluster) := of_event rfl
theorem smxSamplePass (cluster : Nat) : Statement (.smxSamplePass cluster) := of_event rfl
theorem copyBegin (cluster : Nat) (queue : Nat) : Statement (.copyBegin cluster queue) := of_event rfl
theorem copyChunk (cluster : Nat) (queue : Nat) : Statement (.copyChunk cluster queue) := of_event rfl
theorem copyComplete (cluster : Nat) (queue : Nat) : Statement (.copyComplete cluster queue) := of_event rfl
theorem splicePlanRun (die : Nat) (queue : Nat) : Statement (.splicePlanRun die queue) := of_event rfl
theorem spliceScatterRow (die : Nat) (queue : Nat) : Statement (.spliceScatterRow die queue) := of_event rfl
theorem spliceCombineRow (die : Nat) (queue : Nat) : Statement (.spliceCombineRow die queue) := of_event rfl
theorem spliceComplete (die : Nat) (queue : Nat) : Statement (.spliceComplete die queue) := of_event rfl
theorem callDispatch (stack : Nat) : Statement (.callDispatch stack) := of_event rfl
theorem blockComplete (wg : Nat) : Statement (.blockComplete wg) := of_event rfl
theorem bankCommandExecute (stack : Nat) (pch : Nat) : Statement (.bankCommandExecute stack pch) := of_event rfl
theorem allbankWave (stack : Nat) : Statement (.allbankWave stack) := of_event rfl
theorem microcodeRowStep (stack : Nat) : Statement (.microcodeRowStep stack) := of_event rfl
theorem microcodeKernelEnd (stack : Nat) : Statement (.microcodeKernelEnd stack) := of_event rfl
theorem reductionAdd (stack : Nat) : Statement (.reductionAdd stack) := of_event rfl
theorem graphDone (part : Nat) : Statement (.graphDone part) := of_event rfl
theorem asyncTrap (wg : Nat) (t : Nat) : Statement (.asyncTrap wg t) := of_event rfl
theorem workgroupFatal (wg : Nat) : Statement (.workgroupFatal wg) := of_event rfl
theorem pageNotResident (stack : Nat) (id : Nat) : Statement (.pageNotResident stack id) := of_event rfl
theorem peerRetry (id : Nat) : Statement (.peerRetry id) := of_event rfl
theorem laneRetrainDone (port : Nat) : Statement (.laneRetrainDone port) := of_event rfl
theorem clusterSubstitute (cluster : Nat) : Statement (.clusterSubstitute cluster) := of_event rfl
theorem rowRetire (stack : Nat) (row : Nat) : Statement (.rowRetire stack row) := of_event rfl
theorem hainv : Statement (.hainv) := of_event rfl
theorem piinv : Statement (.piinv) := of_event rfl
theorem cminv : Statement (.cminv) := of_event rfl
theorem engineRequestPass : Statement (.engineRequestPass) := of_event rfl
theorem sleepWake : Statement (.sleepWake) := of_event rfl
theorem dispatchStep : Statement (.dispatchStep) := of_event rfl
theorem launchComplete : Statement (.launchComplete) := of_event rfl
theorem budgetPeriod : Statement (.budgetPeriod) := of_event rfl
theorem timeSliceEnd : Statement (.timeSliceEnd) := of_event rfl
theorem partitionSwap : Statement (.partitionSwap) := of_event rfl
theorem contextRestore : Statement (.contextRestore) := of_event rfl
theorem pageEvict : Statement (.pageEvict) := of_event rfl
theorem pageBringBack : Statement (.pageBringBack) := of_event rfl
theorem powerWindowStart : Statement (.powerWindowStart) := of_event rfl
theorem leaveGrant : Statement (.leaveGrant) := of_event rfl
theorem thermalTrip : Statement (.thermalTrip) := of_event rfl
theorem walkerNodeStep : Statement (.walkerNodeStep) := of_event rfl
theorem launchNodeRetry : Statement (.launchNodeRetry) := of_event rfl
theorem graphArm : Statement (.graphArm) := of_event rfl
theorem regionFatal : Statement (.regionFatal) := of_event rfl
theorem counterAddFail : Statement (.counterAddFail) := of_event rfl
theorem uncorrectableError : Statement (.uncorrectableError) := of_event rfl
theorem hostMemRead : Statement (.hostMemRead) := of_event rfl
theorem hostMemWrite : Statement (.hostMemWrite) := of_event rfl
theorem hostSnoop : Statement (.hostSnoop) := of_event rfl
theorem hostRegisterAccess : Statement (.hostRegisterAccess) := of_event rfl
theorem msixUnmask : Statement (.msixUnmask) := of_event rfl
theorem peerRead : Statement (.peerRead) := of_event rfl
theorem peerWrite : Statement (.peerWrite) := of_event rfl
theorem peerAtomic : Statement (.peerAtomic) := of_event rfl
theorem peerLost : Statement (.peerLost) := of_event rfl
theorem laneFailure : Statement (.laneFailure) := of_event rfl
theorem cxlLinkDown : Statement (.cxlLinkDown) := of_event rfl
theorem resetDevice : Statement (.resetDevice) := of_event rfl
theorem spdmGetVersion : Statement (.spdmGetVersion) := of_event rfl
theorem spdmGetCapabilities : Statement (.spdmGetCapabilities) := of_event rfl
theorem spdmNegotiateAlgorithms : Statement (.spdmNegotiateAlgorithms) := of_event rfl
theorem spdmGetDigests : Statement (.spdmGetDigests) := of_event rfl
theorem spdmGetCertificate : Statement (.spdmGetCertificate) := of_event rfl
theorem spdmChallenge : Statement (.spdmChallenge) := of_event rfl
theorem spdmGetMeasurements : Statement (.spdmGetMeasurements) := of_event rfl
theorem correctedError : Statement (.correctedError) := of_event rfl
theorem ualinkPortUp : Statement (.ualinkPortUp) := of_event rfl
theorem cxlLinkUp : Statement (.cxlLinkUp) := of_event rfl

end Laws.DecodeEncode

end Sys2Proof
end

