-- ==== Sys2Proof/Tests/Slice0.lean ====
section
/-! SUPPORT. Tests: ill-formed terms that WellFormed refuses, words written out from the encodings of the spec, one-step tests on
values of the spec's tables or worked out by hand from its rules, and witnesses for the hypotheses of the statements. -/

namespace Sys2Proof.Tests
open Sys2Proof.Machine
set_option maxRecDepth 20000
set_option Elab.async false

/-! ## Small machines -/

/-- Thread `t` of workgroup 1, on home lane `t`, with registers `v` and predicates `p`. -/
def lane (t : Nat) (v : Tbl Word) (p : BitVec 32) : Thread := { loadedThread with t := t, lane := t, v := v, p := p }

/-- A core about to execute the first word of a packet that the threads `xs` issue together. -/
def machine (core : Nat) (stack : Option Nat) (ws : List Word) (xs : List Thread) : State :=
  { State.reset.withPacket core stack ws with
    agenda := [], cur := some ⟨core, 0, 0, wordAt ws 0⟩, wgs := [(1, { loadedWg core stack with t := xs.length })],
    threads := xs.map (fun x => (tkey 1 x.t, x)),
    cores := [(core, { Core.reset with turn := some ⟨1, 0, [⟨0, ws, false, xs.map Member.new⟩], [], [], []⟩, turns := 1 })] }

/-- The word in progress of `machine`. -/
def now (core : Nat) (ws : List Word) : Cur := ⟨core, 0, 0, wordAt ws 0⟩

/-- One thread on core 0, which is about to execute `i`. -/
def solo (i : Instr) (v : Tbl Word) : State := machine 0 none (encode i) [lane 0 v 1#32]

/-- What `i` does to it. -/
def ran (i : Instr) (s : State) : State :=
  match exec i s with
  | .next t => t
  | _ => s

/-- Register `r` of thread `t` after `i`. -/
def reg (i : Instr) (s : State) (t r : Nat) : Word := Tbl.getD ((ran i s).thr 1 t).v r 0#32

def hd : Hdr := ⟨false, 0#2⟩

/-- v1 and v2. -/
def ab (a b : Word) : Tbl Word := [(1, a), (2, b)]

def rr : OpRR := ⟨false, 3, 1, 2⟩
def rf : OpRF := ⟨false, 3, 1⟩

/-! ## WellFormed refuses -/

theorem test_wf_n_with_d : (Instr.iadd hd ⟨true, 3, 1, 2⟩).wf = false := by decide
theorem test_wf_scope : (Instr.fenceRel hd ⟨6⟩).wf = false ∧ (Instr.fenceRel hd ⟨7⟩).wf = false := by decide
theorem test_wf_brm_beyond_count : (Instr.brm hd ⟨0, 1, 2, 0, 0, 5, 0, 0, 0⟩).wf = false := by decide
theorem test_wf_cvt_same : (Instr.cvt hd ⟨false, 3, 1, 5, 5, false⟩).wf = false := by decide
theorem test_wf_cvt_rz : (Instr.cvt hd ⟨false, 3, 1, 5, 6, true⟩).wf = false := by decide
theorem test_wf_hbfly_stage : (Instr.hbfly hd ⟨false, 3, 1, 6⟩).wf = false := by decide
theorem test_wf_unpk_format : (Instr.unpk hd ⟨false, 3, 1, 0, 3⟩).wf = false := by decide
theorem test_wf_unpk_pair : (Instr.unpk hd ⟨false, 3, 1, 2, 4⟩).wf = false := by decide
theorem test_wf_event : Instr.sleepWake.wf = false := by decide

/-! ## Integer words (R265 to R274) -/

theorem test_iadd_wraps : reg (.iadd hd rr) (solo (.iadd hd rr) (ab 0xFFFFFFFF 2)) 0 3 = 1 := by decide
theorem test_isub_wraps : reg (.isub hd rr) (solo (.isub hd rr) (ab 1 2)) 0 3 = 0xFFFFFFFF := by decide
theorem test_imul : reg (.imul hd rr) (solo (.imul hd rr) (ab 0xFFFFFFFE 3)) 0 3 = 0xFFFFFFFA := by decide
theorem test_imulhiI : reg (.imulhiI hd rr) (solo (.imulhiI hd rr) (ab 0xFFFFFFFE 3)) 0 3 = 0xFFFFFFFF := by decide

/-- What `i` writes to v3 of one thread with v1 and v2. -/
def two (i : Instr) (a b : Word) : Word := reg i (solo i (ab a b)) 0 3

/-- The same with v3 read as well. -/
def three (i : Instr) (a b d : Word) : Word := reg i (solo i [(1, a), (2, b), (3, d)]) 0 3

/-- What is to land at the end of the cycle. -/
def lands (i : Instr) (s : State) : List CycAct := (ran i s).landing 0

theorem test_imulhiN : two (.imulhiN hd rr) 0xFFFFFFFE 3 = 2 := by decide
theorem test_imad : three (.imad hd ⟨false, 3, 1, 2⟩) 0xFFFFFFFE 3 7 = 1 := by decide
theorem test_imad_n_keeps_d : three (.imad hd ⟨true, 3, 1, 2⟩) 5 3 7 = 7 := by decide
theorem test_iminI : two (.iminI hd rr) 0xFFFFFFFF 1 = 0xFFFFFFFF := by decide
theorem test_imaxI : two (.imaxI hd rr) 0xFFFFFFFF 1 = 1 := by decide
theorem test_iminN : two (.iminN hd rr) 0xFFFFFFFF 1 = 1 := by decide
theorem test_imaxN : two (.imaxN hd rr) 0xFFFFFFFF 1 = 0xFFFFFFFF := by decide
theorem test_and : two (.land hd rr) 0b1100 0b1010 = 0b1000 := by decide
theorem test_or : two (.lor hd rr) 0b1100 0b1010 = 0b1110 := by decide
theorem test_xor : two (.lxor hd rr) 0b1100 0b1010 = 0b0110 := by decide
theorem test_shl : two (.shl hd rr) 0x80000011 4 = 0x00000110 := by decide
theorem test_shl_32 : two (.shl hd rr) 1 32 = 0 := by decide
theorem test_shr : two (.shr hd rr) 0x80000010 4 = 0x08000001 := by decide
theorem test_sar_40 : two (.sar hd rr) 0x80000010 40 = 0xFFFFFFFF := by decide
theorem test_iaddi : two (.iaddi hd ⟨false, 3, 1, 0x7F⟩) 0 0 = 0xFFFFFFFF := by decide
theorem test_andi : two (.andi hd ⟨false, 3, 1, 0x7F⟩) 0xFFFFFFFF 0 = 0x7F := by decide
theorem test_ori : two (.ori hd ⟨false, 3, 1, 0x41⟩) 0x80 0 = 0xC1 := by decide
theorem test_xori : two (.xori hd ⟨false, 3, 1, 0x7F⟩) 0xFF 0 = 0x80 := by decide
theorem test_shli : two (.shli hd ⟨false, 3, 1, 31⟩) 3 0 = 0x80000000 := by decide
theorem test_shri : two (.shri hd ⟨false, 3, 1, 31⟩) 0xC0000000 0 = 1 := by decide
theorem test_sari : two (.sari hd ⟨false, 3, 1, 4⟩) 0x80000010 0 = 0xF8000001 := by decide
theorem test_movi : two (.movi hd ⟨false, 3, 0x2000⟩) 0 0 = 0xFFFFE000 := by decide
theorem test_popc : two (.popc hd rf) 0xF0F00001 0 = 9 := by decide
theorem test_clz_zero : two (.clz hd rf) 0 0 = 32 := by decide
theorem test_brev : two (.brev hd rf) 0x00000003 0 = 0xC0000000 := by decide
theorem test_ctz : two (.ctz hd rf) 0x00000100 0 = 8 := by decide
theorem test_not : two (.lnot hd rf) 0x0F0F0F0F 0 = 0xF0F0F0F0 := by decide
theorem test_neg_least : two (.neg hd rf) 0x80000000 0 = 0x80000000 := by decide
theorem test_abs : two (.abs hd rf) 0xFFFFFFFB 0 = 5 := by decide
theorem test_bswz_reverse : three (.bswz hd ⟨false, 3, 1, 2⟩) 0x44332211 0x88776655 0x00000443 = 0x11223344 := by decide
theorem test_bswz_modes : three (.bswz hd ⟨false, 3, 1, 2⟩) 0x44332211 0x88776655 0x000C20A4 = 0xFF006655 := by decide
theorem test_iadd64 : (fun s => (reg (.iadd64 hd ⟨false, 4, 0, 2⟩) s 0 4, reg (.iadd64 hd ⟨false, 4, 0, 2⟩) s 0 5))
    (solo (.iadd64 hd ⟨false, 4, 0, 2⟩) [(0, 0xFFFFFFFF), (1, 1), (2, 1), (3, 2)]) = (0, 4) := by decide
theorem test_addx64_signed : (fun s => (reg (.addx64 hd ⟨false, 4, 0, 2⟩) s 0 4, reg (.addx64 hd ⟨false, 4, 0, 2⟩) s 0 5))
    (solo (.addx64 hd ⟨false, 4, 0, 2⟩) [(0, 0), (1, 1), (2, 0xFFFFFFFF)]) = (0xFFFFFFFF, 0) := by decide
theorem test_isetpI_lt : lands (.isetpI hd ⟨2, 4, 1, 2⟩) (solo (.isetpI hd ⟨2, 4, 1, 2⟩) (ab 0xFFFFFFFF 1)) = [.pred 1 0 4 true] := by decide
theorem test_isetpN_lt : lands (.isetpN hd ⟨2, 4, 1, 2⟩) (solo (.isetpN hd ⟨2, 4, 1, 2⟩) (ab 0xFFFFFFFF 1)) = [.pred 1 0 4 false] := by decide
theorem test_sel : two (.sel ⟨false, 2⟩ rr) 5 6 = 6 := by decide
theorem test_sel_p0 : two (.sel hd rr) 5 6 = 5 := by decide
/-- Table bit 2 * pA + pB: p0 is true, p7 false, so bit 2. -/
theorem test_plop : lands (.plop hd ⟨4, 0, 7, 0b0100⟩) (solo (.plop hd ⟨4, 0, 7, 0b0100⟩) []) = [.pred 1 0 4 true] := by decide
theorem test_p2v : reg (.p2v hd ⟨false, 3⟩) (machine 0 none (encode (.p2v hd ⟨false, 3⟩)) [lane 0 [] 0x10]) 0 3 = 0x11 := by decide
theorem test_v2p : CycAct.pred 1 0 31 true ∈ lands (.v2p hd ⟨1⟩) (solo (.v2p hd ⟨1⟩) (ab 0x80000000 0)) := by decide
theorem test_clkrd : reg (.clkrd hd ⟨4⟩) { solo (.clkrd hd ⟨4⟩) [] with clk := 2 ^ 32 + 5 } 0 5 = 1 := by decide
theorem test_lit32 : reg (.lit32 ⟨true, 0⟩ ⟨5, 0xDEADBEEF⟩) (solo (.lit32 ⟨true, 0⟩ ⟨5, 0xDEADBEEF⟩) []) 0 5 = 0xDEADBEEF := by decide

/-! ## Floating-point words (R276 to R288) -/

/-- What `i` writes to v3, and the flags that it raises. -/
def fp (i : Instr) (a b : Word) : Word × List CycAct := (two i a b, lands i (solo i (ab a b)))

theorem test_fadd : fp (.fadd hd rr) 0x3F800000 0x3F800000 = (0x40000000, []) := by decide
theorem test_fsub_zero : two (.fsub hd rr) 0x3F800000 0x3F800000 = 0 := by decide
theorem test_fmul_overflow : two (.fmul hd rr) 0x7F000000 0x7F000000 = 0x7F800000 := by decide
theorem test_ffma : three (.ffma hd ⟨false, 3, 1, 2⟩) 0x40000000 0x40400000 0x3F800000 = 0x40E00000 := by decide
theorem test_fmin_zeros : two (.fmin hd rr) 0 0x80000000 = 0x80000000 := by decide
theorem test_fmax : two (.fmax hd rr) 0x3F800000 0xC0000000 = 0x3F800000 := by decide
theorem test_fdiv : two (.fdiv hd rr) 0x40C00000 0x40400000 = 0x40000000 := by decide
theorem test_fsetp_nan : lands (.fsetp hd ⟨1, 4, 1, 2⟩) (solo (.fsetp hd ⟨1, 4, 1, 2⟩) (ab 0x7FC00000 0)) = [.pred 1 0 4 true] := by decide
theorem test_fabs : two (.fabs hd rf) 0xBF800000 0 = 0x3F800000 := by decide
theorem test_fneg_nan : two (.fneg hd rf) 0xFFC00001 0 = 0x7FC00000 := by decide
theorem test_ffloor : two (.ffloor hd rf) 0xBF000000 0 = 0xBF800000 := by decide
theorem test_fceil : two (.fceil hd rf) 0xBF000000 0 = 0x80000000 := by decide
theorem test_ftrunc : two (.ftrunc hd rf) 0xC0600000 0 = 0xC0400000 := by decide
theorem test_frint_even : two (.frint hd rf) 0x40200000 0 = 0x40000000 := by decide
theorem test_hadd2Bf16 : two (.hadd2Bf16 hd rr) 0x3F804000 0x3F804000 = 0x40004080 := by decide
theorem test_hadd2F16 : two (.hadd2F16 hd rr) 0x3C004000 0x3C003C00 = 0x40004200 := by decide
theorem test_hmul2Bf16 : two (.hmul2Bf16 hd rr) 0x40003F80 0x40003F80 = 0x40803F80 := by decide
theorem test_hmul2F16 : two (.hmul2F16 hd rr) 0x40003C00 0x42003C00 = 0x46003C00 := by decide
theorem test_hfma2Bf16 : three (.hfma2Bf16 hd ⟨false, 3, 1, 2⟩) 0x40003F80 0x40003F80 0x3F803F80 = 0x40A04000 := by decide
theorem test_hfma2F16 : three (.hfma2F16 hd ⟨false, 3, 1, 2⟩) 0x40003C00 0x40003C00 0x3C003C00 = 0x45004000 := by decide
theorem test_hminmax2Bf16 : (fun i => (reg i (solo i (ab 0x3F80C000 0x40003F80)) 0 4, reg i (solo i (ab 0x3F80C000 0x40003F80)) 0 5))
    (.hminmax2Bf16 hd ⟨false, 4, 1, 2⟩) = (0x3F80C000, 0x40003F80) := by decide
theorem test_hminmax2F16 : (fun i => (reg i (solo i (ab 0x3C00C000 0x40003C00)) 0 4, reg i (solo i (ab 0x3C00C000 0x40003C00)) 0 5))
    (.hminmax2F16 hd ⟨false, 4, 1, 2⟩) = (0x3C00C000, 0x40003C00) := by decide
theorem test_cvt_bf16_tie : two (.cvt hd ⟨false, 3, 1, 0, 1, false⟩) 0x3F818000 0 = 0x3F82 := by decide
theorem test_cvt_i8 : two (.cvt hd ⟨false, 3, 1, 0, 7, false⟩) 0xC3480000 0 = 0xFFFFFF81 := by decide
theorem test_gqcvtQ : (fun i => (reg i (solo i (ab 0xBFC00000 1)) 0 4, reg i (solo i (ab 0xBFC00000 1)) 0 5))
    (.gqcvtQ hd ⟨false, 4, 1, 2⟩) = (0xFFFFFFFD, 0xFFFFFFFF) := by decide
theorem test_gqcvtF : reg (.gqcvtF hd ⟨false, 4, 2, 1⟩) (solo (.gqcvtF hd ⟨false, 4, 2, 1⟩) [(1, 1), (2, 0xFFFFFFFD), (3, 0xFFFFFFFF)]) 0 4 =
    0xBFC00000 := by decide
theorem test_rcp : two (.rcp hd rf) 0x40000000 0 = 0x3F000000 := by decide
theorem test_rsqrt : two (.rsqrt hd rf) 0x40800000 0 = 0x3F000000 := by decide
theorem test_sqrt : two (.sqrt hd rf) 0x40800000 0 = 0x40000000 := by decide
theorem test_ex2_integral : two (.ex2 hd rf) 0x40400000 0 = 0x41000000 := by decide
theorem test_lg2_power : two (.lg2 hd rf) 0x41000000 0 = 0x40400000 := by decide
theorem test_sin_zero : two (.sin hd rf) 0x80000000 0 = 0x80000000 := by decide
theorem test_cos_zero : two (.cos hd rf) 0 0 = 0x3F800000 := by decide
theorem test_tanh_large : two (.tanh hd rf) 0xC1200000 0 = 0xBF800000 := by decide

/-! ## Words over co-issue sets (R289 to R298) -/

/-- Four threads that issue `i` together, with v1 of each. -/
def four (i : Instr) (v : List Word) : State :=
  machine 0 none (encode i) ((List.range 4).map (fun t => lane t [(1, v.getD t 0#32), (2, 1#32)] (if t = 2 then 0x11#32 else 1#32)))

/-- What `i` writes to v3 of each of them. -/
def threes (i : Instr) (v : List Word) : List Word := (List.range 4).map (fun t => reg i (four i v) t 3)

theorem test_shflIdx : threes (.shflIdx hd rr) [5, 6, 7, 8] = [6, 6, 6, 6] := by decide
theorem test_shflXor : threes (.shflXor hd rr) [5, 6, 7, 8] = [6, 5, 8, 7] := by decide
theorem test_shflUp : threes (.shflUp hd rr) [5, 6, 7, 8] = [5, 5, 6, 7] := by decide
theorem test_shflDn : threes (.shflDn hd rr) [5, 6, 7, 8] = [6, 7, 8, 8] := by decide
theorem test_voteAll : CycAct.pred 1 3 5 false ∈ lands (.voteAll hd ⟨5, 4⟩) (four (.voteAll hd ⟨5, 4⟩) []) := by decide
theorem test_voteAny : CycAct.pred 1 3 5 true ∈ lands (.voteAny hd ⟨5, 4⟩) (four (.voteAny hd ⟨5, 4⟩) []) := by decide
theorem test_voteBallot : reg (.voteBallot hd ⟨4, 4⟩) (four (.voteBallot hd ⟨4, 4⟩) []) 0 4 = 0b100 := by decide
theorem test_voteEq : CycAct.pred 1 0 5 true ∈ lands (.voteEq hd ⟨5, 1⟩) (four (.voteEq hd ⟨5, 1⟩) [9, 9, 9, 9]) := by decide
theorem test_reduxAdd : threes (.reduxAdd hd rf) [0xFFFFFFFF, 1, 2, 3] = [5, 5, 5, 5] := by decide
theorem test_reduxMinI : threes (.reduxMinI hd rf) [0xFFFFFFFF, 1, 2, 3] = [0xFFFFFFFF, 0xFFFFFFFF, 0xFFFFFFFF, 0xFFFFFFFF] := by decide
theorem test_reduxMaxI : threes (.reduxMaxI hd rf) [0xFFFFFFFF, 1, 2, 3] = [3, 3, 3, 3] := by decide
theorem test_reduxMinN : threes (.reduxMinN hd rf) [0xFFFFFFFF, 1, 2, 3] = [1, 1, 1, 1] := by decide
theorem test_reduxMaxN : reg (.reduxMaxN hd rf) (four (.reduxMaxN hd rf) [0xFFFFFFFF, 1, 2, 3]) 2 3 = 0xFFFFFFFF := by decide
theorem test_reduxAnd : threes (.reduxAnd hd rf) [7, 3, 6, 2] = [2, 2, 2, 2] := by decide
theorem test_reduxOr : threes (.reduxOr hd rf) [4, 1, 0, 1] = [5, 5, 5, 5] := by decide
theorem test_reduxXor : threes (.reduxXor hd rf) [4, 1, 5, 2] = [2, 2, 2, 2] := by decide
theorem test_reduxFmin : threes (.reduxFmin hd rf) [0x3F800000, 0xC0000000, 0, 0] = [0xC0000000, 0xC0000000, 0xC0000000, 0xC0000000] := by decide
theorem test_reduxFmax : threes (.reduxFmax hd rf) [0x41200000, 0xC0000000, 0xC0800000, 0] = [0x41200000, 0x41200000, 0x41200000, 0x41200000] := by
  decide
/-- The example of R293, stages 0 and 2. -/
theorem test_hbfly : threes (.hbfly hd ⟨false, 3, 1, 0⟩) [0x3F800000, 0x40000000, 0x40400000, 0x40800000] =
    [0x40400000, 0xBF800000, 0x40E00000, 0xBF800000] := by decide
theorem test_hbfly_alone : threes (.hbfly hd ⟨false, 3, 1, 2⟩) [0x41200000, 0xC0000000, 0xC0800000, 0] = [0x41200000, 0xC0000000, 0xC0800000, 0] := by
  decide
theorem test_unpk : two (.unpk hd ⟨false, 3, 1, 0, 4⟩) 0x7F3CC038 0 = 0xC0003F80 := by decide
theorem test_unpk_nan : two (.unpk hd ⟨false, 3, 1, 1, 4⟩) 0x7F3CC038 0 = 0x7FC03FC0 := by decide
theorem test_cbld : CycAct.code 1 0 5 0x4000#16 ∈ lands (.cbld hd ⟨1⟩) (four (.cbld hd ⟨1⟩) [0, 0, 0x40003F80, 0]) := by decide
theorem test_qmap : lands (.qmap hd ⟨115, 1⟩) (solo (.qmap hd ⟨115, 1⟩) (ab 0x40000002 0)) = [.bind 1 0 3 0 (.stream 2)] := by decide

/-! ## Witnesses of the statements on registers -/

def m0 (v : Tbl Word) : Member := Member.new (lane 0 v 1#32)

theorem solo_group (i : Instr) (v : Tbl Word) : (solo i v).group (now 0 (encode i)) = [m0 v] := rfl

theorem solo_here (i : Instr) (v : Tbl Word) : (Tbl.get? (solo i v).threads (m0 v).key).isSome = true := by
  show (Tbl.get? [(tkey 1 0, lane 0 v 1#32)] (tkey 1 0)).isSome = true
  simp [Tbl.get?]

theorem solo_issuing (i : Instr) (v : Tbl Word) : Issuing (solo i v) (now 0 (encode i)) :=
  ⟨rfl, by rw [solo_group]; simp, by rw [solo_group]; simp, by rw [solo_group]; simpa using solo_here i v⟩

theorem solo_alone (i : Instr) (v : Tbl Word) (h : acts i (solo i v) (now 0 (encode i)) (m0 v) = true) :
    Alone i (solo i v) (now 0 (encode i)) (m0 v) := ⟨rfl, rfl, solo_here i v, h⟩

theorem solo_doers (i : Instr) (v : Tbl Word) (h : acts i (solo i v) (now 0 (encode i)) (m0 v) = true) :
    m0 v ∈ (solo i v).doers (now 0 (encode i)) i := List.mem_filter.mpr ⟨List.mem_singleton.mpr rfl, h⟩

/-- An instruction of one thread meets the premises that most statements have, and `h` of that thread. -/
def Meets (i : Instr) (v : Tbl Word) : Prop :=
  Issuing (solo i v) (now 0 (encode i)) ∧ portless i = true ∧ m0 v ∈ (solo i v).doers (now 0 (encode i)) i ∧ Alone i (solo i v) (now 0 (encode i)) (m0 v)

theorem meets (i : Instr) (v : Tbl Word) (p : portless i = true) (h : acts i (solo i v) (now 0 (encode i)) (m0 v) = true) : Meets i v :=
  ⟨solo_issuing i v, p, solo_doers i v h, solo_alone i v h⟩

theorem witness_IntegerTwoSource : (∃ x, intTwo (.iadd hd rr) = some x) ∧ Meets (.iadd hd rr) (ab 1 2) ∧
    ((solo (.iadd hd rr) (ab 1 2)).plain (m0 (ab 1 2)) 1).isSome = true ∧ ((solo (.iadd hd rr) (ab 1 2)).plain (m0 (ab 1 2)) 2).isSome = true :=
  ⟨⟨_, rfl⟩, meets _ _ (by decide) (by decide), by decide, by decide⟩

/-- A source is readable. -/
def Reads (i : Instr) (v : Tbl Word) (a : BitVec 7) : Prop := ((solo i v).plain (m0 v) a).isSome = true

def rrd : OpRRD := ⟨false, 3, 1, 2⟩

theorem witness_IntegerThreeSource : (∃ x, intThree (.imad hd rrd) = some x ∧ x.d.toNat < 112) ∧ Meets (.imad hd rrd) (ab 1 2) ∧
    Reads (.imad hd rrd) (ab 1 2) 1 ∧ Reads (.imad hd rrd) (ab 1 2) 2 ∧ Reads (.imad hd rrd) (ab 1 2) 3 :=
  ⟨⟨_, rfl, by decide⟩, meets _ _ (by decide) (by decide), by unfold Reads; decide, by unfold Reads; decide, by unfold Reads; decide⟩

theorem witness_IntegerOneSource : (∃ x, intOne (.popc hd rf) = some x) ∧ Meets (.popc hd rf) (ab 1 2) ∧ Reads (.popc hd rf) (ab 1 2) 1 :=
  ⟨⟨_, rfl⟩, meets _ _ (by decide) (by decide), by unfold Reads; decide⟩

theorem witness_IntegerPair : Meets (.iadd64 hd ⟨false, 4, 0, 2⟩) (ab 1 2) ∧ (solo (.iadd64 hd ⟨false, 4, 0, 2⟩) (ab 1 2)).plainPair (m0 (ab 1 2)) 0 ∧
    (solo (.iadd64 hd ⟨false, 4, 0, 2⟩) (ab 1 2)).plainPair (m0 (ab 1 2)) 2 ∧
    Meets (.addx64 hd ⟨false, 4, 0, 2⟩) (ab 1 2) ∧ Reads (.addx64 hd ⟨false, 4, 0, 2⟩) (ab 1 2) 2 :=
  ⟨meets _ _ (by decide) (by decide), ⟨by decide, by decide⟩, ⟨by decide, by decide⟩, meets _ _ (by decide) (by decide), by unfold Reads; decide⟩

theorem witness_ConstantWords : Meets (.movi hd ⟨false, 3, 5⟩) [] ∧ Meets (.p2v hd ⟨false, 3⟩) [] ∧ Meets (.clkrd hd ⟨4⟩) [] ∧
    Meets (.lit32 hd ⟨5, 7⟩) [] ∧ Meets (.sel ⟨false, 2⟩ rr) (ab 1 2) ∧ Reads (.sel ⟨false, 2⟩ rr) (ab 1 2) 1 ∧ Reads (.sel ⟨false, 2⟩ rr) (ab 1 2) 2 :=
  ⟨meets _ _ (by decide) (by decide), meets _ _ (by decide) (by decide), meets _ _ (by decide) (by decide), meets _ _ (by decide) (by decide),
    meets _ _ (by decide) (by decide), by unfold Reads; decide, by unfold Reads; decide⟩

theorem witness_CompareWords : (∃ x, compares (.fsetp hd ⟨1, 4, 1, 2⟩) = some x) ∧ Meets (.fsetp hd ⟨1, 4, 1, 2⟩) (ab 1 2) ∧
    Reads (.fsetp hd ⟨1, 4, 1, 2⟩) (ab 1 2) 1 ∧ Reads (.fsetp hd ⟨1, 4, 1, 2⟩) (ab 1 2) 2 ∧ Meets (.plop hd ⟨4, 0, 7, 4⟩) [] ∧
    Meets (.v2p hd ⟨1⟩) (ab 1 2) ∧ Reads (.v2p hd ⟨1⟩) (ab 1 2) 1 :=
  ⟨⟨_, rfl⟩, meets _ _ (by decide) (by decide), by unfold Reads; decide, by unfold Reads; decide, meets _ _ (by decide) (by decide),
    meets _ _ (by decide) (by decide), by unfold Reads; decide⟩

theorem witness_FloatOneSource : (∃ x, fpOne (.sin hd rf) = some x) ∧ Meets (.sin hd rf) (ab 1 2) ∧ Reads (.sin hd rf) (ab 1 2) 1 :=
  ⟨⟨_, rfl⟩, meets _ _ (by decide) (by decide), by unfold Reads; decide⟩

theorem witness_FloatTwoSource : (∃ x, fpTwo (.fdiv hd rr) = some x) ∧ Meets (.fdiv hd rr) (ab 1 2) ∧ Reads (.fdiv hd rr) (ab 1 2) 1 ∧
    Reads (.fdiv hd rr) (ab 1 2) 2 ∧ (∃ x, fpThree (.ffma hd rrd) = some x ∧ x.d.toNat < 112) ∧ Meets (.ffma hd rrd) (ab 1 2) ∧
    Reads (.ffma hd rrd) (ab 1 2) 3 :=
  ⟨⟨_, rfl⟩, meets _ _ (by decide) (by decide), by unfold Reads; decide, by unfold Reads; decide, ⟨_, rfl, by decide⟩,
    meets _ _ (by decide) (by decide), by unfold Reads; decide⟩

theorem witness_FloatPair : (∃ x, fpPair (.gqcvtQ hd ⟨false, 4, 1, 2⟩) = some x) ∧ Meets (.gqcvtQ hd ⟨false, 4, 1, 2⟩) (ab 1 2) ∧
    Reads (.gqcvtQ hd ⟨false, 4, 1, 2⟩) (ab 1 2) 1 ∧ Reads (.gqcvtQ hd ⟨false, 4, 1, 2⟩) (ab 1 2) 2 ∧
    Meets (.gqcvtF hd ⟨false, 4, 2, 1⟩) (ab 1 2) ∧ (solo (.gqcvtF hd ⟨false, 4, 2, 1⟩) (ab 1 2)).plainPair (m0 (ab 1 2)) 2 ∧
    Reads (.gqcvtF hd ⟨false, 4, 2, 1⟩) (ab 1 2) 1 :=
  ⟨⟨_, rfl⟩, meets _ _ (by decide) (by decide), by unfold Reads; decide, by unfold Reads; decide, meets _ _ (by decide) (by decide),
    ⟨by decide, by decide⟩, by unfold Reads; decide⟩

/-! ## Operands of the value clauses (R89, R98, R103 to R105, R280 to R288, R294, R304) -/

theorem is_of {v : Num.Val} {s : Bool} {m : Nat} {e : Int} {x : ℝ} (h : v = .fin s m e)
    (hx : x = (if s then -1 else 1) * (m : ℝ) * (2 : ℝ) ^ e) : v.Is x := by
  subst h
  exact hx

/-- The values of 128, -150.5, 127, -149, 1.5, 8, 3, 2^-13, -10, 1, -1 and 2. -/
theorem float_operands :
    (Num.d32 0x43000000#32).Is 128 ∧ (Num.d32 0xC3168000#32).Is (-150.5) ∧ (Num.d32 0x42FE0000#32).Is 127 ∧ (Num.d32 0xC3150000#32).Is (-149) ∧
    (Num.d32 0x3FC00000#32).Is 1.5 ∧ (Num.d32 0x41000000#32).Is 8 ∧ (Num.d32 0x40400000#32).Is 3 ∧ (Num.d32 0x39000000#32).Is (2 ^ (-13 : Int)) ∧
    (Num.d32 0xC1200000#32).Is (-10) ∧ (Num.d32 0x3F800000#32).Is 1 ∧ (Num.d32 0xBF800000#32).Is (-1) ∧ (Num.d32 0x40000000#32).Is 2 := by
  refine ⟨is_of (s := false) (m := 8388608) (e := -16) (by decide) ?_, is_of (s := true) (m := 9863168) (e := -16) (by decide) ?_,
    is_of (s := false) (m := 16646144) (e := -17) (by decide) ?_, is_of (s := true) (m := 9764864) (e := -16) (by decide) ?_,
    is_of (s := false) (m := 12582912) (e := -23) (by decide) ?_, is_of (s := false) (m := 8388608) (e := -20) (by decide) ?_,
    is_of (s := false) (m := 12582912) (e := -22) (by decide) ?_, is_of (s := false) (m := 8388608) (e := -36) (by decide) ?_,
    is_of (s := true) (m := 10485760) (e := -20) (by decide) ?_, is_of (s := false) (m := 8388608) (e := -23) (by decide) ?_,
    is_of (s := true) (m := 8388608) (e := -23) (by decide) ?_, is_of (s := false) (m := 8388608) (e := -22) (by decide) ?_⟩ <;> norm_num

theorem not_whole (n : Int) : (1.5 : ℝ) ≠ n := by
  intro h
  have : (3 : ℝ) = ((2 * n : Int) : ℝ) := by push_cast; linarith
  have : (3 : Int) = 2 * n := by exact_mod_cast this
  omega

theorem not_power (n : Int) : (3 : ℝ) ≠ (2 : ℝ) ^ n := by
  intro h
  rcases le_or_gt n 1 with k | k
  · have := zpow_le_zpow_right₀ (by norm_num : (1 : ℝ) ≤ 2) k
    norm_num at this
    linarith
  · have := zpow_le_zpow_right₀ (by norm_num : (1 : ℝ) ≤ 2) (show (2 : Int) ≤ n by omega)
    norm_num at this
    linarith

/-- The bounds that the special functions name: 128, below -150, whole numbers from -149 to 127, powers of two, small and large arguments. -/
theorem witness_FloatOneSource_values :
    Num.d32 0x7FC00000#32 = .nan ∧ (∀ s, Num.d32 (if s then 0xFF800000#32 else 0x7F800000#32) = .inf s) ∧ (Num.d32 0x80000000#32).isZero = true ∧
    (∃ x, (Num.d32 0xBF800000#32).Is x ∧ x < 0) ∧ (∃ x, (Num.d32 0x40400000#32).Is x ∧ 0 < x ∧ ∀ n : Int, x ≠ (2 : ℝ) ^ n) ∧
    (∃ x, (Num.d32 0x43000000#32).Is x ∧ 128 ≤ x) ∧ (∃ x, (Num.d32 0xC3168000#32).Is x ∧ x < -150) ∧
    (∀ n ∈ [(-149 : Int), 127], ∃ a : Word, (Num.d32 a).Is n ∧ -149 ≤ n ∧ n < 128) ∧
    (∃ x, (Num.d32 0x3FC00000#32).Is x ∧ ∀ n : Int, -149 ≤ n → x ≠ n) ∧ (∃ x, (Num.d32 0x41000000#32).Is x ∧ x = (2 : ℝ) ^ (3 : Int)) ∧
    (∃ x, (Num.d32 0x39000000#32).Is x ∧ x ≠ 0 ∧ |x| < (2 : ℝ) ^ (-12 : Int)) ∧ (∃ x, (Num.d32 0xC1200000#32).Is x ∧ 9.5 ≤ |x|) ∧
    fpFormats[(4#3).toNat]? = some Num.e5m2 ∧ cvtSource 5 0x80000000#32 = Num.ofI (-2 ^ 31) ∧ cvtSource 3 0x7F#32 = .nan ∧ cvtSource 4 0xFC#32 = .inf true := by
  obtain ⟨a, b, c, d, e, f, g, h, i, -, j, -⟩ := float_operands
  refine ⟨by decide, by decide, by decide, ⟨_, j, by norm_num⟩, ⟨_, g, by norm_num, not_power⟩, ⟨_, a, le_refl _⟩, ⟨_, b, by norm_num⟩, ?_,
    ⟨_, e, fun n _ => not_whole n⟩, ⟨_, f, by norm_num⟩, ⟨_, h, by positivity, ?_⟩, ⟨_, i, by norm_num⟩, by decide, by decide, by decide, by decide⟩
  · intro n hn
    simp only [List.mem_cons, List.not_mem_nil, or_false] at hn
    rcases hn with rfl | rfl
    · exact ⟨_, by simpa using d, by norm_num, by norm_num⟩
    · exact ⟨_, by simpa using c, by norm_num, by norm_num⟩
  · rw [abs_of_pos (by positivity)]
    norm_num

/-- Operands for every case of the sum, the product, the quotient, the fused product and the choice (and so of the sums that the butterfly and FADD
make): NaN, both infinities, both zeros, 1, -1 and 2. -/
theorem witness_FloatTwoSource_values :
    Num.f32 ∈ [Num.f32, Num.bf16, Num.f16] ∧ Num.bf16 ∈ [Num.bf16, Num.f16] ∧
    Num.decode Num.f32 0x7FC00000 = .nan ∧ Num.decode Num.f32 0x7F800000 = .inf false ∧ Num.decode Num.f32 0xFF800000 = .inf true ∧
    (Num.decode Num.f32 0).isZero = true ∧ (Num.decode Num.f32 0x80000000).isZero = true ∧ (Num.decode Num.f32 0x3F800000).IsFin ∧
    (∃ x, (Num.d32 0x3F800000#32).Is x ∧ (Num.d32 0xBF800000#32).Is (-x)) ∧
    (∃ x y z, (Num.d32 0x3F800000#32).Is x ∧ (Num.d32 0x40000000#32).Is y ∧ (Num.d32 0xBF800000#32).Is z ∧ x + y ≠ 0 ∧ x * y ≠ 0 ∧ x ≠ 0 ∧ y ≠ 0 ∧
      x * y + z ≠ 0) ∧
    (∃ x y, (Num.d32 0x3F800000#32).Is x ∧ (Num.d32 0x3F800000#32).Is y ∧ (Num.d32 0xBF800000#32).Is (-(x * y))) ∧
    (Num.decode Num.f32 0x3F800000).Below (Num.decode Num.f32 0x40000000) ∧ (Num.decode Num.f32 0xFF800000).Below (Num.decode Num.f32 0) := by
  obtain ⟨-, -, -, -, -, -, -, -, -, i, j, k⟩ := float_operands
  refine ⟨by decide, by decide, by decide, by decide, by decide, by decide, by decide, ⟨false, 8388608, -23, by decide⟩, ⟨_, i, j⟩,
    ⟨_, _, _, i, k, j, by norm_num, by norm_num, by norm_num, by norm_num, by norm_num⟩, ⟨_, _, i, i, by simpa using j⟩,
    .inr (.inr ⟨_, _, i, k, by norm_num⟩), .inl ⟨by decide, by decide⟩⟩

/-- GQCVT.Q of an infinity and of a finite value; GQCVT.F of 0 and of another integer. -/
theorem witness_FloatPair_values : ¬ (Num.d32 0x7F800000#32).IsFin ∧ (∃ x, (Num.d32 0x3FC00000#32).Is x) ∧ (0#64 : Dword) = 0#64 ∧ (5#64 : Dword) ≠ 0#64 := by
  refine ⟨?_, ⟨_, float_operands.2.2.2.2.1⟩, rfl, by decide⟩
  rintro ⟨s, m, e, h⟩
  rw [show Num.d32 0x7F800000#32 = .inf false by decide] at h
  cases h

/-- Every format of UNPK: the E4M3 NaN, the E5M2 infinities and finite values. -/
theorem witness_TablesAndPorts_values :
    Num.decode Num.e4m3 0x7F = .nan ∧ (∀ s, Num.decode Num.e5m2 (if s then 0xFC else 0x7C) = .inf s) ∧ (Num.decode Num.e4m3 0x38).Is 1 ∧
    (∀ fmt ∈ [4, 5, 6, 7, 8], 4 ≤ fmt ∧ fmt ≤ 8 ∧ (if fmt < 7 then 1 else 3) < (if fmt < 7 then 2 else 4)) :=
  ⟨by decide, by decide, is_of (s := false) (m := 8) (e := -3) (by decide) (by norm_num), by decide⟩

/-! ## Witnesses of the statements on co-issue sets -/

/-- Four threads issue `i`, and all of them execute it. -/
def Fours (i : Instr) (v : List Word) : Prop :=
  Issuing (four i v) (now 0 (encode i)) ∧ portless i = true ∧ ((four i v).doers (now 0 (encode i)) i).length = 4

theorem fours {i : Instr} {v : List Word} (c : (four i v).cur = some (now 0 (encode i)))
    (a : (((four i v).group (now 0 (encode i))).map Member.key).Nodup) (b : (((four i v).group (now 0 (encode i))).map Member.lane).Nodup)
    (d : ∀ m ∈ (four i v).group (now 0 (encode i)), (Tbl.get? (four i v).threads m.key).isSome = true) (p : portless i = true)
    (l : ((four i v).doers (now 0 (encode i)) i).length = 4) : Fours i v := ⟨⟨c, a, b, d⟩, p, l⟩

theorem witness_Shuffles : (∃ x, shuffles (.shflUp hd rr) = some x) ∧ Fours (.shflUp hd rr) [1, 2, 3, 4] ∧
    (four (.shflUp hd rr) [1, 2, 3, 4]).allPlain (now 0 (encode (.shflUp hd rr))) (.shflUp hd rr) 1 ∧
    (four (.shflUp hd rr) [1, 2, 3, 4]).allPlain (now 0 (encode (.shflUp hd rr))) (.shflUp hd rr) 2 :=
  ⟨⟨_, rfl⟩, fours (by decide) (by decide) (by decide) (by decide) (by decide) (by decide), by unfold State.allPlain; decide,
    by unfold State.allPlain; decide⟩

theorem witness_Votes : Fours (.voteAll hd ⟨5, 4⟩) [] ∧ Fours (.voteAny hd ⟨5, 4⟩) [] ∧ Fours (.voteBallot hd ⟨4, 4⟩) [] ∧
    Fours (.voteEq hd ⟨5, 1⟩) [1, 2] ∧ (four (.voteEq hd ⟨5, 1⟩) [1, 2]).allPlain (now 0 (encode (.voteEq hd ⟨5, 1⟩))) (.voteEq hd ⟨5, 1⟩) 1 :=
  ⟨fours (by decide) (by decide) (by decide) (by decide) (by decide) (by decide), fours (by decide) (by decide) (by decide) (by decide) (by decide) (by decide),
    fours (by decide) (by decide) (by decide) (by decide) (by decide) (by decide), fours (by decide) (by decide) (by decide) (by decide) (by decide) (by decide),
    by unfold State.allPlain; decide⟩

theorem witness_Reductions : (∃ x, reduces (.reduxAdd hd rf) = some x) ∧ Fours (.reduxAdd hd rf) [1, 2] ∧
    (four (.reduxAdd hd rf) [1, 2]).allPlain (now 0 (encode (.reduxAdd hd rf))) (.reduxAdd hd rf) 1 :=
  ⟨⟨_, rfl⟩, fours (by decide) (by decide) (by decide) (by decide) (by decide) (by decide), by unfold State.allPlain; decide⟩

def hb : Instr := .hbfly hd ⟨false, 3, 1, 0⟩
def hb2 : Instr := .hbfly hd ⟨false, 3, 1, 2⟩

/-- With a partner (stage 0) and without one (stage 2, of four threads). -/
theorem witness_Butterfly : Fours hb [1, 2] ∧ (four hb [1, 2]).allPlain (now 0 (encode hb)) hb 1 ∧
    (∃ m ∈ (four hb [1, 2]).doers (now 0 (encode hb)) hb, ((four hb [1, 2]).atBraidLane m ((four hb [1, 2]).setOf (now 0 (encode hb)) hb m)
      (Nat.xor (m.braidLane (four hb [1, 2])) 1)).isSome = true) ∧
    (∃ m ∈ (four hb2 [1, 2]).doers (now 0 (encode hb2)) hb2, (four hb2 [1, 2]).atBraidLane m ((four hb2 [1, 2]).setOf (now 0 (encode hb2)) hb2 m)
      (Nat.xor (m.braidLane (four hb2 [1, 2])) 4) = none) :=
  ⟨fours (by decide) (by decide) (by decide) (by decide) (by decide) (by decide), by unfold State.allPlain; decide, by decide, by decide⟩

theorem witness_TablesAndPorts : Meets (.unpk hd ⟨false, 3, 1, 0, 4⟩) (ab 1 2) ∧ Reads (.unpk hd ⟨false, 3, 1, 0, 4⟩) (ab 1 2) 1 ∧
    Fours (.cbld hd ⟨1⟩) [1, 2] ∧ (four (.cbld hd ⟨1⟩) [1, 2]).allPlain (now 0 (encode (.cbld hd ⟨1⟩))) (.cbld hd ⟨1⟩) 1 ∧
    Issuing (solo (.qmap hd ⟨115, 1⟩) (ab 0x40000002 0)) (now 0 (encode (.qmap hd ⟨115, 1⟩))) ∧
    m0 (ab 0x40000002 0) ∈ (solo (.qmap hd ⟨115, 1⟩) (ab 0x40000002 0)).doers (now 0 (encode (.qmap hd ⟨115, 1⟩))) (.qmap hd ⟨115, 1⟩) ∧
    (solo (.qmap hd ⟨115, 1⟩) (ab 0x40000002 0)).allPlain (now 0 (encode (.qmap hd ⟨115, 1⟩))) (.qmap hd ⟨115, 1⟩) 1 ∧
    (bindingOf 0x40000002).isSome = true ∧ bindingOf 0x40000080 = none :=
  ⟨meets _ _ (by decide) (by decide), by unfold Reads; decide, fours (by decide) (by decide) (by decide) (by decide) (by decide) (by decide),
    by unfold State.allPlain; decide, solo_issuing _ _, by decide, by unfold State.allPlain; decide, by decide, by decide⟩

/-! ## Witnesses of the statements on control transfer and waits -/

/-- Range register 0 of address space 0 holds the first 256 units of the IA space, for reads and writes. -/
def mapped (s : State) : State := { s with ranges := [(0, 0x000000000000000000000000000000FF0000000000000007#192)] }

def mg : Instr := .waitge hd ⟨4, 4⟩
def mp : Instr := .waitp hd ⟨8, 4, 4⟩

/-- Targets in range, below packet 0 and at 2^53. -/
theorem witness_ControlTransfer : Meets (.br hd ⟨5⟩) [] ∧ Meets (.br hd ⟨0x3FFFFF⟩) [] ∧ Meets (.call hd ⟨5⟩) [] ∧
    Meets (.brm hd ⟨1, 0, 3, 0, 0, 2, 3, 0, 0⟩) [] ∧ (m0 []).holds (brmPair ⟨1, 0, 3, 0, 0, 2, 3, 0, 0⟩ 0) = true ∧
    Meets (.brm hd ⟨1, 2, 3, 0, 0, 2, 3, 0, 0⟩) [] ∧ (∀ k, k ≤ 1 → (m0 []).holds (brmPair ⟨1, 2, 3, 0, 0, 2, 3, 0, 0⟩ k) = false) ∧
    Meets (.jmpr hd ⟨4⟩) [(5, 0x00200000)] ∧ (m0 [(5, 0x00200000)]).pair 4 = 2 ^ 53 ∧
    (solo (.jmpr hd ⟨4⟩) [(5, 0x00200000)]).plainPair (m0 [(5, 0x00200000)]) 4 ∧
    Meets (.callr hd ⟨8, 4⟩) [] ∧ (solo (.callr hd ⟨8, 4⟩) []).plainPair (m0 []) 4 :=
  ⟨meets _ _ (by decide) (by decide), meets _ _ (by decide) (by decide), meets _ _ (by decide) (by decide), meets _ _ (by decide) (by decide),
    by decide, meets _ _ (by decide) (by decide), by decide, meets _ _ (by decide) (by decide), by decide, ⟨by decide, by decide⟩,
    meets _ _ (by decide) (by decide), ⟨by decide, by decide⟩⟩

theorem witness_PacketWords : Meets (.exit hd) [] ∧ Meets (.yieldTurn hd) [] ∧ Meets (.trap hd ⟨9⟩) [] ∧ Meets (.sleep hd ⟨1⟩) (ab 5 0) ∧
    Issuing (mapped (solo mg [])) (now 0 (encode mg)) ∧ m0 [] ∈ (mapped (solo mg [])).doers (now 0 (encode mg)) mg ∧
    (mapped (solo mg [])).plainPair (m0 []) 4 ∧ (mapped (solo mg [])).plainPair (m0 []) 6 ∧ (∃ u, (mapped (solo mg [])).counterIa (m0 []) 0 = .ok u) ∧
    Issuing (mapped (solo mp [])) (now 0 (encode mp)) ∧ m0 [] ∈ (mapped (solo mp [])).doers (now 0 (encode mp)) mp ∧
    (mapped (solo mp [])).plainPair (m0 []) 8 ∧ (∃ u, (mapped (solo mp [])).counterIa (m0 []) 0 = .ok u) :=
  ⟨meets _ _ (by decide) (by decide), meets _ _ (by decide) (by decide), meets _ _ (by decide) (by decide), meets _ _ (by decide) (by decide),
    ⟨rfl, by decide, by decide, by decide⟩, by decide, ⟨by decide, by decide⟩, ⟨by decide, by decide⟩, ⟨_, rfl⟩,
    ⟨rfl, by decide, by decide, by decide⟩, by decide, ⟨by decide, by decide⟩, ⟨_, rfl⟩⟩

/-! ## Memory words (R299 to R308) -/

/-- One thread that is about to execute `i`, with IA 0 to 2^24 - 1 mapped for reads and writes at the same VA. -/
def mem (i : Instr) (v : Tbl Word) : State := mapped (solo i v)

/-- What a memory word of the thread is to do, and where. -/
def pending (s : State) : List (MKind × Nat × Nat) := (s.thr 1 0).mops.map (fun m => (m.kind, m.va, m.ia))

def ma (d off : Nat) : OpMA := ⟨false, BitVec.ofNat 7 d, 1, 0, BitVec.ofNat 5 off⟩

theorem test_ld32 : pending (ran (.ld32 hd (ma 4 2)) (mem (.ld32 hd (ma 4 2)) (ab 0x100 0))) = [(.load 4 4 false, 0x108, 0x108)] := by decide
theorem test_ld16s_misaligned : ((ran (.ld16s hd (ma 4 0)) (mem (.ld16s hd (ma 4 0)) (ab 0x101 0))).group (now 0 (encode (.ld16s hd (ma 4 0))))).map
    (fun m => m.fault.map (fun f => (f.2.cause, f.2.info))) = [some (0x43, 0x101)] := by decide
theorem test_ld128_holds : ((ran (.ld128 hd (ma 4 1)) (mem (.ld128 hd (ma 4 1)) (ab 0x100 0))).thr 1 0).busy =
    [(4, none), (5, none), (6, none), (7, none)] := by decide
theorem test_st16 : ((ran (.st16 hd (ma 2 3)) (mem (.st16 hd (ma 2 3)) (ab 0x100 0xAABBCCDD))).brd 1 0).storeQ.map (fun e => (e.va, e.data)) =
    [(0x106, [0xDD, 0xCC])] := by decide
theorem test_st64_order : ((ran (.st64 hd (ma 2 0)) (mem (.st64 hd (ma 2 0)) [(1, 0x100), (2, 0x04030201), (3, 0x08070605)])).brd 1 0).storeQ.map
    SEntry.data = [[1, 2, 3, 4, 5, 6, 7, 8]] := by decide
/-- R117, R119: the granule code 0 interleaves 32-byte units over 48 banks; 32 units stay in place. -/
theorem test_lds32 : pending (ran (.lds32 hd ⟨4, 1, 1⟩) (mem (.lds32 hd ⟨4, 1, 1⟩) (ab 0x20 0))) = [(.lds 4 4, 0x24, 0)] := by decide
theorem test_sts32_outside : ((ran (.sts32 hd ⟨4, 1, 0⟩) (mem (.sts32 hd ⟨4, 1, 0⟩) (ab 0x400 0))).group (now 0 (encode (.sts32 hd ⟨4, 1, 0⟩)))).map
    (fun m => m.fault.map (fun f => f.2.cause)) = [some 0x21] := by decide
theorem test_atom32Cas : pending (ran (.atom32Cas hd ⟨false, 4, 1, 3⟩) (mem (.atom32Cas hd ⟨false, 4, 1, 3⟩) [(1, 0x40), (4, 7), (5, 9)])) =
    [(.atom 9 4 4 9 7, 0x40, 0x40)] := by decide
theorem test_atoms32Add : pending (ran (.atoms32Add hd ⟨4, 1, 1⟩) (mem (.atoms32Add hd ⟨4, 1, 1⟩) [(1, 0x40), (4, 7)])) =
    [(.atoms 0 4 7 0, 0x40, 0)] := by decide
theorem test_fenceRel : pending (ran (.fenceRel hd ⟨3⟩) (mem (.fenceRel hd ⟨3⟩) [])) = [(.fence 1, 0, 0)] := by decide
theorem test_flush : pending (ran (.flush hd ⟨false, 2, 1⟩) (mem (.flush hd ⟨false, 2, 1⟩) (ab 0x100 0x80))) = [(.flush 0x80, 0x100, 0)] := by decide
theorem test_cntadd : pending (ran (.cntadd hd ⟨false, 4, 1, 3⟩) (mem (.cntadd hd ⟨false, 4, 1, 3⟩) [(1, 0x40), (4, 7), (5, 1)])) =
    [(.cntadd 0x100000007, 0x40, 0x40)] := by decide

/-! ## Witnesses of the statements on memory words -/

def mc (i : Instr) : Cur := now 0 (encode i)

theorem okay {ε α : Type} {e : Except ε α} (h : e.isOk = true) : ∃ x, e = .ok x := by
  cases e with
  | ok x => exact ⟨x, rfl⟩
  | error x => cases h

theorem fails {ε α : Type} {e : Except ε α} (h : e.isOk = false) : ∃ x, e = .error x := by
  cases e with
  | ok x => cases h
  | error x => exact ⟨x, rfl⟩

theorem okayAt {ε α : Type} {e : Except ε α} {x : α} (h : e.toOption = some x) : e = .ok x := by
  cases e with
  | ok y => exact congrArg _ (Option.some.inj h)
  | error y => cases h

theorem readable {s : State} {m : Member} {a n : Nat} (h : (s.thr m.wg m.t).badRegs = []) : s.readable m a n := by
  intro r _ _
  simp [State.badReg, h]

/-- One range register, with a hole below it, and a unit without permission to write. -/
theorem witness_Translation :
    (∀ j, j < 16 → ¬ covers (State.reset.rangeAt 0 j) 0) ∧
    (let s := mapped State.reset
     covers (s.rangeAt 0 0) 0 ∧ covers (s.rangeAt 0 0) 255 ∧ (∀ j, j < 16 → ¬ covers (s.rangeAt 0 j) 256)) := by
  unfold covers
  decide

theorem witness_LoadWords :
    (∃ x, loads (.ld32 hd (ma 4 2)) = some x) ∧ Alone (.ld32 hd (ma 4 2)) (mem (.ld32 hd (ma 4 2)) (ab 0x100 0)) (mc (.ld32 hd (ma 4 2))) (m0 (ab 0x100 0)) ∧
    (∃ x, (mem (.ld32 hd (ma 4 2)) (ab 0x100 0)).memCheck (mc (.ld32 hd (ma 4 2))) (m0 (ab 0x100 0)) false 1 8 4 .read false true = .ok x) ∧
    (∃ e, (mem (.ld32 hd (ma 4 2)) (ab 0x101 0)).memCheck (mc (.ld32 hd (ma 4 2))) (m0 (ab 0x101 0)) false 1 8 4 .read false true = .error e) ∧
    (∃ x, scrLoads (.lds32 hd ⟨4, 1, 1⟩) = some x) ∧
    Alone (.lds32 hd ⟨4, 1, 1⟩) (mem (.lds32 hd ⟨4, 1, 1⟩) (ab 0x3F8 0)) (mc (.lds32 hd ⟨4, 1, 1⟩)) (m0 (ab 0x3F8 0)) ∧
    (mem (.lds32 hd ⟨4, 1, 1⟩) (ab 0x3F8 0)).readable (m0 (ab 0x3F8 0)) 1 1 ∧
    ((mem (.lds32 hd ⟨4, 1, 1⟩) (ab 0x3F8 0)).resolveScratch (loadedWg 0 none) 0x3FC 4).isSome = true ∧
    (mem (.lds32 hd ⟨4, 1, 1⟩) (ab 0x3FC 0)).resolveScratch (loadedWg 0 none) 0x400 4 = none :=
  ⟨⟨_, rfl⟩, ⟨by decide, by decide, by decide, by decide⟩, okay (by decide), fails (by decide), ⟨_, rfl⟩, ⟨by decide, by decide, by decide, by decide⟩, readable (by decide), by decide, by decide⟩

def sw : Instr := .st32 hd (ma 2 0)

theorem witness_StoreWords :
    (∃ x, stores sw = some x) ∧ Alone sw (mem sw (ab 0x100 5)) (mc sw) (m0 (ab 0x100 5)) ∧
    (∃ x, (mem sw (ab 0x100 5)).memCheck (mc sw) (m0 (ab 0x100 5)) false 1 0 4 .write true false = .ok x) ∧
    (mem sw (ab 0x100 5)).readable (m0 (ab 0x100 5)) 2 1 ∧
    (∃ e, (mem sw (ab 0x102 5)).memCheck (mc sw) (m0 (ab 0x102 5)) false 1 0 4 .write true false = .error e) ∧
    (∃ x, scrStores (.sts32 hd ⟨4, 1, 1⟩) = some x) ∧
    Alone (.sts32 hd ⟨4, 1, 1⟩) (mem (.sts32 hd ⟨4, 1, 1⟩) (ab 0x3F8 0)) (mc (.sts32 hd ⟨4, 1, 1⟩)) (m0 (ab 0x3F8 0)) ∧
    (mem (.sts32 hd ⟨4, 1, 1⟩) (ab 0x3F8 0)).readable (m0 (ab 0x3F8 0)) 1 1 ∧ (mem (.sts32 hd ⟨4, 1, 1⟩) (ab 0x3F8 0)).readable (m0 (ab 0x3F8 0)) 4 1 :=
  ⟨⟨_, rfl⟩, ⟨by decide, by decide, by decide, by decide⟩, okay (by decide), readable (by decide), fails (by decide), ⟨_, rfl⟩, ⟨by decide, by decide, by decide, by decide⟩,
    readable (by decide), readable (by decide)⟩

def at32 : Instr := .atom32Cas hd ⟨false, 4, 1, 3⟩
def ats : Instr := .atoms32Cas hd ⟨4, 1, 1⟩

theorem witness_AtomicWords :
    (∃ x, atomics at32 = some x) ∧ Alone at32 (mem at32 (ab 0x40 0)) (mc at32) (m0 (ab 0x40 0)) ∧ (mem at32 (ab 0x40 0)).readable (m0 (ab 0x40 0)) 4 2 ∧
    (∃ x, State.memCheck { mem at32 (ab 0x40 0) with seq := (mem at32 (ab 0x40 0)).seq + 1 } (mc at32) (m0 (ab 0x40 0)) false 1 0 4 .atomic true true = .ok x) ∧
    (∃ x, scrAtomics ats = some x) ∧ Alone ats (mem ats (ab 0x40 0)) (mc ats) (m0 (ab 0x40 0)) ∧ (mem ats (ab 0x40 0)).readable (m0 (ab 0x40 0)) 1 1 ∧
    (mem ats (ab 0x40 0)).readable (m0 (ab 0x40 0)) 4 2 ∧ ((mem ats (ab 0x40 0)).resolveScratch (loadedWg 0 none) 0x40 4).isSome = true ∧
    (mem ats (ab 0x42 0)).resolveScratch (loadedWg 0 none) 0x42 4 = none :=
  ⟨⟨_, rfl⟩, ⟨by decide, by decide, by decide, by decide⟩, readable (by decide), okay (by decide), ⟨_, rfl⟩, ⟨by decide, by decide, by decide, by decide⟩, readable (by decide),
    readable (by decide), by decide, by decide⟩

def fr : Instr := .fenceRel hd ⟨3⟩
def fl : Instr := .flush hd ⟨false, 2, 1⟩
def ca : Instr := .cntadd hd ⟨false, 4, 1, 3⟩
def pf : Instr := .prefetch hd ⟨false, 1, 0, 1⟩

theorem flush_pages (p : Nat) (h : 0xFF0000 / 65536 ≤ p) (k : p ≤ (0xFF0000 + 0x10000 - 1) / 65536) :
    ∃ x, (mem fl (ab 0xFF0000 0x10000)).checkVa 0 (p * 65536) 1 .read = .ok x := by
  obtain rfl : p = 255 := by omega
  exact okay (by decide)

/-- A FLUSH of no bytes and one that ends on the last byte of the mapped range; a PREFETCH that would fault and one that would not. -/
theorem witness_OrderingWords :
    (∃ x, fences fr = some x) ∧ Alone fr (mem fr []) (mc fr) (m0 []) ∧
    Alone fl (mem fl (ab 0x100 0)) (mc fl) (m0 (ab 0x100 0)) ∧ (mem fl (ab 0x100 0)).wordVa (m0 (ab 0x100 0)) false 1 0 = some 0x100 ∧
    (mem fl (ab 0x100 0)).readable (m0 (ab 0x100 0)) 1 1 ∧ (mem fl (ab 0x100 0)).readable (m0 (ab 0x100 0)) 2 1 ∧
    Alone fl (mem fl (ab 0xFF0000 0x10000)) (mc fl) (m0 (ab 0xFF0000 0x10000)) ∧
    (∀ p, 0xFF0000 / 65536 ≤ p → p ≤ (0xFF0000 + 0x10000 - 1) / 65536 → ∃ x, (mem fl (ab 0xFF0000 0x10000)).checkVa 0 (p * 65536) 1 .read = .ok x) ∧
    Alone ca (mem ca (ab 0x40 0)) (mc ca) (m0 (ab 0x40 0)) ∧ (mem ca (ab 0x40 0)).readable (m0 (ab 0x40 0)) 4 2 ∧
    (∃ x, State.memCheck { mem ca (ab 0x40 0) with seq := (mem ca (ab 0x40 0)).seq + 1 } (mc ca) (m0 (ab 0x40 0)) false 1 0 8 .atomic true true = .ok x) ∧
    Alone pf (mem pf (ab 0x80 0)) (mc pf) (m0 (ab 0x80 0)) ∧ (mem pf (ab 0x80 0)).readable (m0 (ab 0x80 0)) 1 1 ∧
    (∃ e, (mem pf (ab 0x40 0)).memCheck (mc pf) (m0 (ab 0x40 0)) false 1 128 128 .read false false = .error e) ∧
    (∃ x, (mem pf (ab 0x80 0)).memCheck (mc pf) (m0 (ab 0x80 0)) false 1 128 128 .read false false = .ok x) :=
  ⟨⟨_, rfl⟩, ⟨by decide, by decide, by decide, by decide⟩, ⟨by decide, by decide, by decide, by decide⟩, by decide, readable (by decide), readable (by decide),
    ⟨by decide, by decide, by decide, by decide⟩,
    flush_pages,
    ⟨by decide, by decide, by decide, by decide⟩, readable (by decide), okay (by decide), ⟨by decide, by decide, by decide, by decide⟩, readable (by decide), fails (by decide), okay (by decide)⟩

/-! ## The same of words that several threads execute (R44, R141) -/

/-- Four threads that issue `i` together, with v1 and v2 of each. -/
def fourM (i : Instr) (v : List (Word × Word)) : State :=
  mapped (machine 0 none (encode i) ((List.range 4).map (fun t => lane t [(1, (v.getD t 0).1), (2, (v.getD t 0).2), (4, 0x100), (5, 0)] 1#32)))

/-- All of them execute it, and read what they name. -/
abbrev FoursM (i : Instr) (v : List (Word × Word)) : Prop :=
  let s := fourM i v
  Issuing s (mc i) ∧ (s.doers (mc i) i).length = 4 ∧ (∀ m ∈ s.doers (mc i) i, (s.thr m.wg m.t).badRegs = []) ∧
    ∀ m ∈ s.doers (mc i) i, (Tbl.get? s.braids (bkey m.wg (m.braid s))).isSome = true

theorem foursM {i : Instr} {v : List (Word × Word)} (c : (fourM i v).cur = some (mc i)) (a : (((fourM i v).group (mc i)).map Member.key).Nodup)
    (b : (((fourM i v).group (mc i)).map Member.lane).Nodup) (d : ∀ m ∈ (fourM i v).group (mc i), (Tbl.get? (fourM i v).threads m.key).isSome = true)
    (l : ((fourM i v).doers (mc i) i).length = 4) (r : ∀ m ∈ (fourM i v).doers (mc i) i, ((fourM i v).thr m.wg m.t).badRegs = [])
    (h : ∀ m ∈ (fourM i v).doers (mc i) i, (Tbl.get? (fourM i v).braids (bkey m.wg (m.braid (fourM i v)))).isSome = true) : FoursM i v :=
  ⟨⟨c, a, b, d⟩, l, r, h⟩

/-- The addresses of the four threads: good ones, and one that is misaligned. -/
def addrs : List (Word × Word) := [(0x100, 1), (0x101, 2), (0x108, 3), (0x10C, 4)]

theorem test_ld32_lanes : (List.range 4).map (fun t => ((ran (.ld32 hd (ma 4 2)) (fourM (.ld32 hd (ma 4 2)) addrs)).thr 1 t).mops.map MOp.va) =
    [[0x108], [], [0x110], [0x114]] := by decide
theorem test_st32_lanes : ((ran (.st32 hd (ma 2 0)) (fourM (.st32 hd (ma 2 0)) addrs)).brd 1 0).storeQ.map SEntry.t = [0, 2, 3] := by decide

/-- One load with a lane that faults, and one word of each other shape. -/
theorem witness_LoadWords_lanes : FoursM (.ld32 hd (ma 4 2)) addrs ∧ FoursM (.lds32 hd ⟨4, 1, 1⟩) addrs ∧ FoursM sw addrs ∧ FoursM (.sts32 hd ⟨2, 1, 1⟩) addrs :=
  ⟨foursM (by decide) (by decide) (by decide) (by decide) (by decide) (by decide) (by decide),
    foursM (by decide) (by decide) (by decide) (by decide) (by decide) (by decide) (by decide),
    foursM (by decide) (by decide) (by decide) (by decide) (by decide) (by decide) (by decide),
    foursM (by decide) (by decide) (by decide) (by decide) (by decide) (by decide) (by decide)⟩

theorem witness_AtomicWords_lanes : FoursM at32 addrs ∧ FoursM ats addrs ∧ FoursM fr addrs ∧ FoursM ca addrs ∧ FoursM pf addrs :=
  ⟨foursM (by decide) (by decide) (by decide) (by decide) (by decide) (by decide) (by decide),
    foursM (by decide) (by decide) (by decide) (by decide) (by decide) (by decide) (by decide),
    foursM (by decide) (by decide) (by decide) (by decide) (by decide) (by decide) (by decide),
    foursM (by decide) (by decide) (by decide) (by decide) (by decide) (by decide) (by decide),
    foursM (by decide) (by decide) (by decide) (by decide) (by decide) (by decide) (by decide)⟩

theorem flush_page_of (m : Member) (h : m ∈ (fourM fl addrs).doers (mc fl) fl) (p : Nat) (a : ((fourM fl addrs).wordVa m false 1 0).getD 0 / 65536 ≤ p)
    (b : p ≤ (((fourM fl addrs).wordVa m false 1 0).getD 0 + (m.reg 2).toNat - 1) / 65536) :
    ∃ x, (fourM fl addrs).checkVa ((fourM fl addrs).asidOf m.wg m.t) (p * 65536) 1 .read = .ok x := by
  have e : ∀ m ∈ (fourM fl addrs).doers (mc fl) fl, ((fourM fl addrs).wordVa m false 1 0).getD 0 / 65536 = 0 ∧
      (((fourM fl addrs).wordVa m false 1 0).getD 0 + (m.reg 2).toNat - 1) / 65536 = 0 ∧ ((fourM fl addrs).asidOf m.wg m.t) = 0 := by decide
  obtain ⟨u, v, w⟩ := e m h
  obtain rfl : p = 0 := by omega
  rw [w]
  exact okay (by decide)

theorem witness_FlushWord_lanes : FoursM fl addrs ∧ ∀ m ∈ (fourM fl addrs).doers (mc fl) fl, 0 < (m.reg 2).toNat ∧ ∃ va,
    (fourM fl addrs).wordVa m false 1 0 = some va ∧ ∀ p, va / 65536 ≤ p → p ≤ (va + (m.reg 2).toNat - 1) / 65536 →
      ∃ x, (fourM fl addrs).checkVa ((fourM fl addrs).asidOf m.wg m.t) (p * 65536) 1 .read = .ok x := by
  refine ⟨foursM (by decide) (by decide) (by decide) (by decide) (by decide) (by decide) (by decide), fun m h => ?_⟩
  have e : ∀ m ∈ (fourM fl addrs).doers (mc fl) fl, 0 < (m.reg 2).toNat ∧ ((fourM fl addrs).wordVa m false 1 0).isSome = true := by decide
  obtain ⟨u, v⟩ := e m h
  obtain ⟨va, hv⟩ := Option.isSome_iff_exists.mp v
  refine ⟨u, va, hv, fun p a b => flush_page_of m h p ?_ ?_⟩ <;> rw [hv] <;> assumption

/-! ## Hitch registers, the barrier and signed commands (R48 to R55, R259 to R261, R338 to R357) -/

/-- The thread `x` alone is about to execute `i`. -/
def soloT (i : Instr) (x : Thread) : State := machine 0 none (encode i) [x]

/-- h0 to h11 of the braid are `h`. -/
def braidHitch (h : Hitch) (s : State) : State := s.modBrd 1 0 (fun b => { b with hitch := List.replicate 12 h })

/-- h12 to h15 of the workgroup are `h`. -/
def groupHitch (h : Hitch) (s : State) : State := s.modWg 1 (fun g => { g with hitch := List.replicate 4 h })

def hs (n : BitVec 4) : Instr := .hset hd ⟨4, n⟩
def rj (n : BitVec 4) : Instr := .rejoin hd ⟨n⟩

theorem test_hset_members : ((ran (hs 11) (solo (hs 11) [(4, 0xFF)])).hitch 1 0 11).members = 0xFF := by decide
theorem test_hset_count : ((ran (hs 12) (solo (hs 12) [(4, 2048)])).hitch 1 0 12).expected = 2048 := by decide
theorem test_rejoin_waits : ((ran (rj 0) (braidHitch (Hitch.launch 3#64 0) (solo (rj 0) []))).thr 1 0).wait = .hitch 0 := by decide
theorem test_bar_completes : ((ran (.bar hd) (solo (.bar hd) [])).thr 1 0).pc = 1 := by decide
theorem test_mxs_forms : (ran (.mxs hd ⟨4, 0, 2⟩) (solo (.mxs hd ⟨4, 0, 2⟩) [])).formed = [1] := by decide
theorem test_smx_forms : (ran (.smx hd ⟨4, 12, 2⟩) (solo (.smx hd ⟨4, 12, 2⟩) [])).formed = [1] := by decide
theorem test_cpbox_holds_promise : ((ran (.cpbox hd ⟨2, 16, 12, 1⟩) (solo (.cpbox hd ⟨2, 16, 12, 1⟩) [])).thr 1 0).busy = [(2, none), (3, none)] := by
  decide
theorem test_cplin_forms : (ran (.cplin hd ⟨2, 16, 12, 1⟩) (solo (.cplin hd ⟨2, 16, 12, 1⟩) [])).formed = [1] := by decide
theorem test_rtplan_forms : (ran (.rtplan hd ⟨2, 16, 12, 1⟩) (solo (.rtplan hd ⟨2, 16, 12, 1⟩) [])).formed = [1] := by decide
theorem test_rtscat_op : (Tbl.vals (ran (.rtscat hd ⟨2, 16, 12, 1⟩) (solo (.rtscat hd ⟨2, 16, 12, 1⟩) [])).reqs).map EReq.op = [.rtscat] := by decide
theorem test_rtcomb_queue : (Tbl.vals (ran (.rtcomb hd ⟨2, 16, 12, 3⟩) (solo (.rtcomb hd ⟨2, 16, 12, 3⟩) [])).reqs).map EReq.q = [3] := by decide
theorem test_nmcall_record : (Tbl.vals (ran (.nmcall hd ⟨4, 0⟩) (solo (.nmcall hd ⟨4, 0⟩) [(4, 7), (5, 8)])).reqs).map EReq.regs = [[7, 8]] := by
  decide

/-- h11 and h12, the bounds of the two kinds: an empty mask, a mask that no signatures satisfy, counts 0, 2048 and 2049. -/
theorem witness_HsetWord :
    Alone (hs 11) (solo (hs 11) []) (mc (hs 11)) (m0 []) ∧ Sharing (solo (hs 11) []) 1 0 11 ∧ (solo (hs 11) []).plainPair (m0 []) 4 ∧
    (m0 []).pair 4 &&& (loadedWg 0 none).braidLanes 0 = 0#64 ∧ (m0 [(4, 1)]).pair 4 &&& (loadedWg 0 none).braidLanes 0 ≠ 0#64 ∧
    ((solo (hs 11) []).hitch 1 0 11).kind = .none ∧
    Alone (hs 12) (solo (hs 12) [(4, 2048)]) (mc (hs 12)) (m0 [(4, 2048)]) ∧ Sharing (solo (hs 12) [(4, 2048)]) 1 0 12 ∧
    (solo (hs 12) [(4, 2048)]).badReg (m0 [(4, 2048)]) 4 = false ∧ ((m0 [(4, 2048)]).reg 4).toNat = 2048 ∧
    ((solo (hs 12) [(4, 2048)]).hitch 1 0 12).kind = .none ∧
    Alone (hs 15) (solo (hs 15) [(4, 2049)]) (mc (hs 15)) (m0 [(4, 2049)]) ∧ Sharing (solo (hs 15) [(4, 2049)]) 1 0 15 ∧
    ((m0 [(4, 2049)]).reg 4).toNat = 2049 :=
  ⟨⟨by decide, by decide, by decide, by decide⟩, ⟨by decide, by decide, by decide, by decide, by decide⟩, ⟨by decide, by decide⟩, by decide, by decide,
    by decide, ⟨by decide, by decide, by decide, by decide⟩, ⟨by decide, by decide, by decide, by decide, by decide⟩, by decide, by decide, by decide,
    ⟨by decide, by decide, by decide, by decide⟩, ⟨by decide, by decide, by decide, by decide, by decide⟩, by decide⟩

/-- A thread that has signed h0. -/
def signedT : Thread := { lane 0 [] 1 with sig := 1#16 }

theorem witness_RejoinWord :
    (Alone (rj 0) (soloT (rj 0) signedT) (mc (rj 0)) (Member.new signedT) ∧ Sharing (soloT (rj 0) signedT) 1 0 0 ∧ signedT.sig.getLsbD 0 = true) ∧
    (Alone (rj 0) (braidHitch (Hitch.launch 2#64 0) (solo (rj 0) [])) (mc (rj 0)) (m0 []) ∧ Sharing (braidHitch (Hitch.launch 2#64 0) (solo (rj 0) [])) 1 0 0 ∧
      ¬ MaySign (Hitch.launch 2#64 0) (lane 0 [] 1) 0 .rejoin) ∧
    (Alone (rj 11) (solo (rj 11) []) (mc (rj 11)) (m0 []) ∧ Sharing (solo (rj 11) []) 1 0 11 ∧ MaySign ((solo (rj 11) []).hitch 1 0 11) (lane 0 [] 1) 11 .rejoin ∧
      (((solo (rj 11) []).hitch 1 0 11).signed 11 0 .rejoin).full 11) ∧
    (Alone (rj 12) (groupHitch (Hitch.launch 0#64 2) (solo (rj 12) [])) (mc (rj 12)) (m0 []) ∧
      Sharing (groupHitch (Hitch.launch 0#64 2) (solo (rj 12) [])) 1 0 12 ∧ MaySign (Hitch.launch 0#64 2) (lane 0 [] 1) 12 .rejoin ∧
      ¬ ((Hitch.launch 0#64 2).signed 12 0 .rejoin).full 12) :=
  ⟨⟨⟨by decide, by decide, by decide, by decide⟩, ⟨by decide, by decide, by decide, by decide, by decide⟩, by decide⟩,
    ⟨⟨by decide, by decide, by decide, by decide⟩, ⟨by decide, by decide, by decide, by decide, by decide⟩, by unfold MaySign; decide⟩,
    ⟨⟨by decide, by decide, by decide, by decide⟩, ⟨by decide, by decide, by decide, by decide, by decide⟩, by unfold MaySign; decide, by unfold Hitch.full; decide⟩,
    ⟨by decide, by decide, by decide, by decide⟩, ⟨by decide, by decide, by decide, by decide, by decide⟩, by unfold MaySign; decide, by unfold Hitch.full; decide⟩

/-- A second thread of the workgroup, which is not in the group. -/
def besides (s : State) : State := { s with threads := s.threads ++ [(tkey 1 1, lane 1 [] 1)] }

theorem witness_BarWord :
    (Alone (.bar hd) (solo (.bar hd) []) (mc (.bar hd)) (m0 []) ∧ Sharing (solo (.bar hd) []) 1 0 0 ∧ (Tbl.get? (solo (.bar hd) []).wgs 1).isSome = true ∧
      (∀ u ∈ (solo (.bar hd) []).barLive 1, u.t = 0 ∨ u.t ∈ ((solo (.bar hd) []).wgrp 1).bar)) ∧
    (Alone (.bar hd) (besides (solo (.bar hd) [])) (mc (.bar hd)) (m0 []) ∧ Sharing (besides (solo (.bar hd) [])) 1 0 0 ∧
      (∃ u ∈ (besides (solo (.bar hd) [])).barLive 1, u.t ≠ 0 ∧ ¬ u.t ∈ ((besides (solo (.bar hd) [])).wgrp 1).bar)) :=
  ⟨⟨⟨by decide, by decide, by decide, by decide⟩, ⟨by decide, by decide, by decide, by decide, by decide⟩, by decide, by decide⟩,
    ⟨by decide, by decide, by decide, by decide⟩, ⟨by decide, by decide, by decide, by decide, by decide⟩, by decide⟩

def mx : Instr := .mxs hd ⟨4, 0, 2⟩

/-- A round of h0 that waits for home lanes 0 and 1, with another descriptor captured from lane 1. -/
def otherCap : Hitch := { Hitch.launch 3#64 0 with
  arrived := 2#64, kind := .engine .mxs, cap := some ⟨1, 1, [1, 2, 3, 4], 0, 2, 0, 0, 0, [], [(1, 0)], []⟩ }

theorem witness_EngineWords :
    (∃ x, engines mx = some x) ∧
    (Alone mx (soloT mx signedT) (mc mx) (Member.new signedT) ∧ Sharing (soloT mx signedT) 1 0 0 ∧ (soloT mx signedT).readable (Member.new signedT) 4 4 ∧
      signedT.sig.getLsbD 0 = true) ∧
    (Alone mx (braidHitch (Hitch.launch 2#64 0) (solo mx [])) (mc mx) (m0 []) ∧ Sharing (braidHitch (Hitch.launch 2#64 0) (solo mx [])) 1 0 0 ∧
      (braidHitch (Hitch.launch 2#64 0) (solo mx [])).readable (m0 []) 4 4 ∧ ¬ MaySign (Hitch.launch 2#64 0) (lane 0 [] 1) 0 (.engine .mxs)) ∧
    (Alone mx (braidHitch otherCap (solo mx [])) (mc mx) (m0 []) ∧ Sharing (braidHitch otherCap (solo mx [])) 1 0 0 ∧
      (braidHitch otherCap (solo mx [])).readable (m0 []) 4 4 ∧ MaySign otherCap (lane 0 [] 1) 0 (.engine .mxs) ∧
      capture otherCap.cap 0 0 0 0 (wordAt (encode mx) 0) 0 ((braidHitch otherCap (solo mx [])).signer (m0 []) .mxs 4 2 0) = none) ∧
    (Alone mx (solo mx []) (mc mx) (m0 []) ∧ Sharing (solo mx []) 1 0 0 ∧ (solo mx []).readable (m0 []) 4 4 ∧
      MaySign ((solo mx []).hitch 1 0 0) (lane 0 [] 1) 0 (.engine .mxs) ∧
      (capture ((solo mx []).hitch 1 0 0).cap 0 0 0 0 (wordAt (encode mx) 0) 0 ((solo mx []).signer (m0 []) .mxs 4 2 0)).isSome = true ∧
      (((solo mx []).hitch 1 0 0).signed 0 0 (.engine .mxs)).full 0) ∧
    (¬ ((Hitch.launch 3#64 0).signed 0 0 (.engine .mxs)).full 0 ∧ MaySign (Hitch.launch 3#64 0) (lane 0 [] 1) 0 (.engine .mxs)) :=
  ⟨⟨_, rfl⟩, ⟨⟨by decide, by decide, by decide, by decide⟩, ⟨by decide, by decide, by decide, by decide, by decide⟩, readable (by decide), by decide⟩,
    ⟨⟨by decide, by decide, by decide, by decide⟩, ⟨by decide, by decide, by decide, by decide, by decide⟩, readable (by decide), by unfold MaySign; decide⟩,
    ⟨⟨by decide, by decide, by decide, by decide⟩, ⟨by decide, by decide, by decide, by decide, by decide⟩, readable (by decide), by unfold MaySign; decide,
      by decide⟩,
    ⟨⟨by decide, by decide, by decide, by decide⟩, ⟨by decide, by decide, by decide, by decide, by decide⟩, readable (by decide), by unfold MaySign; decide,
      by decide, by unfold Hitch.full; decide⟩, by unfold Hitch.full; decide, by unfold MaySign; decide⟩

/-- Two threads of a braid whose REJOIN round of h0 is complete. -/
def roundDone : State :=
  let x := fun t => { lane t [] 1 with wait := .hitch 0, resume := 5, sig := 1#16 }
  braidHitch { Hitch.launch 3#64 0 with arrived := 3#64, kind := .rejoin } (machine 0 none [] [x 0, x 1])

theorem witness_RoundReleases : roundDone.Coherent ∧ Sharing roundDone 1 0 0 ∧ (roundDone.hitch 1 0 0).kind = .rejoin ∧ (roundDone.hitch 1 0 0).full 0 ∧
    (∃ u ∈ roundDone.sharers 1 0 0, u.wait = .hitch 0) :=
  ⟨⟨by decide, by decide⟩, ⟨by decide, by decide, by decide, by decide, by decide⟩, by decide, by unfold Hitch.full; decide, by decide⟩

/-! ## The same of words that several threads of a braid execute -/

/-- Four threads of one braid that issue `i` together; each has (t + 1, 0) in v4 and v5, and its h0 to h11 wait for `lanes`. -/
def fourB (i : Instr) (lanes : BitVec 64) (k : HKind) : State :=
  braidHitch { Hitch.launch lanes 0 with kind := k }
    (machine 0 none (encode i) ((List.range 4).map (fun t => lane t [(4, BitVec.ofNat 32 (t + 1)), (5, 0)] 1#32)))

/-- A braid whose threads all execute it. -/
abbrev FoursB (i : Instr) (n : Nat) (lanes : BitVec 64) (k : HKind) : Prop :=
  let s := fourB i lanes k
  Issuing s (mc i) ∧ OneBraid i s (mc i) n 1 0 ∧ (s.doers (mc i) i).length = 4

theorem shares {s : State} {wg t n : Nat} (a : (s.thr wg t).wg = wg) (b : (s.thr wg t).t = t) (c : (Tbl.get? s.threads (tkey wg t)).isSome = true)
    (d : (Tbl.get? s.braids (bkey wg ((s.wgrp wg).braidOf t))).isSome = true ∧ n < (s.brd wg ((s.wgrp wg).braidOf t)).hitch.length)
    (e : (Tbl.get? s.wgs wg).isSome = true ∧ (s.wgrp wg).hitchIx t n < (s.wgrp wg).hitch.length) : Sharing s wg t n := ⟨a, b, c, fun _ => d, fun _ => e⟩

/-- The facts about the members of the group that `OneBraid` asks for. -/
def groupOk (i : Instr) (s : State) (n : Nat) : Bool :=
  (s.doers (mc i) i).all (fun m => decide (m.wg = 1) && decide (m.braid s = 0) && decide ((s.thr m.wg m.t).wg = m.wg) && decide ((s.thr m.wg m.t).t = m.t) &&
    (Tbl.get? s.threads (tkey m.wg m.t)).isSome && (Tbl.get? s.braids (bkey m.wg ((s.wgrp m.wg).braidOf m.t))).isSome &&
    decide (n < (s.brd m.wg ((s.wgrp m.wg).braidOf m.t)).hitch.length) && (Tbl.get? s.wgs m.wg).isSome &&
    decide ((s.wgrp m.wg).hitchIx m.t n < (s.wgrp m.wg).hitch.length) && decide (m.lane = (s.thr m.wg m.t).lane) && decide (m.lane < 64) &&
    !((s.brd 1 0).hitch.getD n (Hitch.launch 0#64 0)).arrived.getLsbD m.lane)

theorem groupOk_of {i : Instr} {s : State} {n : Nat} (h : groupOk i s n = true) {m : Member} (hm : m ∈ s.doers (mc i) i) :
    (m.wg = 1 ∧ m.braid s = 0 ∧ Sharing s m.wg m.t n) ∧ (m.lane = (s.thr m.wg m.t).lane ∧ m.lane < 64) ∧
      ((s.brd 1 0).hitch.getD n (Hitch.launch 0#64 0)).arrived.getLsbD m.lane = false := by
  have := List.all_eq_true.mp h m hm
  simp only [Bool.and_eq_true, decide_eq_true_eq, Bool.not_eq_true'] at this
  obtain ⟨⟨⟨⟨⟨⟨⟨⟨⟨⟨⟨a, b⟩, c⟩, d⟩, e⟩, f⟩, g⟩, k⟩, l⟩, o⟩, p⟩, q⟩ := this
  exact ⟨⟨a, b, shares c d e ⟨f, g⟩ ⟨k, l⟩⟩, ⟨o, p⟩, q⟩

theorem foursB {i : Instr} {n : Nat} {lanes : BitVec 64} {k : HKind} (c : (fourB i lanes k).cur = some (mc i))
    (a : (((fourB i lanes k).group (mc i)).map Member.key).Nodup) (b : (((fourB i lanes k).group (mc i)).map Member.lane).Nodup)
    (d : ∀ m ∈ (fourB i lanes k).group (mc i), (Tbl.get? (fourB i lanes k).threads m.key).isSome = true) (low : n < 12)
    (l : ((fourB i lanes k).doers (mc i) i).length = 4) (h : groupOk i (fourB i lanes k) n = true) : FoursB i n lanes k :=
  ⟨⟨c, a, b, d⟩, ⟨low, by intro e; rw [e] at l; simp at l, fun _ hm => (groupOk_of h hm).1, fun _ hm => (groupOk_of h hm).2.1,
    fun _ hm => (groupOk_of h hm).2.2⟩, l⟩

theorem test_hset_lowest : ((ran (hs 11) (fourB (hs 11) 0 .none)).hitch 1 0 11).members = 1 := by decide

/-- Every mask names a lane of the braid of four. -/
theorem witness_HsetWord_lanes : FoursB (hs 11) 11 0 .none ∧
    let s := fourB (hs 11) 0 .none
    ∀ q ∈ s.doers (mc (hs 11)) (hs 11), s.plainPair q 4 ∧ q.pair 4 &&& (s.wgrp 1).braidLanes 0 ≠ 0#64 :=
  ⟨foursB (by decide) (by decide) (by decide) (by decide) (by decide) (by decide) (by decide), by unfold State.plainPair; decide⟩

/-- All that the round waits for; and one lane more. -/
theorem witness_RejoinWord_lanes : ∀ l ∈ [0xF#64, 0x1F#64], FoursB (rj 0) 0 l .none ∧
    let s := fourB (rj 0) l .none
    (∀ q ∈ s.doers (mc (rj 0)) (rj 0), MaySign (s.hitch 1 0 0) (s.thr q.wg q.t) 0 .rejoin) ∧
    (lanesMask (s.doers (mc (rj 0)) (rj 0)) &&& l = l ↔ l = 0xF#64) := by
  intro l hl
  simp only [List.mem_cons, List.not_mem_nil, or_false] at hl
  rcases hl with rfl | rfl
  · exact ⟨foursB (by decide) (by decide) (by decide) (by decide) (by decide) (by decide) (by decide), by unfold MaySign; decide, by decide⟩
  · exact ⟨foursB (by decide) (by decide) (by decide) (by decide) (by decide) (by decide) (by decide), by unfold MaySign; decide, by decide⟩

/-- The four alone, and a fifth thread that is not in the group. -/
theorem witness_BarWord_lanes : ∀ x ∈ [([] : Tbl Thread), [(tkey 1 4, lane 4 [] 1)]],
    let i := Instr.bar hd
    let s := { fourB i 0 .none with threads := (fourB i 0 .none).threads ++ x }
    s.cur = some (mc i) ∧ ((s.group (mc i)).map Member.key).Nodup ∧ ((s.group (mc i)).map Member.lane).Nodup ∧
    (∀ m ∈ s.group (mc i), (Tbl.get? s.threads m.key).isSome = true) ∧ (s.doers (mc i) i).length = 4 ∧ groupOk i s 0 = true ∧
    (∀ q ∈ s.doers (mc i) i, ¬ q.t ∈ (s.wgrp 1).bar ∧ ∃ u ∈ s.barLive 1, u.t = q.t) ∧
    ((∀ u ∈ s.barLive 1, u.t ∈ (s.doers (mc i) i).map Member.t ∨ u.t ∈ (s.wgrp 1).bar) ↔ x = []) := by
  decide

/-- Four threads with the same descriptor. -/
def fourE (lanes : BitVec 64) : State :=
  braidHitch (Hitch.launch lanes 0) (machine 0 none (encode mx) ((List.range 4).map (fun t => lane t [] 1#32)))

theorem test_mxs_lanes : ((ran mx (fourE 0xF)).formed, (ran mx (fourE 0x1F)).formed) = ([1], []) := by decide

/-- The members of the group may sign h0 for the command. -/
def allMaySign (s : State) : Bool :=
  (s.doers (mc mx) mx).all (fun u => (s.thr u.wg u.t).badRegs.isEmpty && !(s.thr u.wg u.t).sig.getLsbD 0 &&
    (s.hitch 1 0 0).members.getLsbD (s.thr u.wg u.t).lane) && decide ((s.hitch 1 0 0).kind = .none)

/-- The descriptors of the group match. -/
def captured (s : State) : Bool :=
  ((s.doers (mc mx) mx).foldlM (fun x u => (capture x u.lane u.t 0 (s.pktPc 0 0) (mc mx).word 0 (s.signer u .mxs 4 2 0)).map some) (s.hitch 1 0 0).cap).isSome

/-- Four threads execute the word, which all of them may sign with descriptors that match. -/
abbrev FoursE (l : BitVec 64) : Prop :=
  (fourE l).cur = some (mc mx) ∧ (((fourE l).group (mc mx)).map Member.key).Nodup ∧ (((fourE l).group (mc mx)).map Member.lane).Nodup ∧
    (∀ m ∈ (fourE l).group (mc mx), (Tbl.get? (fourE l).threads m.key).isSome = true) ∧ ((fourE l).doers (mc mx) mx).length = 4 ∧
    groupOk mx (fourE l) 0 = true ∧ allMaySign (fourE l) = true ∧ captured (fourE l) = true

/-- Their signatures complete the round, or leave it open for another lane. -/
theorem witness_EngineWords_lanes : (FoursE 0xF ∧ lanesMask ((fourE 0xF).doers (mc mx) mx) &&& 0xF = 0xF) ∧
    (FoursE 0x1F ∧ lanesMask ((fourE 0x1F).doers (mc mx) mx) &&& 0x1F ≠ 0x1F) :=
  ⟨⟨⟨by decide, by decide, by decide, by decide, by decide, by decide, by decide, by decide⟩, by decide⟩,
    ⟨⟨by decide, by decide, by decide, by decide, by decide, by decide, by decide, by decide⟩, by decide⟩⟩

/-! ## Tiles, streams, system registers and banks (R347, R348, R353, R354, R358 to R364) -/

def rd : Instr := .mxrd hd ⟨4, 1, 2⟩
def ms : Instr := .mxstat hd ⟨4, 2⟩

/-- Tile 2 of cluster 0 is `t`. -/
def withTile (t : Tile) (s : State) : State := { s with clusters := [(0, { Cluster.reset 0 with tiles := List.replicate 8 t })] }

theorem test_mxrd : Tbl.getD ((ran rd (withTile { Tile.reset with acc := [(64, 0x3F800000)] } (solo rd (ab 1 0)))).thr 1 0).v 4 0 = 0x3F800000 := by decide
theorem test_mxrd_poison : Tbl.getD ((ran rd (withTile { Tile.reset with poison := [64] } (solo rd (ab 1 0)))).thr 1 0).v 4 0 = 0x7FC0DEAD := by decide
theorem test_mxstat : Tbl.getD ((ran ms (withTile { Tile.reset with nsamp := 9 } (solo ms []))).thr 1 0).v 5 0 = 9 := by decide
theorem test_stcfg : lands (.stcfg hd ⟨4, 3⟩) (solo (.stcfg hd ⟨4, 3⟩) [(4, 0x200), (5, 0x1000)]) = [.stcfg 1 3 0 (some ⟨0x200, 512, [.free], 0, 0, 0⟩)] := by
  decide
theorem test_qfence : lands (.qfence hd ⟨1⟩) (solo (.qfence hd ⟨1⟩) (ab 0x3 0)) = [.qfence 1 0 0 0 3] := by decide
theorem test_sysrd_threads : reg (.sysrd hd ⟨4, 1⟩) (solo (.sysrd hd ⟨4, 1⟩) []) 0 4 = 1 := by decide
theorem test_syswr_segb : lands (.syswr hd ⟨8, 0x41⟩) (solo (.syswr hd ⟨8, 0x41⟩) [(8, 5), (9, 1)]) = [.segb 1 0 0 0x100000005 0] := by decide
theorem test_flags_write : lands (.flagsWrite hd ⟨1⟩) (solo (.flagsWrite hd ⟨1⟩) (ab 0x3F 0)) = [.flagsSet 1 0 0 0x1F] := by decide

theorem witness_TileWords :
    (Alone rd (solo rd (ab 1 0)) (mc rd) (m0 (ab 1 0)) ∧ (solo rd (ab 1 0)).badReg (m0 (ab 1 0)) 1 = false ∧
      (withTile { Tile.reset with claim := some [2] } (solo rd (ab 1 0))).claimed 0 2 1 = true ∧ (solo rd (ab 1 0)).claimed 0 2 1 = false ∧
      ¬ 64 ∈ ((solo rd (ab 1 0)).tile 0 2).poison ∧ 64 ∈ ((withTile { Tile.reset with poison := [64] } (solo rd (ab 1 0))).tile 0 2).poison ∧
      (Tbl.get? (solo rd (ab 1 0)).braids (bkey 1 ((m0 (ab 1 0)).braid (solo rd (ab 1 0))))).isSome = true) ∧
    Issuing (solo ms []) (mc ms) ∧ m0 [] ∈ (solo ms []).doers (mc ms) ms :=
  ⟨⟨⟨by decide, by decide, by decide, by decide⟩, by decide, by decide, by decide, by decide, by decide, by decide⟩, solo_issuing _ _, by decide⟩

def sc : Instr := .stcfg hd ⟨4, 3⟩
def qf : Instr := .qfence hd ⟨1⟩

/-- A stream that ends on the last byte of the allocation of 1,024 bytes, and one byte more; a queue set with the reserved bit 16. -/
theorem witness_CycleWords :
    Alone sc (solo sc []) (mc sc) (m0 []) ∧ (solo sc []).readable (m0 []) 4 2 ∧ (streamOf 0x200 0x1000 1024).isSome = true ∧
    streamOf 0x200 0x1001 1024 = none ∧ Alone qf (solo qf (ab 0x10000 0)) (mc qf) (m0 (ab 0x10000 0)) ∧
    (solo qf (ab 0x10000 0)).badReg (m0 (ab 0x10000 0)) 1 = false ∧ qsetBad 0x10000 = some 16 ∧ qsetBad 3 = none :=
  ⟨⟨by decide, by decide, by decide, by decide⟩, readable (by decide), by decide, by decide, ⟨by decide, by decide, by decide, by decide⟩, by decide,
    by decide, by decide⟩

def sy (n : BitVec 14) : Instr := .syswr hd ⟨8, n⟩

/-- A thread in privileged mode. -/
def privT : Thread := { lane 0 [] 1 with priv := true }

theorem witness_SystemWords :
    (Issuing (solo (.sysrd hd ⟨4, 1⟩) []) (mc (.sysrd hd ⟨4, 1⟩)) ∧ m0 [] ∈ (solo (.sysrd hd ⟨4, 1⟩) []).doers (mc (.sysrd hd ⟨4, 1⟩)) (.sysrd hd ⟨4, 1⟩)) ∧
    (((solo (sy 0x1000) []).thr 1 0).priv = false) ∧
    (Alone (sy 0x41) (solo (sy 0x41) []) (mc (sy 0x41)) (m0 []) ∧ (solo (sy 0x41) []).readable (m0 []) 8 2) ∧
    (Alone (sy 0x1000) (solo (sy 0x1000) []) (mc (sy 0x1000)) (m0 []) ∧ (solo (sy 0x1000) []).readable (m0 []) 8 2 ∧
      (solo (sy 0x1000) []).regValue (m0 []) 0x1000 = none) ∧
    (Alone (sy 0x1009) (soloT (sy 0x1009) privT) (mc (sy 0x1009)) (Member.new privT) ∧
      (soloT (sy 0x1009) privT).readable (Member.new privT) 8 2 ∧ ((soloT (sy 0x1009) privT).regValue (Member.new privT) 0x1009).isSome = true) ∧
    (Alone (.flagsWrite hd ⟨1⟩) (solo (.flagsWrite hd ⟨1⟩) []) (mc (.flagsWrite hd ⟨1⟩)) (m0 []) ∧
      (solo (.flagsWrite hd ⟨1⟩) []).badReg (m0 []) 1 = false) ∧
    (Issuing (solo (.trapret hd) []) (mc (.trapret hd)) ∧ m0 [] ∈ (solo (.trapret hd) []).doers (mc (.trapret hd)) (.trapret hd)) :=
  ⟨⟨solo_issuing _ _, by decide⟩, by decide, ⟨⟨by decide, by decide, by decide, by decide⟩, readable (by decide)⟩,
    ⟨⟨by decide, by decide, by decide, by decide⟩, readable (by decide), by decide⟩,
    ⟨⟨by decide, by decide, by decide, by decide⟩, readable (by decide), by decide⟩,
    ⟨⟨by decide, by decide, by decide, by decide⟩, by decide⟩, solo_issuing _ _, by decide⟩

/-- Four threads that issue a system write together, in privileged mode or not. -/
def fourS (i : Instr) (priv : Bool) : State :=
  machine 0 none (encode i) ((List.range 4).map (fun t => { lane t [(8, BitVec.ofNat 32 t)] 1#32 with priv := priv }))

abbrev FoursS (i : Instr) (priv : Bool) : Prop :=
  let s := fourS i priv
  Issuing s (mc i) ∧ (s.doers (mc i) i).length = 4 ∧ (∀ m ∈ s.doers (mc i) i, (s.thr m.wg m.t).badRegs = []) ∧
    (Tbl.get? s.cores 0).isSome = true ∧ (s.turnOf 0).isSome = true

/-- FLAGS, SEGB and a privileged register. -/
theorem witness_SystemWords_lanes : FoursS (.flagsWrite hd ⟨8⟩) false ∧ FoursS (sy 0x41) false ∧ (FoursS (sy 0x1009) true ∧
    ∀ m ∈ (fourS (sy 0x1009) true).doers (mc (sy 0x1009)) (sy 0x1009), ((fourS (sy 0x1009) true).regValue m 0x1009).isSome = true) :=
  ⟨⟨⟨by decide, by decide, by decide, by decide⟩, by decide, by decide, by decide, by decide⟩,
    ⟨⟨by decide, by decide, by decide, by decide⟩, by decide, by decide, by decide, by decide⟩,
    ⟨⟨by decide, by decide, by decide, by decide⟩, by decide, by decide, by decide, by decide⟩, by decide⟩

theorem test_syswr_lanes : (lands (sy 0x41) (fourS (sy 0x41) false)).length = 4 := by decide

/-- A one-thread block on rhizoid core 192 with a frame of 65,536 bytes at SPA 0 of stack 0. -/
def rhiz (i : Instr) (v : Tbl Word) : State :=
  (machine 192 (some 0) (encode i) [lane 0 v 1#32]).modWg 1 (fun g => { g with frameSize := 65536 })

/-- The address of byte `o` of the frame. -/
def framePair (o : Word) : Tbl Word := [(4, 0xFFF00000#32 + o), (5, 0x01FFFFFF)]

def nm (i : Instr) : Cur := now 192 (encode i)
def mac : Instr := .nmbkMac hd ⟨4, false, true, true⟩
def rdac : Instr := .nmbkRdac hd ⟨10, 4, false, false⟩

/-- R208: the SPA of byte 0 of the frame is in pseudo-channel 0, that of byte 8,192 in pseudo-channel 4. -/
theorem test_nmbkMac : (((ran mac (rhiz mac (framePair 0x40))).stack 0).seqQ.map (fun p => (p.1, p.2.map BankCmd.pc))) = [(0, [0])] := by decide
theorem test_nmbkBcst : (((ran (.nmbkBcst hd ⟨9, 4, false⟩) (rhiz (.nmbkBcst hd ⟨9, 4, false⟩) (framePair 0 ++ [(9, 7)]))).stack 0).seqQ.map
    (fun p => (p.1, p.2.map BankCmd.bcast))) = [(0, [[(0, 7)]])] := by decide
theorem test_nmbkRdac : ((ran rdac (rhiz rdac (framePair 0))).thr 1 0).busy = [(10, none)] := by decide
theorem test_nmbkLmac : (((ran (.nmbkLmac hd ⟨3, 4, true⟩) (rhiz (.nmbkLmac hd ⟨3, 4, true⟩) (framePair 0))).stack 0).seqQ.map
    (fun p => (p.1, p.2.map BankCmd.row))) = [(0, [0])] := by decide

theorem witness_BankWords :
    (∃ x, bankWords rdac = some x) ∧ Alone rdac (rhiz rdac (framePair 0)) (nm rdac) (m0 (framePair 0)) ∧ (rhiz rdac (framePair 0)).readable (m0 (framePair 0)) 4 2 ∧
    ((rhiz rdac (framePair 0)).wgrp 1).stack = some 0 ∧ ((m0 (framePair 0)).pair 4).toNat < 2 ^ 57 ∧
    (rhiz rdac (framePair 0)).vaIa 1 0 ((m0 (framePair 0)).pair 4).toNat 1 .read = .ok (spaIa 0 0, 0) ∧
    Tbl.getD ((rhiz rdac (framePair 0)).stack 0).seqQ heldKey [] = [] ∧
    (∀ s : State, s.spaOf (spaIa 0 0) false = .ok (s, 0)) ∧ spaPch 0 / 4 = (192 - 192) % 48 ∧
    (rhiz rdac (framePair 0x2000)).vaIa 1 0 ((m0 (framePair 0x2000)).pair 4).toNat 1 .read = .ok (spaIa 0 0x2000, 0) ∧
    (∀ s : State, s.spaOf (spaIa 0 0x2000) false = .ok (s, 0x2000)) ∧ spaPch 0x2000 / 4 ≠ (192 - 192) % 48 ∧
    (Tbl.get? (rhiz rdac (framePair 0x2000)).wgs 1).isSome = true ∧ (rhiz rdac (framePair 0x2000)).dying 1 = false ∧
    ((rhiz rdac (framePair 0x2000)).wgrp 1).ended = none :=
  ⟨⟨_, rfl⟩, ⟨by decide, by decide, by decide, by decide⟩, readable (by decide), by decide, by decide, okayAt (by decide), by decide, fun _ => rfl, by decide, okayAt (by decide),
    fun _ => rfl, by decide, by decide, by decide, by decide⟩

def macAll : Instr := .nmbkMac hd ⟨4, true, true, true⟩

/-- The same of a command for all banks. -/
theorem witness_BankWords_all :
    (∃ a d, bankWords macAll = some (⟨1, true, true, true, 0⟩, a, d)) ∧ Alone macAll (rhiz macAll (framePair 0)) (nm macAll) (m0 (framePair 0)) ∧
    (rhiz macAll (framePair 0)).readable (m0 (framePair 0)) 4 2 ∧
    (rhiz macAll (framePair 0)).vaIa 1 0 ((m0 (framePair 0)).pair 4).toNat 1 .read = .ok (spaIa 0 0, 0) ∧
    Tbl.getD ((rhiz macAll (framePair 0)).stack 0).seqQ heldKey [] = [] :=
  ⟨⟨_, _, rfl⟩, ⟨by decide, by decide, by decide, by decide⟩, readable (by decide), okayAt (by decide), by decide⟩

theorem test_nmbkMac_all : (((ran macAll (rhiz macAll (framePair 0))).stack 0).allQ.map BankCmd.all) = [true] := by decide

/-! ## Ports, words not executed, sources that cannot be read -/

def pq : Instr := .iadd hd ⟨false, 3, 115, 2⟩
def pd : Instr := .iadd hd ⟨false, 120, 1, 2⟩

/-- Ports of the braid are bound to `b`; stream 2 has one filled slot at 0x200. -/
def bound (b : Binding) (s : State) : State :=
  (s.modBrd 1 0 (fun x => { x with ports := List.replicate 12 b })).modWg 1 (fun g =>
    { g with streams := List.replicate 8 ⟨0x200, 512, [.filled], 0, 0, 0⟩ })

theorem test_port_pop : Tbl.getD ((ran pq (bound (.stream 2) (solo pq (ab 0 1)))).thr 1 0).v 3 0 = 0x201 := by decide
theorem test_port_push : (((ran pd (bound (.channel true 0 5) (solo pd (ab 3 1)))).wgrp 1).chans.getD 5 []).map Prod.fst = [4] := by decide

theorem witness_PortWords :
    (∃ x, intTwo pq = some x) ∧ Alone pq (solo pq (ab 0 1)) (mc pq) (m0 (ab 0 1)) ∧ ((solo pq (ab 0 1)).plain (m0 (ab 0 1)) 2).isSome = true ∧
    (solo pq (ab 0 1)).portOf (m0 (ab 0 1)) 3 = .unbound ∧
    Alone pq (bound (.stream 2) (solo pq (ab 0 1))) (mc pq) (m0 (ab 0 1)) ∧ (bound (.stream 2) (solo pq (ab 0 1))).portOf (m0 (ab 0 1)) 3 = .stream 2 ∧
    (bound (.stream 2) (solo pq (ab 0 1))).portUse (mc pq) 1 0 3 false = none ∧
    (bound (.stream 2) (solo pq (ab 0 1))).portBehind (mc pq) (m0 (ab 0 1)) (1 * 8 + 2) false = 0 ∧ 2 < ((bound (.stream 2) (solo pq (ab 0 1))).wgrp 1).streams.length ∧
    (Tbl.get? (bound (.stream 2) (solo pq (ab 0 1))).wgs 1).isSome = true ∧
    (((bound (.stream 2) (solo pq (ab 0 1))).wgrp 1).stream 2).pop.isSome = true ∧
    (∃ x, intTwo pd = some x) ∧ Alone pd (solo pd (ab 0 1)) (mc pd) (m0 (ab 0 1)) ∧ (solo pd (ab 0 1)).portOf (m0 (ab 0 1)) 8 = .unbound ∧
    Alone pd (bound (.channel true 0 5) (solo pd (ab 0 1))) (mc pd) (m0 (ab 0 1)) ∧
    (bound (.channel true 0 5) (solo pd (ab 0 1))).portOf (m0 (ab 0 1)) 8 = .channel true 0 5 ∧
    ((bound (.channel true 0 5) (solo pd (ab 0 1))).wgrp 1).csize ≤ 1 ∧ 5 < ((bound (.channel true 0 5) (solo pd (ab 0 1))).wgrp 1).chans.length ∧
    (((bound (.channel true 0 5) (solo pd (ab 0 1))).wgrp 1).chans.getD 5 []).length < 32 ∧
    (bound (.channel true 0 5) (solo pd (ab 0 1))).portBehind (mc pd) (m0 (ab 0 1)) (2 ^ 80 + 1 * 16 + 5) true = 0 :=
  ⟨⟨_, rfl⟩, ⟨by decide, by decide, by decide, by decide⟩, by decide, by decide, ⟨by decide, by decide, by decide, by decide⟩, by decide, by decide,
    by decide, by decide, by decide, by decide, ⟨_, rfl⟩, ⟨by decide, by decide, by decide, by decide⟩, by decide, ⟨by decide, by decide, by decide, by decide⟩,
    by decide, by decide, by decide, by decide, by decide⟩

def pg : Instr := .iadd ⟨false, 1⟩ rr
def px : Instr := .imad hd ⟨false, 112, 1, 2⟩

theorem test_false_guard_pushes_invalid : ((ran pg (solo pg [])).thr 1 0).latch = [none, none, none, none] ∧ ((ran pg (solo pg (ab 1 1))).thr 1 0).v = ab 1 1 := by
  decide

/-- A false guard, and a field that names a port where only a register may stand. -/
theorem witness_NotExecuted :
    pg.fields.isSome = true ∧ Issuing (solo pg []) (mc pg) ∧ (solo pg []).doers (mc pg) pg = [] ∧
    px.fields.isSome = true ∧ Issuing (solo px []) (mc px) ∧ (solo px []).doers (mc px) px = [] ∧
    (fieldCause px.kind px.header px.opns 0 112 false px.signs).isSome = true :=
  ⟨by decide, solo_issuing _ _, by decide, by decide, solo_issuing _ _, by decide, by decide⟩

def lw : Instr := .iadd hd ⟨false, 3, 124, 2⟩

/-- A thread whose v1 is uncorrectable. -/
def badT : Thread := { lane 0 [] 1 with badRegs := [1] }

theorem witness_SourceFaults :
    (∃ x, intTwo (.iadd hd rr) = some x) ∧ portless (.iadd hd rr) = true ∧ Issuing (soloT (.iadd hd rr) badT) (mc (.iadd hd rr)) ∧
    Member.new badT ∈ (soloT (.iadd hd rr) badT).doers (mc (.iadd hd rr)) (.iadd hd rr) ∧ (soloT (.iadd hd rr) badT).plain (Member.new badT) 1 = none ∧
    (∃ x, intTwo lw = some x) ∧ Issuing (solo lw []) (mc lw) ∧ m0 [] ∈ (solo lw []).triers (mc lw) lw ∧ (solo lw []).plain (m0 []) 124 = none :=
  ⟨⟨_, rfl⟩, by decide, ⟨by decide, by decide, by decide, by decide⟩, by decide, by decide, ⟨_, rfl⟩, solo_issuing _ _, by decide, by decide⟩

theorem witness_RegisterWordFrame :
    (registerWord (.iadd hd rr) || setWord (.iadd hd rr)) = true ∧ portless (.iadd hd rr) = true ∧ Issuing (solo (.iadd hd rr) []) (mc (.iadd hd rr)) :=
  ⟨by decide, by decide, solo_issuing _ _⟩

/-! ## Memory as events perform it (R146 to R149, R214, R304) -/

theorem witness_HomeWrites : (∀ s : State, s.resolve (spaIa 3 64) true = .ok (s, .dev 3 64)) ∧ 2 ^ 52 ≤ spaIa 3 64 := ⟨fun _ => rfl, by decide⟩

theorem test_homeAt : (match State.reset.homeAt 0 (spaIa 3 64) [7, 8] 0 0 false with
    | .ok t => (Tbl.getD t.dram (dkey 3 64) 0, Tbl.getD t.dram (dkey 3 65) 0, Tbl.getD t.dram (dkey 3 66) 0)
    | .error _ => (0, 0, 0)) = (7, 8, 0) := by decide

/-- One thread with one pending memory word `op`, and `q` in its braid's queue. -/
def pend (op : MOp) (q : List SEntry) : State :=
  { machine 0 none [] [{ lane 0 [] 1 with mops := [op], busy := [(4, none), (5, none), (6, none), (7, none)] }] with
    cores := [(0, { Core.reset with scratch := [(8, 0x11), (9, 0x22)] })], braids := [(bkey 1 0, { loadedBraid 1#64 with storeQ := q })] }

def op (k : MKind) : MOp := { MOp.mk0 k 0x100 0x100 0 0 0 0 0 with seq := 9, addr := 8, scope := 1 }

/-- A store of four bytes to IA 0x100, or to byte 8 of the scratchpad. -/
def sent (scr : Bool) : SEntry :=
  { seq := 5, asid := 0, t := 0, scratch := scr, core := 0, addr := 8, va := 0x100, ia := 0x100, pol := 0, hint := 0, data := [1, 2, 3, 4], pc := 0,
    raw := 0, logged := none, replay := false, born := 0, wpos := 0, grp := 0, lseq := 0, trap := none }

theorem test_lds_returns : Tbl.getD ((ran (.loadReturn 1 0 9) (pend (op (.lds 4 4)) [])).thr 1 0).v 4 0 = 0x2211 := by decide
theorem test_load_forwards : Tbl.getD ((ran (.loadReturn 1 0 9) (pend (op (.load 4 4 false)) [sent false])).thr 1 0).v 4 0 = 0x04030201 := by decide
theorem test_atoms_add : ((ran (.loadReturn 1 0 9) (pend (op (.atoms 0 4 0xFF 0)) [])).core 0).scratch = [(8, 0x10), (9, 0x23)] := by decide
theorem test_store_drain : ((ran (.storeDrain 1 0) (pend (op (.fence 1)) [sent true])).core 0).scratch = [(8, 1), (9, 2), (10, 3), (11, 4)] := by decide

theorem witness_LoadReturns :
    (∀ k ∈ [MKind.lds 4 4, .load 4 4 false, .atoms 0 4 5 0, .fence 1],
      (Tbl.get? (pend (op k) []).threads (tkey 1 0)).isSome = true ∧ ((pend (op k) []).thr 1 0).mops = [op k] ∧ (op k).logged = none ∧
      isRhizoid ((pend (op k) []).coreOfThread 1 0) = false ∧ (pend (op k) []).mopHeld 1 0 (op k) = false ∧ ((pend (op k) []).thr 1 0).covered = []) ∧
    ((pend (op (.lds 4 16)) []).scrPoisoned 0 8 16 = false ∧ ∀ r, r < 4 → Tbl.get? ((pend (op (.lds 4 16)) []).thr 1 0).busy (4 + r) = some none) ∧
    ((sent false).seq < (op (.load 4 4 false)).seq ∧ (sent false).scratch = false ∧ (sent false).ia = (op (.load 4 4 false)).ia ∧
      (sent false).data.length = 4 ∧ isAlias 0x100 = false ∧
      (pend (op (.load 4 4 false)) [sent false]).mopHeld 1 0 (op (.load 4 4 false)) = false ∧
      (pend (op (.load 4 4 false)) [sent false]).braidLogged 0 1 0 = []) ∧
    ((op (.atoms 0 4 5 0)).scope < 2 ∧ (pend (op (.atoms 0 4 5 0)) []).scrPoisoned 0 8 4 = false ∧
      (pend (op (.atoms 0 4 5 0)) []).storeLogged 0 1 0 9 = false ∧
      (pend (op (.atoms 0 4 5 0)) []).atomRun ((pend (op (.atoms 0 4 5 0)) []).coreOfThread 1 0) (op (.atoms 0 4 5 0)) = [(1, 0, op (.atoms 0 4 5 0))]) ∧
    ((op (.fence 1)).scope < 2 ∧ (pend (op (.fence 1)) []).storeLogged 0 1 0 9 = false ∧ ∀ x ∈ (pend (op (.fence 1)) []).threadsOf 1, ∀ e ∈ x.mops, e.kind.isLoad = false ∨ (op (.fence 1)).seq ≤ e.seq) := by
  decide

/-- A store on its way to its home. -/
def gone (ia : Nat) : WStore :=
  { seq := 5, wg := 1, t := 0, asid := 0, va := ia, ia := ia, pol := 0, hint := 0, data := [1, 2, 3, 4, 5, 6, 7, 8], pc := 0, raw := 0, wpos := 0,
    logged := none, replay := false, born := 0, lseq := 0, trap := none, own := (0, 0) }

/-- Core 0 has sent `w`; stack 0 has a page table that maps the first 2 MiB of region 0x2 to SPA 0. -/
def sends (w : WStore) : State :=
  { State.reset with
    cores := [(0, { Core.reset with wstores := [w] })], stackTbl := [(0, { Stack.reset with stroot := 0x100000#64 })],
    dram := [(0x101000, 0x0F), (0x120000, 0x01), (0x120001, 0x10), (0x120002, 0x10)] }

theorem test_store_home : (ran (.storePerformHome 0 0) (sends (gone (spaIa 0 0x40)))).dram.take 3 = [(0x40, 1), (0x41, 2), (0x42, 3)] := by decide
/-- R214: 0x0F of the page table at SPA 0x101000 plus the payload 0x0807060504030201. -/
theorem test_reduction_add : (ran (.reductionAdd 0) (sends (gone (2 * 2 ^ 48 + 0x101000)))).dram.take 2 = [(0x101000, 0x10), (0x101001, 2)] := by decide

theorem witness_StoreEvents :
    (let s := { pend (op (.fence 1)) [sent true] with threads := [(tkey 1 0, lane 0 [] 1)] }
     (Tbl.get? s.braids (bkey 1 0)).isSome = true ∧ (s.brd 1 0).storeQ = [sent true] ∧ (sent true).logged = none ∧ (s.thr 1 0).mops = [] ∧ s.storeHeld 1 0 (sent true) = false) ∧
    (let s := { pend (op (.fence 1)) [{ sent false with ia := spaIa 0 0x40 }] with threads := [(tkey 1 0, lane 0 [] 1)] }
     (s.brd 1 0).storeQ = [{ sent false with ia := spaIa 0 0x40 }] ∧ isRhizoid (s.coreOfThread 1 0) = false ∧ s.refusedBy (spaIa 0 0x40) true = none ∧
     s.storeHeld 1 0 { sent false with ia := spaIa 0 0x40 } = false) ∧
    (let s := sends (gone (spaIa 0 0x40))
     (s.core 0).wstores[0]? = some (gone (spaIa 0 0x40)) ∧ s.mayHome 0 (gone (spaIa 0 0x40)) = true ∧ s.isFarPeer (spaIa 0 0x40) = false ∧
     isAlias (spaIa 0 0x40) = false ∧ (s.homePut 0 (spaIa 0 0x40) [1, 2, 3, 4, 5, 6, 7, 8] 0 0 true).isOk = true) ∧
    (let s := { State.reset with cores := [(0, { Core.reset with tokens := [⟨0, 0, 3, 0⟩] })] }
     (s.core 0).tokens[0]? = some ⟨0, 0, 3, 0⟩) ∧
    (let w := gone (2 * 2 ^ 48 + 0x101000)
     let s := sends w
     s.cores = [(0, { Core.reset with wstores := [w] })] ∧ s.mayHome 0 w = true ∧ isAlias w.ia = true ∧ iaStack w.ia = 0 ∧ s.isFarPeer w.ia = false ∧
     (s.homePut 0 w.ia w.data w.hint w.pol true).isOk = true) := by
  decide

/-- A software-managed store; tokens that have not been seen, have been, and go to a lost peer; a reduction write whose aperture resolves. -/
theorem witness_StoreEvents_more :
    (let e := { sent false with pol := 1 }
     let s := { pend (op (.fence 1)) [e] with threads := [(tkey 1 0, lane 0 [] 1)] }
     (s.brd 1 0).storeQ = [e] ∧ (s.thr 1 0).mops = [] ∧ s.storeHeld 1 0 e = false ∧ isRhizoid (s.coreOfThread 1 0) = false ∧
     s.staysInL1 0 e = true ∧ e.ia % 128 + e.data.length ≤ 128 ∧ s.staysInL1 0 (sent false) = false) ∧
    (∀ x ∈ [((⟨0, 3, 4, 0⟩, false, false) : Token × Bool × Bool), (⟨1, 0, 4, 0⟩, true, false), (⟨7, 0, 4, 0⟩, true, true)],
      let s := { State.reset with lost := [5], cores := [(0, { Core.reset with tokens := [x.1] })] }
      (s.core 0).tokens[0]? = some x.1 ∧ decide (x.1.count ≤ Tbl.getD (s.core 0).performed x.1.endpoint 0) = x.2.1 ∧
      (decide (2 ≤ x.1.endpoint) && s.lost.contains (x.1.endpoint - 2)) = x.2.2) ∧
    (let w := gone (2 * 2 ^ 48 + 0x101000)
     let s := sends w
     w.ia < 2 ^ 52 ∧ w.data.length % 8 = 0 ∧ w.data.length ≤ 64 ∧ (match s.resolve w.ia true with | .ok (_, .dev 0 _) => true | _ => false) = true ∧
     (s.homePut 0 w.ia w.data w.hint w.pol true).isOk = true) := by
  decide +kernel

/-! ## Cycles, packets and exceptions (R216 to R225, R397 to R411) -/

/-- The machine of `solo` with the acts `l` due. -/
def dueTo (l : List Act) (i : Instr) (v : Tbl Word) : State := { solo i v with agenda := l, cur := none }

theorem test_step_runs_decoded : (match step (State.reset.withFetchWord 32 0x25008005) with
    | .next t => Tbl.getD (t.thr 1 0).v 2 0
    | _ => 0) = 5 := by decide

/-- A cycle whose words have left the acts `l`. -/
def cycleOf (l : List CycAct) : State :=
  { dueTo [.cycleEnd 0] (.nop hd) [] with
    cores := [(0, { Core.reset with turn := some ⟨1, 0, [⟨0, [0, 0, 0], false, [m0 []]⟩], l, [], []⟩ })] }

/-- A load that stands after a write of RRCOMMIT in its cycle. -/
def lwAfter : Instr := .ld32 hd (ma 4 2)

theorem witness_StepRunsDecoded :
    (let s := State.reset.withFetchWord 32 0x25008005
     s.agenda.head? = some (.word 0 0 0) ∧ (s.turnOf 0).isSome = true ∧
     ((s.turnOf 0).bind (fun t => t.pkts[0]?)).map (fun p => p.words) = some [0x25008005, 0, 0]) ∧
    (∃ i rest, Sys2Proof.decode [0x25008005, 0, 0] = .ok (i, rest)) ∧
    (∃ e, decodeWord 0x00000001 0 0 = .error e) ∧ (State.reset.withFetchWord 32 0x25008005).holdsWord 0 0 0 = false ∧
    (let s := { cycleOf [.priv 1 0 0 0 0x1104 1 0 0 0] with
        cores := [(0, { Core.reset with turn := some ⟨1, 0, [⟨0, encode lwAfter, false, [m0 []]⟩], [.priv 1 0 0 0 0x1104 1 0 0 0], [], []⟩ })] }
     s.holdsWord 0 0 0 = true ∧ ((s.turnOf 0).bind (fun t => t.pkts[0]?)).isSome = true) ∧
    (let s := State.reset.withFetchWord 32 1
     Issuing { s with agenda := s.agenda.tail, cur := some ⟨0, 0, 0, 1⟩ } ⟨0, 0, 0, 1⟩) :=
  ⟨by decide, ⟨_, _, rfl⟩, ⟨_, rfl⟩, by decide, by decide, by decide, by decide, by decide, by decide⟩

/-- Two words of the cycle have made p4 true and raised the flags 0x11, which reach the register at CLK 6. -/
def cycleDone : State := cycleOf [.pred 1 0 4 true, .flags 1 0 6 0x11]

def next (s : State) : State :=
  match step s with
  | .next t => t
  | _ => s

theorem test_cycle_end : ((next cycleDone).thr 1 0).p = 0x11 ∧ ((next cycleDone).brd 1 0).flags = 0 ∧
    ((next cycleDone).brd 1 0).flagsDue = [(6, 0x11)] ∧ ((State.writeFlags { next cycleDone with clk := 5 }).brd 1 0).flags = 0 ∧
    ((State.writeFlags { next cycleDone with clk := 6 }).brd 1 0).flags = 0x11 := by decide
theorem test_cycle_end_flags : ((next (cycleOf [.flagsSet 1 0 0 0x1F])).brd 1 0).flags = 0x1F := by decide
theorem test_cycle_end_priv : ((next (cycleOf [.priv 1 0 0 0 0x1009 7 0 0 0])).thr 1 0).mops.map MOp.kind = [.syswr 0x1009 7 false] := by decide

theorem test_cycle_end_lands :
    (let s := next (cycleOf [.segb 1 0 3 7 0, .segb 1 0 2 5 0, .bind 1 0 11 0 (.stream 2), .code 1 0 15 0x4000])
     ((s.brd 1 0).segb, (s.brd 1 0).ports[11]?, (s.brd 1 0).codebook[15]?)) = (5, some (.stream 2), some 0x4000) := by decide
def oneStream : Stream := ⟨0x200, 512, [.free], 0, 0, 0⟩
/-- R449: an illegal pair in one packet takes the legal one of the other with it. -/
theorem test_cycle_end_stcfg :
    ((next (cycleOf [.stcfg 1 7 0 (some oneStream)])).wgrp 1).streams[7]? = some oneStream ∧
    ((next (cycleOf [.stcfg 1 7 0 (some oneStream), .stcfg 1 7 1 none])).wgrp 1).streams[7]? = some Stream.blank := by decide
theorem test_cycle_end_qfence : (next (cycleOf [.qfence 1 0 0 3 9, .qfence 1 0 0 1 8])).qfences = [(1, 0, 8)] := by decide

theorem witness_CycleEnds :
    cycleDone.agenda = [.cycleEnd 0] ∧ (∃ tn, cycleDone.turnOf 0 = some tn ∧ tn.held = [] ∧ CycAct.pred 1 0 4 true ∈ tn.acts ∧
      (∀ a ∈ tn.acts, ∀ wg' t' v', a = .pred wg' t' 4 v' → tkey wg' t' = tkey 1 0 → v' = true)) ∧
    (Tbl.get? cycleDone.threads (tkey 1 0)).isSome = true ∧ (Tbl.get? cycleDone.braids (bkey 1 0)).isSome = true ∧
    (∀ a, a ∈ [CycAct.flagsSet 1 0 0 0x1F, .priv 1 0 0 0 0x1009 7 0 0 0, .segb 1 0 0 5 0, .bind 1 0 11 0 (.stream 2), .code 1 0 15 0x4000,
        .stcfg 1 7 0 (some oneStream), .stcfg 1 7 0 none, .qfence 1 0 0 3 9] →
      (cycleOf [a]).agenda = [.cycleEnd 0] ∧ ((cycleOf [a]).turnOf 0).map (fun tn => (tn.acts, tn.held)) = some ([a], []) ∧
      (Tbl.get? (cycleOf [a]).threads (tkey 1 0)).isSome = true ∧ (Tbl.get? (cycleOf [a]).braids (bkey 1 0)).isSome = true ∧
      (Tbl.get? (cycleOf [a]).wgs 1).isSome = true ∧ 11 < ((cycleOf [a]).brd 1 0).ports.length ∧ 15 < ((cycleOf [a]).brd 1 0).codebook.length ∧
      7 < ((cycleOf [a]).wgrp 1).streams.length ∧ (cycleOf [a]).rivals 1 (((cycleOf [a]).wgrp 1).coreOf 0) 0x1009 = []) ∧
    (Tbl.get? (next cycleDone).braids (bkey 1 0)).isSome = true := by
  refine ⟨by decide, ⟨_, rfl, by decide, by decide, ?_⟩, by decide, by decide, by decide, by decide⟩
  intro a h
  simp at h
  rcases h with rfl | rfl <;> simp

/-- The end of a packet of words `ws` at packet number 3 of one thread, for which the packet holds `m`. -/
def endingW (ws : List Word) (m : Member) : State :=
  { dueTo [.packetEnd 0 0] (.nop hd) [] with
    cores := [(0, { Core.reset with turn := some ⟨1, 0, [⟨3, ws, false, [m]⟩], [], [], []⟩ })] }
def ending (m : Member) : State := endingW [0, 0, 0] m

theorem ends (m : Member) (wg : m.wg = 1) (t : m.t = 0) : Ending (ending m) 0 0 ⟨3, [0, 0, 0], false, [m]⟩ m :=
  ⟨rfl, rfl, rfl, rfl, by rw [wg, t]; exact solo_here (.nop hd) [],
    by rw [wg]; exact (by decide : (Tbl.get? (solo (.nop hd) []).wgs 1).isSome = true),
    by rw [wg]; exact (by decide : ((solo (.nop hd) []).wgrp 1).ended = none ∧ ((solo (.nop hd) []).wgrp 1).retired = false ∧
      ((solo (.nop hd) []).wgrp 1).stopping = false),
    by rw [wg, t]; exact (by decide : ((solo (.nop hd) []).thr 1 0).bound = none),
    by rw [wg, t]; exact (by decide : ((solo (.nop hd) []).thr 1 0).async = [])⟩

def mEnd : Member := m0 []

theorem test_packet_end : ((next (ending mEnd)).thr 1 0).pc = 4 := by decide
theorem test_exit : ((next (ending { mEnd with exit := true })).thr 1 0).exited = true := by decide

/-- An end with no branch, an EXIT, a SLEEP that is over and one that is not, and the waits. -/
theorem witness_PacketEnds :
    Ending (ending mEnd) 0 0 ⟨3, [0, 0, 0], false, [mEnd]⟩ mEnd ∧ mEnd.fault = none ∧ mEnd.trapret = false ∧ mEnd.exit = false ∧ mEnd.wait = none ∧
    (∀ w ∈ [Wait.sleep 0, .sleep 1, .waitge 0 5 4 none, .waitp 0 0 5 4],
      let m := { mEnd with wait := some w }
      Ending (ending m) 0 0 ⟨3, [0, 0, 0], false, [m]⟩ m ∧ m.fault = none ∧ m.trapret = false ∧ m.exit = false ∧ m.target = none ∧ m.yielded = false) ∧
    (let m := { mEnd with exit := true }
     Ending (ending m) 0 0 ⟨3, [0, 0, 0], false, [m]⟩ m ∧ m.exit = true ∧ m.wait = none) :=
  ⟨ends _ rfl rfl, rfl, rfl, rfl, rfl, fun _ _ => ⟨ends _ rfl rfl, rfl, rfl, rfl, rfl, rfl⟩, ends _ rfl rfl, rfl, rfl⟩

/-- A thread that met a TRAP at position 0, with traps enabled and the frames mapped. -/
def trapWs : List Word := [0x0F000009#32, 0, 0]
def trapM : Member := { m0 [] with fault := some (0, ⟨0x01, 0, 3, 0x0F000009#32, 0, 0⟩) }
def trapping : State :=
  mapped ((endingW trapWs trapM).modPart 0 (fun p => { p with tctl := 1#32, tvec := 0x40#64 }))

theorem test_trap_entry : ((next trapping).thr 1 0).priv = true ∧ ((next trapping).thr 1 0).pc = 0x40 ∧
    Tbl.getD ((next trapping).thr 1 0).v 2 0 = 0x00020901 := by decide

theorem witness_TrapTaken :
    Ending trapping 0 0 ⟨3, trapWs, false, [trapM]⟩ trapM ∧ trapM.fault = some (0, ⟨0x01, 0, 3, 0x0F000009#32, 0, 0⟩) ∧ trapM.wait = none ∧
    causeClass 0x01 = 0 ∧ (trapping.wgrp 1).stack = none ∧ (trapping.thr 1 0).priv = false ∧ (trapping.part 0).tctl.getLsbD 0 = true ∧
    (Tbl.get? trapping.braids (bkey 1 0)).isSome = true ∧ (trapping.checkVa 0 (trapping.frameVa 1 0) 16 .write).isOk = true :=
  ⟨⟨by decide, by decide, by decide, by decide, by decide, by decide, by decide, by decide, by decide⟩, rfl, rfl, by decide, by decide, by decide, by decide,
    by decide, by decide⟩

/-- The frame that `trapping` would write. -/
def frame : List Nat := frameDoubles (trapping.frameBytes 1 0 ⟨0x01, 0, 3, 0x0F000009#32, 0, 0⟩ 1#3 4 .ready)

theorem test_frame_d0 : frame.getD 0 0 = 0x0F00000900020901 ∧ frame.getD 1 0 = 3 ∧ frame.getD 2 0 = 4 := by decide

theorem witness_TrapReturns :
    (Tbl.get? trapping.threads (tkey 1 0)).isSome = true ∧ (trapping.thr 1 0).bound = none ∧ frameMalformed frame (trapping.thr 1 0).held = false ∧
    (frameMalformed ((frame.take 10) ++ [3]) (some ⟨.sleep 9, false, 4⟩) = false) := by decide

theorem witness_TrapRoundTrip :
    (Tbl.get? trapping.threads (tkey 1 0)).isSome = true ∧ (trapping.thr 1 0).bound = none ∧ (0x01 : Nat) < 2 ^ 8 ∧ (3 : Nat) < 2 ^ 53 ∧
    (trapping.thr 1 0).wait = .ready := by decide

/-- The end of the packet of a thread that read a poisoned operand (cause 0x20). -/
def poisonM : Member := { m0 [] with fault := some (0, ⟨0x20, 0, 3, 0, 0, 0⟩) }
def ranOn : State := ending poisonM

theorem test_cause_20 : ((next ranOn).thr 1 0).pc = 4 ∧ ((next ranOn).thr 1 0).off = false ∧ ((next ranOn).brd 1 0).fmask.getLsbD 0 = true := by decide
theorem witness_FaultClasses_runs_on : Ending ranOn 0 0 ⟨3, [0, 0, 0], false, [poisonM]⟩ poisonM := ends _ rfl rfl

/-- One cause of each class; a thread in the handler; traps not enabled. -/
theorem witness_FaultClasses :
    (Tbl.get? trapping.wgs 1).isSome = true ∧ trapping.dying 1 = false ∧ (trapping.wgrp 1).ended = none ∧
    (Tbl.get? trapping.threads (tkey 1 0)).isSome = true ∧
    (Tbl.get? ranOn.braids (bkey 1 0)).isSome = true ∧ (ranOn.thr 1 0).lane < 64 ∧ poisonM.wait = none ∧ poisonM.trapret = false ∧
    causeClass 0x10 = 2 ∧ causeClass 0x01 = 0 ∧ causeClass 0x21 = 1 ∧ causeClass 0x47 = 3 ∧ ((soloT (.nop hd) privT).thr 1 0).priv = true ∧
    ((soloT (.nop hd) privT).wgrp 1).stack = none ∧ ((solo (.nop hd) []).thr 1 0).priv = false ∧ ((solo (.nop hd) []).part 0).tctl.getLsbD 0 = false ∧
    ((rhiz (.nop hd) []).wgrp 1).stack.isSome = true := by decide

/-! ## Events -/

/-- One thread, not in any turn. -/
def idle (x : Thread) : State := { machine 0 none [] [x] with cores := [], cur := none }

def waits (w : Wait) : Thread := { lane 0 [] 1 with wait := w, resume := 7 }

theorem test_sleep_wake : ((ran .sleepWake { idle (waits (.sleep 5)) with clk := 5 }).thr 1 0).pc = 7 := by decide
theorem test_async_trap : ((ran (.asyncTrap 1 0) ((idle { waits (.sleep 5) with async := [⟨0x21, 0, 3, 0, 0, 0⟩] }))).thr 1 0).off = true := by decide
theorem test_waitge_reads : pending (ran (.waitgeReread 1 0) (mapped (idle (waits (.waitge 0x40 5 4 none))))) = [(.waitRead false, 0x40, 0x40)] := by decide

theorem witness_WaitEvents :
    (idle (waits (.sleep 5))).Coherent ∧ ((idle (waits (.sleep 0))).thr 1 0).wait = .sleep 0 ∧ (idle (waits (.sleep 0))).clk = 0 ∧
    ((mapped (idle (waits (.waitge 0x40 5 4 none)))).thr 1 0).wait = .waitge 0x40 5 4 none ∧
    ((mapped (idle (waits (.waitge 0x40 5 4 none)))).thr 1 0).mops = [] ∧
    ((mapped (idle (waits (.waitge 0x40 5 4 none)))).vaIaOf 1 ((mapped (idle (waits (.waitge 0x40 5 4 none)))).asidOf 1 0) 0x40 8 .read).isOk = true ∧
    ((mapped (idle (waits (.waitp 1 0x40 5 4)))).thr 1 0).wait = .waitp 1 0x40 5 4 ∧ (mapped (idle (waits (.waitp 1 0x40 5 4)))).clk < 1 ∧
    ((mapped (idle (waits (.waitp 0 0x40 5 4)))).thr 1 0).wait = .waitp 0 0x40 5 4 ∧
    (let s := braidHitch { Hitch.launch 3#64 0 with arrived := 1#64, kind := .rejoin } (idle (waits (.hitch 0)))
     s.threadsOf 1 = [waits (.hitch 0)] ∧ (Tbl.get? s.wgs 1).isSome = true ∧ s.dying 1 = false ∧ (s.wgrp 1).ended = none ∧
     (s.hitch 1 0 0).members.getLsbD 1 = true ∧ (s.hitch 1 0 0).arrived.getLsbD 1 = false) ∧
    (let x := { waits (.sleep 5) with async := [⟨0x21, 0, 3, 0, 0, 0⟩] }
     ((idle x).thr 1 0).wait ≠ .ready ∧ ((idle x).thr 1 0).async = [⟨0x21, 0, 3, 0, 0, 0⟩] ∧ ((idle x).thr 1 0).exited = false ∧ ((idle x).thr 1 0).off = false ∧
     ((idle x).wgrp 1).retired = false) :=
  ⟨⟨by decide, by decide⟩, by decide, by decide, by decide, by decide, by decide, by decide, by decide, by decide, by decide, by decide⟩

/-- A workgroup that a fault has ended. -/
def endedWg : Workgroup := { loadedWg 0 none with ended := some ⟨0x10, 0, 0, 3, 1, 0⟩ }
def endedS : State := { idle (lane 0 [] 1) with wgs := [(1, endedWg)] }

theorem endedS_one (g : Workgroup) (h : g.id = 1 ∧ g.stack = none ∧ g.retired = false ∧ g.stopping = false ∧ g.part = 0) :
    OneWg { idle (lane 0 [] 1) with wgs := [(1, g)] } 1 g :=
  ⟨rfl, h.1, h.2.1, ⟨h.2.2.1, h.2.2.2.1⟩, rfl, rfl, by rw [h.2.2.2.2]; rfl⟩

/-- A load of a page that no table of stack 0 maps. -/
def absentS : State := pend { op (.load 4 4 false) with ia := 0x100 } []

def errS (e : ErrSite) : State := { idle (lane 0 [] 1) with msg := { Msg.none with err := some e } }

theorem test_region_fatal_stops : ((ran .regionFatal { idle (lane 0 [] 1) with regionFaults := [⟨0, 0, 0, ⟨0x61, 5, 0, 0, 0, 0⟩⟩] }).wgrp 1).stopping = true := by decide
theorem test_corrected_counts : ((ran .correctedError State.reset).die 0).power.cecnt = 0x0001000000000000 := by decide
theorem test_uncorrectable_register : ((ran .uncorrectableError (errS (.regFile 1 0 5))).thr 1 0).badRegs = [5] := by decide

theorem witness_FaultEvents :
    (OneWg endedS 1 endedWg ∧ endedWg.ended = some ⟨0x10, 0, 0, 3, 1, 0⟩ ∧ endedWg.csize ≤ 1) ∧
    (OneWg { idle (lane 0 [] 1) with wgs := [(1, loadedWg 0 none)] } 1 (loadedWg 0 none)) ∧
    (absentS.findAccess 9 = some (1, 0, 0x100, false) ∧ absentS.logCount ((absentS.wgrp 1).coreOf 0) < 16 ∧ (absentS.resolve 0x100 false).isOk = false ∧
      (absentS.part 0).fqtab.toNat % 2 ^ 52 = 0) ∧
    ((errS (.regFile 1 0 5)).msg.err = some (.regFile 1 0 5) ∧ (Tbl.get? (errS (.regFile 1 0 5)).threads (tkey 1 0)).isSome = true ∧
      ((errS (.regFile 1 0 5)).cluster (clusterOf ((errS (.regFile 1 0 5)).coreOfThread 1 0))).errors = 0) ∧
    (errS (.dram 3 64)).msg.err = some (.dram 3 64) ∧ State.reset.msg.err = none ∧
    (¬ 5 ∈ (State.reset.stack 3).retired ∧ (State.reset.die 0).power.capring.toNat % 2 ^ 52 = 0) ∧
    (let s := { State.reset with clusters := [(5, { Cluster.reset 5 with replace := true })] }
     (s.cluster 5).replace = true ∧ s.clusterFree 5 = true ∧ 0 < (s.die (dieOfCluster 5)).power.spares.toNat % 4) :=
  ⟨⟨endedS_one _ (by decide), rfl, by decide⟩, endedS_one _ (by decide), by decide, by decide, by decide, by decide, by decide, by decide⟩

/-- Core 0 with the first line of code in its instruction cache (NOPs), all code mapped for fetches. -/
def codeLine (tag : Nat) : Line := ⟨tag, (List.range 128).map (fun i => (i, 0#8)), [], 0, 0, 0, 0, 0, 0, 0, [], (0, 0)⟩
def ready (x : Thread) : State :=
  { idle x with ranges := [(0, 0x000000000000000000000000000000FF000000000000000F#192)], cores := [(0, { Core.reset with l1i := [codeLine 0] })] }

/-- Core 192 of stack 0 with 128 KiB of code space at SPA 0. -/
def rhizReady : State :=
  { ready (lane 0 [] 1) with
    wgs := [(1, loadedWg 192 (some 0))], cores := [(192, { Core.reset with l1i := [codeLine (2 ^ 45)] })],
    stackTbl := [(0, { Stack.reset with nmcode := 0x0002000000000000#64 })] }

theorem test_issue_turn : ((ran (.issueTurn 0) (ready (lane 0 [] 1))).turnOf 0).map (fun t => t.pkts.map (fun p => (p.pc, p.members.length))) = some [(0, 1)] := by
  decide

theorem witness_IssueEvents :
    (let s := ready (lane 0 [] 1)
     s.Coherent ∧ (s.core 0).turn = none ∧ (s.core 0).halted = false ∧ s.tripped = false ∧ s.fetchCore 0 = s ∧ s.coreThreads 0 = [lane 0 [] 1] ∧
     ((lane 0 [] 1).hold = false ∧ (lane 0 [] 1).bound = none) ∧
     (s.noteAttempts 0).ready 0 ((s.noteAttempts 0).thr 1 0) = some [0, 0, 0] ∧ (s.noteAttempts 0).needs 1 0 [0, 0, 0] = [] ∧
     (∀ x ∈ s.coreThreads 0, ∀ y ∈ s.coreThreads 0, x.bound ≠ none → x.bound = y.bound → x.lane = y.lane → x = y) ∧
     ((ran (.issueTurn 0) s).turnOf 0).isSome = true) ∧
    (let s := rhizReady
     s.Coherent ∧ (s.core 192).turn = none ∧ s.tripped = false ∧ s.fetchCore 192 = s ∧ s.coreThreads 192 = [lane 0 [] 1] ∧
     (s.noteAttempts 192).ready 192 ((s.noteAttempts 192).thr 1 0) = some [0, 0, 0] ∧ (s.noteAttempts 192).needs 1 0 [0, 0, 0] = []) :=
  ⟨⟨⟨by decide, by decide⟩, by decide, by decide, by decide, by decide, by decide, by decide, by decide, by decide, by decide, by decide⟩,
    ⟨by decide, by decide⟩, by decide, by decide, by decide, by decide, by decide, by decide⟩

/-! ## Events of the engines -/

/-- A request of thread 0 of workgroup 1. -/
def req0 (o : EngOp) : EReq :=
  { id := 3, op := o, q := 2, regs := [], parts := [], segb := 0, wg := 1, gang := [1], t := 0, signers := [], pc := 0, word := 0, wpos := 0, core := 0,
    part := 0, asid := 0, dom := 0, launch := 0, launchIa := 0, rels := [], formed := 0, begun := true, phase := 0, pos := 0, recs := [], work := [],
    vals := [], waiting := none, missed := none, opened := [], replay := false, leave := 0, damaged := false }

/-- The machine of `idle` with request `r`, and cluster 0 as `c`. -/
def engine (r : EReq) (c : Cluster) : State := { idle (lane 0 [] 1) with clk := 9, reqs := [(3, r)], clusters := [(0, c)] }

def cl0 : Cluster := Cluster.reset 0
def mxsReq : EReq := { req0 .mxs with regs := [0, 0, 0x00000101, 0] }
def smxReq (phase : Nat) : EReq := { req0 .smx with regs := [0, 0, 0, 1, 0, 0, 0], phase := phase }
def boxReq : EReq := { req0 .cpbox with begun := false, signers := [(0, 4)] }
def entry : Reserve := ⟨3, 0, 2, 0, 0, 0, 0⟩
def queued (x : Cluster) : Cluster := { x with tiles := List.replicate 8 { Tile.reset with queue := [.req 3] } }
def claimedBy (x : Cluster) : Cluster := { x with tiles := List.replicate 8 { Tile.reset with queue := [.req 3], claim := some [1] } }

def formedS : State :=
  { engine boxReq cl0 with formed := [3], cores := [(0, Core.reset)], threads := [(tkey 1 0, { lane 0 [] 1 with busy := [(4, none), (5, none)] })] }

theorem test_request_pass : ((ran .engineRequestPass formedS).cluster 0).copyQ.getD 2 [] = [.req 3] := by decide
theorem test_matrix_select : ((ran (.matrixSelect 0) (engine { mxsReq with begun := false } { claimedBy cl0 with table := [entry] })).cluster 0).winner = some 3 := by
  decide
theorem test_tile_claim : ((ran (.tileClaimPass 0 2) (engine mxsReq (queued cl0))).tile 0 2).claim = some [1] := by decide
theorem test_matrix_pass : (Tbl.vals (ran (.matrixPass 0) (engine mxsReq { claimedBy cl0 with granted := some 3 })).reqs).map EReq.pos = [1] := by decide
theorem test_alias_build : (Tbl.vals (ran (.aliasBuild 0) (engine (smxReq 1) { cl0 with smx := some 3, norm := [(0, 0x3F800000)] })).reqs).map EReq.phase = [2] := by
  decide

theorem witness_MatrixEvents :
    (formedS.formed = [3] ∧ formedS.req 3 = some boxReq ∧ boxReq.formed < formedS.clk ∧ boxReq.op = .cpbox ∧ boxReq.signers = [(0, 4)] ∧ (formedS.thr 1 0).covered = [] ∧ (formedS.thr 1 0).mops = [] ∧ formedS.qfences = [] ∧
      boxReq.q < (formedS.cluster 0).copyQ.length ∧ (Tbl.get? formedS.threads (tkey 1 0)).isSome = true ∧
      Tbl.get? (formedS.thr 1 0).busy 4 = some none ∧ Tbl.get? (formedS.thr 1 0).busy 5 = some none) ∧
    (let s := engine { mxsReq with begun := false } { claimedBy cl0 with table := [entry] }
     (s.cluster 0).winner = none ∧ (s.cluster 0).granted = none ∧ (s.cluster 0).table.filter (s.eligible 0) = [entry]) ∧
    (let s := engine mxsReq { claimedBy cl0 with granted := some 3 }
     (s.cluster 0).granted = some 3 ∧ s.req 3 = some mxsReq ∧ mxsReq.op = .mxs ∧ mxsReq.q < (s.cluster 0).tiles.length ∧
     (mxsReq.regs.getD 2 0#32).toNat / 2 ^ 27 % 2 = 0 ∧ (mxsReq.regs.getD 2 0#32).toNat / 2 ^ 29 % 2 = 0 ∧ mxsReq.pos + 1 < (mxsReq.regs.getD 2 0#32).toNat % 256 + 1) ∧
    (let s := engine mxsReq (queued cl0)
     (s.tile 0 2).claim = none ∧ s.parts = [] ∧ (s.tile 0 2).queue.head? = some (.req 3)) ∧
    (let s := engine { smxReq 0 with regs := [0, 0, 0, 0, 0, 0, 0] } { cl0 with granted := some 3 }
     (s.cluster 0).granted = some 3 ∧ ((s.modCluster 0 (fun x => { x with granted := none, smx := some 3 })).kRows (smxReq 0)
       ((rangeFrom 0 192).filter (fun k => decide (k < 0)))).isOk = true) ∧
    (let s := engine (smxReq 1) { cl0 with smx := some 3, norm := [(0, 0x3F800000)] }
     let sum := Num.d32 (Num.r32 (Num.sum ((List.range 1).map (fun i => Num.d32 (Tbl.getD (s.cluster 0).norm i 0#32)))))
     (s.cluster 0).smx = some 3 ∧ s.req 3 = some (smxReq 1) ∧ sum.isZero = false ∧ sum.isNan = false ∧ sum.isInf = false) := by
  decide

/-! ## Power, commands and the host -/

def powered (f : Power → Power) : State := (engine { mxsReq with leave := 1 } cl0).modPower 0 f
def leave0 (cost : Nat) : Leave := ⟨1, 0, 3, cost, 0, 0⟩

theorem test_leave_grant : ((ran .leaveGrant (powered (fun p => { p with fifo := [leave0 5] }))).die 0).power.fifo = [] := by decide
/-- R478: 10 us are 18,000 cc. -/
def hotFor (n : Nat) : State := { powered (fun p => { p with hotSince := some 0 }) with clk := n }
theorem test_thermal_trip : (ran .thermalTrip (hotFor 18000)).tripped = true := by decide
theorem test_thermal_stays : (ran .thermalTrip (hotFor 17999)).tripped = false := by decide

/-- A request that fits exactly, one that is a unit too dear in a window that is not fresh, and the bound of 10 us. -/
theorem witness_PowerEvents :
    ((powered id).leaveOf 0 0 3).isSome = true ∧
    (let s := powered (fun p => { p with fifo := [leave0 7], remaining := 7, fresh := false })
     (s.die 0).power.fifo = [leave0 7] ∧ (s.die 1).power.fifo = [] ∧ (s.req 3).isSome = true ∧ ((leave0 7).cost : Int) ≤ (s.die 0).power.remaining) ∧
    (let s := powered (fun p => { p with fifo := [leave0 7], remaining := 6, fresh := false })
     (s.die 0).power.remaining < ((leave0 7).cost : Int) ∧ (s.die 0).power.fresh = false) ∧
    (∀ d, d < 2 → ((powered id).die d).power.staged = []) ∧
    (∀ d, d < 2 → ((hotFor 17999).die d).power.hotSince.all (fun c => decide ((hotFor 17999).clk < c + 18000)) = true) ∧
    ((hotFor 18000).die 0).power.hotSince = some 0 ∧ 0 + 18000 ≤ (hotFor 18000).clk := by decide

/-- The host window with range register 0x30005 selected and a valid range staged, or one whose limit is below its base. -/
def window (lo mid hi : Dword) : State := { State.reset with hostWindow := { Window.reset with rrsel := 0x00030005#32, rrlo := lo, rrmid := mid, rrhi := hi } }

theorem test_commit : (ran (.rrcommitCommit .host) (window 0x10003 2 0)).ranges = [(53, 0x000000000000000000000000000000020000000000010003#192)] := by decide
theorem test_commit_refused : ((ran (.rrcommitCommit .host) (window 0x20003 1 0)).window .host).rrsel.getLsbD 31 = true := by decide
theorem test_spdm_version : (ran .spdmGetVersion State.reset.booted).spdm.version = true := by decide
theorem test_spdm_booting : (ran .spdmGetVersion State.reset).outbox = [.hostRetry] := by decide

theorem reset_noneLogged (k : Nat) : State.reset.noneLogged k :=
  by simp [State.noneLogged, State.reset]

def agreed (a b c : Bool) : State := { State.reset.booted with spdm := ⟨a, b, c, []⟩ }

theorem witness_CommandEvents :
    rangeOk ((window 0x10003 2 0).window .host).staged = true ∧ rangeOk ((window 0x20003 1 0).window .host).staged = false ∧
    State.reset.noneLogged 8 ∧ State.reset.noneLogged 9 ∧ State.reset.noneLogged 10 ∧ State.reset.booting = true ∧
    { State.reset with tripped := true }.tripped = true ∧ State.reset.booted.booting = false ∧
    ((window 0x10003 2 0).window .host).busy = false ∧ (agreed true false false).failed = false ∧
    (agreed true false false).spdm.version = true ∧ (agreed true true false).spdm.caps = true ∧ (agreed true true true).spdm.algs = true ∧
    (agreed true true true).failed = false ∧ ((State.reset.msg.data.getD 2 0#8).toNat % 16 ≤ 1) ∧
    (let s := { agreed true true true with msg := { Msg.none with data := [0x13, 0xE0, 0x01, 0x05] } }
     (s.msg.data.getD 3 0#8).toNat ≤ 5 ∧ (s.msg.data.getD 2 0#8).toNat % 2 = 1) ∧ (agreed true true false).spdm.algs = false :=
  ⟨by decide, by decide, reset_noneLogged 8, reset_noneLogged 9, reset_noneLogged 10, by decide, by decide, by decide, by decide, by decide, by decide,
    by decide, by decide, by decide, by decide, by decide, by decide⟩

/-- A whole line of the L2 that holds the doubles `xs` (each an IA and a value) and zeros. -/
def homeLine (xs : List (Nat × Nat)) (tag : Nat) : Line :=
  { Line.fresh tag 0 0 0 with
    data := ((xs.filter (fun x => x.1 / 128 == tag)).flatMap (fun x => (leBytes 8 x.2).zip (rangeFrom (x.1 % 128) 8))).foldl
      (fun m p => Tbl.put m p.2 p.1) ((List.range 128).map (fun o => (o, 0#8))) }

/-- The home L2 of die 0 holds the lines of these doubles of stack 0. -/
def homes (xs : List (Nat × Nat)) (s : State) : State :=
  s.modDie 0 (fun d => { d with l2 := ((xs.map (fun x => x.1 / 128)).eraseDups).map (homeLine xs) })

/-- A byte as the home L2 of stack 0 holds it. -/
def homeByte (s : State) (ia : Nat) : Byte := ((findLine (ia / 128) (s.die 0).l2).map (fun l => Tbl.getD l.data (ia % 128) 0)).getD 0

/-- An IA of region 0x1 of stack 0. -/
def ia1 (o : Nat) : Nat := 2 ^ 48 + o

/-- The capacity ring of a die is full. -/
def fullRing (die : Nat) (s : State) : State := s.modPower die (fun p => { p with captail := p.caphead + 1 })

/-- The host presents a transaction; the CXL.mem window of 2 MiB at 2^40 and the peers' window are mapped by one table to the first 2 MiB of region
0x1 of stack 0, and the L2 holds the table and the first line. -/
def opened (m : Msg) : State :=
  homes [(ia1 0x130000, 0x0001000000131001), (ia1 0x131000, 0x000100000000000F), (ia1 0x10, 0x99)]
    { State.reset.booted with
      msg := m, hdmBase := 2 ^ 40, hdmSize := 2 ^ 21, cmroot := BitVec.ofNat 64 (ia1 0x130000), piroot := BitVec.ofNat 64 (ia1 0x130000) }

def atWindow : Msg := { Msg.none with addr := 2 ^ 40 + 0x10, len := 8, data := [1, 2, 3, 4, 5, 6, 7, 8] }
def atPeer : Msg := { Msg.none with addr := 0x10, len := 8, op := 0, data := [1, 2, 3, 4, 5, 6, 7, 8], val := 5 }

theorem test_host_read : (ran .hostMemRead (opened atWindow)).outbox = [.hostData [0x99, 0, 0, 0, 0, 0, 0, 0] false] := by decide +kernel
theorem test_host_write : homeByte (ran .hostMemWrite (opened atWindow)) (ia1 0x17) = 8 := by decide +kernel
theorem test_peer_write : homeByte (ran .peerWrite (opened atPeer)) (ia1 0x11) = 2 := by decide +kernel
theorem test_peer_atomic : homeByte (ran .peerAtomic (opened atPeer)) (ia1 0x10) = 0x9E := by decide +kernel
/-- R455: the retry of an atomic is only answered. -/
theorem test_peer_retry : homeByte (ran .peerAtomic (ran .peerAtomic (opened atPeer))) (ia1 0x10) = 0x9E := by decide +kernel

/-- The window's bounds, and one of more than 512 GiB; the devices that refuse; a system register; vector 63. -/
theorem witness_HostEvents :
    (opened Msg.none).failed = false ∧ (opened Msg.none).cxlUp = true ∧ ((opened { Msg.none with addr := 2 ^ 40 - 1 }).msg.addr < 2 ^ 40) ∧
    (2 ^ 40 + 2 ^ 21 ≤ (opened { Msg.none with addr := 2 ^ 40 + 2 ^ 21 }).msg.addr) ∧ 2 ^ 39 < { opened atWindow with hdmSize := 2 ^ 39 + 1 }.hdmSize ∧
    { State.reset with tripped := true }.failed = true ∧
    (let s := opened { Msg.none with addr := 8 * 0x1000 }
     s.msg.op = 0 ∧ s.msg.addr = 8 * 0x1000 ∧ s.msg.write = false) ∧
    State.reset.booting = true ∧ cfgOp = { State.reset with msg := { Msg.none with op := 7 } }.msg.op ∧
    (let s := { State.reset with tripped := true, msg := { Msg.none with addr := 8 * 0x3018 } }
     s.tripped = true ∧ s.msg.op = 0 ∧ s.msg.write = false ∧ s.msg.addr = 8 * 0x3018) ∧
    (opened { Msg.none with src := 63 }).msg.src < 64 ∧
    (State.reset.booted.peerImport 0 false).isOk = false ∧ (State.reset.booted.peerImport 0 true).isOk = false ∧
    (let s := { State.reset.booted with peerDone := [(0, 0, .hostRetry)] }
     s.peerKnown = some .hostRetry ∧ s.failed = false ∧ State.reset.booted.peerKnown = none) ∧
    (let s := { State.reset with peerReqs := [⟨1, 5, 0, 0, 3, 0⟩] }
     s.peerReqs = [⟨1, 5, 0, 0, 3, 0⟩] ∧ s.clk < 0 + 18000 ∧ ({ s with clk := 18000 }).clk = 0 + 18000 ∧
     s.awaited ⟨1, 5, 0, 0, 3, 0⟩ = false ∧ s.awaited ⟨2 ^ 70, 5, 0, 0, 3, 0⟩ = true) ∧
    (State.reset.ports[7]?).isSome = true ∧ State.reset.tripped = false := by
  decide +kernel

theorem witness_HostEvents_memory :
    (match (opened atWindow).windowIa (2 ^ 40 + 0x10) false with
      | .ok (s1, ia) => (s1.iaRead ia 8 (8 / 16 + 2)).isOk
      | .error _ => false) = true ∧
    (match (opened atWindow).windowIa (2 ^ 40 + 0x10) true with
      | .ok (s1, ia) => (s1.iaWrite 0 ia atWindow.data (atWindow.data.length / 16 + 2)).isOk
      | .error _ => false) = true ∧
    (match (opened atPeer).peerImport 0x10 false with
      | .ok (s1, ia) => (s1.iaRead ia 8 (8 / 16 + 2)).isOk
      | .error _ => false) = true ∧
    (match (opened atPeer).peerImport 0x10 true with
      | .ok (s1, ia) => nbits ia 51 48 != 2 && (s1.iaWrite (dieOfStack (iaStack ia)) ia atPeer.data (atPeer.data.length / 16 + 2)).isOk
      | .error _ => false) = true ∧ (opened atPeer).peerKnown = none := by
  decide +kernel

/-- A peer's atomics on a double, on its low and on its high word, and one that is refused for its length. -/
theorem witness_HostEvents_atomic :
    (∀ h ∈ [0, 1, 2], let s := opened { atPeer with half := h }
      let n := if s.msg.half = 0 then 8 else 4
      (match s.peerImport (s.msg.addr + (s.msg.half - 1) * 4) true with
      | .ok (s1, ia) => nbits ia 51 48 != 2 && s.msg.addr % 8 == 0 && s.msg.len == 8 && decide (s.msg.half ≤ 2) && decide (s.msg.op ≤ 12) &&
        (s1.atomicHome (dieOfStack (iaStack ia)) ia n s.msg.op (s.msg.val.toNat % 2 ^ (8 * n)) (s.msg.cmp.toNat % 2 ^ (8 * n))).isOk
      | .error _ => false) = true) ∧
    (let s := opened { atPeer with len := 4 }
     (s.peerImport 0x10 true).isOk = true ∧ s.msg.len ≠ 8) := by
  decide +kernel

theorem witness_HostEvents_links :
    (let s := { State.reset with msg := { Msg.none with src := 5 }, peerReqs := [⟨1, 5, 0, 0, 3, 0⟩] }
     (⟨1, 5, 0, 0, 3, 0⟩ : PeerReq) ∈ s.peerReqs ∧ (⟨1, 5, 0, 0, 3, 0⟩ : PeerReq).part < 8) ∧
    (let s := fullRing 1 { State.reset.booted with msg := { Msg.none with src := 7 } }
     s.ringFull (s.msg.src / 4) ∧ (s.ports[7]?).map Port.spareUsed = some false) ∧
    (let s := fullRing 0 { State.reset.booted with ports := List.replicate 8 { Port.reset with spareUsed := true, lanes := 15 } }
     s.ringFull (s.msg.src / 4) ∧ (s.ports[0]?).map Port.spareUsed = some true) := by
  unfold State.ringFull
  decide

/-- The cc before a bound of the reset sequence; no acceptable image, where the floor is above the empty slots' versions. -/
theorem witness_HostEvents_boot :
    State.reset.booting = true ∧ State.reset.agenda = [] ∧ firstDue State.reset.clk State.reset.inbox = none ∧
    bootBounds.getD { State.reset with clk := 1799999 }.bootStep 0 ≤ { State.reset with clk := 1799999 }.clk + 1 ∧
    { State.reset with bootStep := 1, svnFloor := 1 }.firmware = none := by
  refine ⟨by decide, by decide, by decide, by decide, ?_⟩
  simp [State.firmware, State.accepts, State.reset, Image.empty]

/-- An image whose signature verifies under its key, at the floor. -/
theorem witness_HostEvents_image (i : Image) (h : Config.sm2Verify i.key (Config.sm3 i.rest) i.sig = true) :
    let s := { State.reset with bootStep := 1, slotA := i, keyDigest := Config.sm3 i.key, svnFloor := i.svn }
    s.firmware = some (0, i.svn) := by
  simp [State.firmware, State.accepts, h]

/-! ## Memory words at their homes -/

/-- `pend`, where the home L2 holds 5 at IA 0x100 and IA 0 to 2^24 - 1 are mapped at the same VA. -/
def pendH (o : MOp) (q : List SEntry) : State := homes [(0x100, 5)] (mapped (pend o q))

theorem test_load_home : Tbl.getD ((ran (.loadReturn 1 0 9) (pendH (op (.load 4 4 false)) [])).thr 1 0).v 4 0 = 5 := by decide +kernel
theorem test_atom_home : homeByte (ran (.loadReturn 1 0 9) (pendH (op (.atom 0 4 4 7 0)) [])) 0x100 = 12 := by decide +kernel
theorem test_cntadd_home : homeByte (ran (.loadReturn 1 0 9) (pendH (op (.cntadd 0x100)) [])) 0x101 = 1 := by decide +kernel
/-- Of the bytes of two stores the newest is taken. -/
theorem test_forward_newest : forwarded [sent false, { sent false with seq := 6, ia := 0x102, data := [9] }] false 0 0x100 4 9 =
    some (some ([1, 2, 9, 4], 6)) := by decide

/-- A load that takes all its bytes from the queue, one that some bytes of the queue match, one from the home. -/
theorem witness_LoadReturns_loads :
    ((forwarded [sent false] false 0 0x100 4 9).map Option.isSome = some true ∧ forwarded [sent false] false 0 0x100 8 9 = some none) ∧
    (∀ n ∈ [4, 8], (pendH (op (.load 4 n false)) [sent false]).braidLogged 0 1 0 = [] ∧ (pendH (op (.load 4 n false)) [sent false]).mopHeld 1 0 (op (.load 4 n false)) = false) ∧
    (let o := op (.load 4 4 false)
     let s := pendH o []
     (s.thr 1 0).mops = [o] ∧ s.isFarPeer o.ia = false ∧ s.mopHeld 1 0 o = false ∧ s.braidLogged 0 1 0 = [] ∧
     (match (s.modCore 0 (fun c => c.applyNotes o.dep)).coreLoad 0 o.ia 4 o.pol o.hint with
       | .ok (s1, bs, false, _) => decide (s1.threads = s.threads) && bs.length == 4
       | _ => false) = true) := by
  decide +kernel

/-- An atomic and CNTADD that may act. -/
theorem witness_LoadReturns_atomics :
    (let o := op (.atom 0 4 4 7 0)
     let s := pendH o []
     (s.thr 1 0).mops = [o] ∧ s.mopHeld 1 0 o = false ∧ s.atomRun 0 o = [(1, 0, o)] ∧ (s.core 0).l1d = [] ∧ o.scope < 2 ∧
     (let r := s.atomReady 0 1 0 o
      r.2 = true ∧ r.1.threads = s.threads ∧ r.1.isFarPeer o.ia = false ∧ (match r.1.atomicHome 0 o.ia 4 0 7 0 with
        | .ok (s1, _, false) => decide (s1.threads = s.threads)
        | _ => false) = true)) ∧
    (let o := op (.cntadd 0x100)
     let s := pendH o []
     (s.thr 1 0).mops = [o] ∧ s.mopHeld 1 0 o = false ∧ s.atomRun 0 o = [(1, 0, o)] ∧
     (let r := s.atomReady 0 1 0 o
      r.2 = true ∧ r.1.isFarPeer o.ia = false ∧ (match r.1.atomicHome 0 o.ia 8 0 0x100 0 with
        | .ok (s1, _, false) => (s1.thr 1 0).mops.map MOp.seq == [o.seq]
        | _ => false) = true)) := by
  decide +kernel

/-- A line of core 0 that holds IA 0x100 to 0x17F, with byte 3 dirty or none. -/
def l1Line (d : List Nat) : Line := { codeLine 2 with dirty := d, pol := 1 }
def flushing (d : List Nat) : State :=
  let s := pendH (op (.flush 0x80)) []
  s.modCore 0 (fun c => { c with l1d := [l1Line d] })

theorem test_flush_back : ((ran (.loadReturn 1 0 9) (flushing [3])).core 0).wstores.map (fun w => (w.ia, w.data)) = [(0x103, [0])] ∧
    ((ran (.loadReturn 1 0 9) (flushing [3])).core 0).l1d = [] := by decide +kernel

theorem witness_LoadReturns_flush :
    ∀ d ∈ [[], [3]], let o := op (.flush 0x80)
      let s := flushing d
      (s.thr 1 0).mops = [o] ∧ s.mopHeld 1 0 o = false ∧ o.posted = false ∧ (s.core 0).wstores = [] ∧
      (let pages := s.flushPages o.asid (o.va / 65536) ((o.va + 0x80 - 1) / 65536 - o.va / 65536 + 1)
       (s.core 0).l1d.filter (inFlush pages o.va 0x80) = [l1Line d] ∧ (d = [3] → dirtyRuns (sortBy id d) (l1Line d).data = [(3, [0])])) := by
  decide +kernel

/-- A register, a command register, and one that is under way or done. -/
theorem witness_LoadReturns_registers :
    (∀ n ∈ [0x1009, 0x1104], let o := op (.syswr n 7 false)
      (pendH o []).mopHeld 1 0 o = false ∧ ((pendH o []).release 0 1 0 o 4).2 = true ∧ (sysCommand n = true ↔ n = 0x1104)) ∧
    (let o := op (.syswr 0x1104 1 true)
     let s := (pendH o []).modPart 0 (fun p => { p with window := { p.window with busy := true } })
     s.mopHeld 1 0 o = false ∧ s.sysRead (.part (s.wgrp 1).part) 0x1104 = some 1 ∧ (pendH o []).sysRead (.part 0) 0x1104 ≠ some 1) := by
  decide +kernel

theorem witness_LoadReturns_fence : (let o := op (.fence 1)
    ∀ x ∈ (pend o []).threads, ∀ e ∈ x.2.mops, e.word = o.word → e.kind = o.kind → o.seq ≤ e.seq) := by decide

/-- A hit on a line that a core holds, a miss that the home serves, and an atomic at its home. -/
theorem witness_LoadReturns_lines :
    (let s := flushing []
     isRhizoid 0 = false ∧ isAlias 0x17F = false ∧ findLine (0x17F / 128) (s.core 0).l1d = some (l1Line []) ∧ (l1Line []).live (s.core 0) s.clk = true ∧
     ((l1Line []).bytesAt (0x17F % 128) 1).isSome = true) ∧
    (let s := pendH (op (.fence 1)) []
     nbits 0x17F 51 48 ≤ 1 ∧ dieOfStack (iaStack 0x17F) = dieOf 0 ∧ findLine (0x17F / 128) (s.core 0).l1d = none ∧ (s.core 0).wstores = [] ∧ 0x17F % 128 + 1 ≤ 128 ∧
     (match s.freshSeq.1.homeRead 0 (0x17F / 128 * 128) 64 0 with
       | .ok (s1, d1, _) => d1.length == 64 && (match s1.homeRead 0 (0x17F / 128 * 128 + 64) 64 0 with
         | .ok (_, d2, _) => d2.length == 64
         | .error _ => false)
       | .error _ => false) = true ∧
     (match s.homeRead 0 0x100 4 0 with
       | .ok (s1, bs, false) => (s1.homeAt 0 0x100 (leBytes 4 (atomicNew 0 32 (leVal bs) 7 0)) 0 0 false).isOk
       | _ => false) = true) := by
  decide +kernel

/-- A home line that is there, one that is fetched, a write-back, a reduction write and a write to the host. -/
theorem witness_HomeWrites_lines :
    (let s := pendH (op (.fence 1)) []
     nbits 0x13F 51 48 ≤ 1 ∧ 0 < [(7 : Byte)].length ∧ 0x13F % 64 + 1 ≤ 64 ∧ (s.l2Fetch 0x13F 0 0).isOk = true ∧
     (findLine (0x13F / 128) (s.die 0).l2).isSome = true ∧ (homeLine [(0x100, 5)] 2).holds (0x13F % 128 / 64) = true ∧
     Tbl.get? (homeLine [(0x100, 5)] 2).data (0x13F % 128) = some 0) ∧
    (let s := sends (gone (2 * 2 ^ 48 + 0x101000))
     (match s.resolveDev (2 ^ 48 + 0x40) true with | .ok (_, .dev 0 _) => true | _ => false) = true ∧
     (match s.resolve (2 * 2 ^ 48 + 0x101000) true with | .ok (_, .dev 0 _) => true | _ => false) = true ∧
     (s.l2Fetch (2 ^ 48 + 0x40) 0 0).isOk = true ∧ ([(0, 1), (63, 2)] : Tbl Byte).map Prod.fst = [0, 63]) ∧
    (let s := homes [(ia1 0x130000, 0x0001000000131001), (ia1 0x131000, 0x20000F)] { State.reset.booted with haroot := BitVec.ofNat 64 (ia1 0x130000) }
     (match s.resolve (4 * 2 ^ 48 + 0x100) true with | .ok (_, .host a) => a == 0x200100 | _ => false) = true) := by
  decide +kernel

/-! ## Records in memory -/

/-- A fault queue of two slots for domain 0 of partition 0, with TAIL `t` and HEAD 0; the home L2 holds its header and the ring. -/
def queueS (t : Nat) : State :=
  homes [(ia1 0x20000, 2 ^ 52 + ia1 0x30000), (ia1 0x20010, t), (ia1 0x30000, 0)]
    { State.reset.booted with parts := [(0, { Partition.reset with fqtab := BitVec.ofNat 64 (ia1 0x20000) })] }

/-- R405: cause and class of the record in slot 1, TAIL after it; of a full queue, LOST. -/
theorem test_record : (let s := (queueS 1).report 0 0 (Report.plain 3 0x66 7)
    (homeByte s (ia1 0x30040), homeByte s (ia1 0x30041), homeByte s (ia1 0x20010))) = (0x66, 3, 2) ∧
    homeByte ((queueS 2).report 0 0 (Report.plain 3 0x66 7)) (ia1 0x20018) = 1 := by decide +kernel

/-- A capacity ring of one slot. -/
def ringS : State :=
  homes [(ia1 0x40000, 0)] (State.reset.booted.modPower 0 (fun p => { p with capring := BitVec.ofNat 64 (ia1 0x40000) }))

/-- R480: kind 3 and unit 0; the CLK is the last double. -/
theorem test_capacity : (let s := State.capacity { ringS with clk := 9 } 0 0 3 2 5
    (homeByte s (ia1 0x40000), homeByte s (ia1 0x40001), homeByte s (ia1 0x40010), homeByte s (ia1 0x40018))) = (3, 0x20, 5, 9) := by decide +kernel

theorem witness_FaultEvents_records :
    (¬ ringS.ringFull 0 ∧ DevIa (ia1 0x40000) 32 ∧ (ringS.l2Fetch (ia1 0x40000) 0 0).isOk = true) ∧
    (∀ t ∈ [1, 2], ((queueS t).part 0).fqtab.toNat % 2 ^ 52 = ia1 0x20000 ∧ DevIa (ia1 0x20000) 32 ∧
      (match (queueS t).doubles (ia1 0x20000) 4 with
        | .ok (s1, [d0, _, d2, _]) => decide (d2 < 2 ^ 64) && (d2 % 2 ^ 32 + 2 ^ 32 - d2 / 2 ^ 32) % 2 ^ 32 == t && 2 ^ (d0 / 2 ^ 52 % 16) == 2 &&
          decide (d0 % 2 ^ 52 + 64 * 1 = ia1 0x30040) && (s1.l2Fetch (ia1 0x20018) 0 0).isOk &&
          (match s1.homeWrite 0 (ia1 0x30040) ((Report.plain 3 0x66 7).bytes 0 0 0) with
            | .ok s2 => s2.l2Has (ia1 0x20010)
            | .error _ => false)
        | _ => false) = true) ∧
    (DevIa (ia1 0x30040) 64 ∧ ia1 0x30040 / 64 ≠ ia1 0x20000 / 64) ∧
    (let s := homes [(0x1000, 0)] (mapped State.reset.booted)
     (s.translate 0 0x1000 .write).toOption = some (0x1000, 0) ∧ iaOk 0x1000 = true ∧ DevIa 0x1000 64 ∧ (s.l2Fetch 0x1000 0 0).isOk = true) ∧
    (launchOf 4 0 0 0 0 0 0 []).nfatal < 2 ^ 32 ∧
    (let r := Report.plain 3 0x66 7
     r.cause < 2 ^ 8 ∧ r.cls < 4 ∧ r.asid < 2 ^ 12 ∧ r.core < 2 ^ 10) := by
  unfold State.ringFull DevIa
  decide +kernel

/-- A row of a stack that has spare rows. -/
theorem witness_FaultEvents_rows (h : 0 < Config.spareRows 3) :
    ¬ 5 ∈ (State.reset.stack 3).retired ∧ Tbl.getD (State.reset.stack 3).rowsUsed (5 / 2 ^ 20) 0 < Config.spareRows 3 ∧ (fullRing 0 State.reset).ringFull (dieOfStack 3) :=
  ⟨by decide, by simpa [State.stack, State.reset, Stack.reset, Tbl.getD, Tbl.get?] using h, by unfold State.ringFull; decide⟩

theorem witness_FaultEvents_more :
    (OneWg endedS 1 endedWg ∧ endedS.noQueue 0) ∧
    (absentS.findAccess 9 = some (1, 0, 0x100, false) ∧ (absentS.absentAt 0 0x100 false).isSome = true) ∧
    (let s := fullRing 0 { State.reset with clusters := [(5, { Cluster.reset 5 with replace := true })] }
     (s.cluster 5).replace = true ∧ s.clusterFree 5 = true ∧ s.ringFull (dieOfCluster 5) ∧ 0 < (s.die (dieOfCluster 5)).power.spares.toNat % 4) ∧
    (let s := (fullRing 0 { State.reset with clusters := [(5, { Cluster.reset 5 with replace := true })] }).modPower 0 (fun p => { p with spares := 0xF0#32 })
     s.ringFull (dieOfCluster 5) ∧ (s.die (dieOfCluster 5)).power.spares.toNat % 4 = 0) := by
  refine ⟨⟨endedS_one _ (by decide), by unfold State.noQueue; decide⟩, by decide, ?_, ?_⟩ <;> unfold State.ringFull <;> decide

/-! ## Copies, splices, near memory, scheduling and graphs -/

/-- VA 0 to 2^24 - 1 of address space 0 is region 0x1 of stack 0; the stack's table maps its first 2 MiB to SPA 0. -/
def homed (s : State) : State :=
  { s with
    ranges := [(0, BitVec.ofNat 192 (7 + 0xFF * 2 ^ 64 + 2 ^ 176))], stackTbl := [(0, { Stack.reset with stroot := 0x100000#64 })],
    dram := [(0x10000, 0xAA), (0x101000, 0x0F), (0x120000, 0x01), (0x120001, 0x10), (0x120002, 0x10)] }

/-- A request of one row at its first sample pass; the L2 holds the row. -/
def sampling : State := homes [(ia1 0, 0)] (homed (engine (smxReq 2) { cl0 with granted := some 3 }))

theorem sampling_draws : (rangeFrom (192 * (smxReq 2).pos) 192).map (drawIndex (sampling.cluster 0) (smxReq 2).smxSeed (smxReq 2).q (smxReq 2).smxK) =
    0 :: List.replicate 191 0 := by
  decide +kernel

/-- A request of `k` rows at its norm pass; the L2 holds the row. -/
def normR (k : Word) : EReq := { smxReq 0 with regs := [0, 0, 0, k, 0, 0, 0] }
def normS (k : Word) : State := homes [(ia1 0, 0)] (homed (engine (normR k) { cl0 with granted := some 3 }))

/-- The pass reads the rows and leaves the request. -/
def normReads (k : Word) : Bool :=
  match ((normS k).modCluster 0 (fun x => { x with granted := none, smx := some 3 })).kRows (normR k)
      ((rangeFrom (192 * (normR k).pos) 192).filter (fun j => decide (j < (normR k).smxK))) with
  | .ok (s2, rows, _) => rows.length == k.toNat && (Tbl.get? s2.reqs 3).isSome
  | .error _ => false

theorem witness_MatrixEvents_norm : (((normS 0).cluster 0).granted = some 3 ∧ (normS 0).req 3 = some (normR 0) ∧ normReads 0 = true) ∧
    (((normS 1).cluster 0).granted = some 3 ∧ (normS 1).req 3 = some (normR 1) ∧ normReads 1 = true) ∧
    (normR 1).op = .smx ∧ (normR 1).phase = 0 ∧ (normR 1).smxK = 1 :=
  ⟨⟨by decide, by decide, by decide +kernel⟩, ⟨by decide, by decide, by decide +kernel⟩, rfl, rfl, by decide⟩

/-- No test stops the first pass. -/
theorem witness_MatrixEvents_sample :
    ((sampling.cluster 0).granted = some 3 ∧ sampling.req 3 = some (smxReq 2) ∧ (smxReq 2).op = .smx ∧ (smxReq 2).phase = 2) ∧
    (∃ x, (sampling.modCluster 0 (fun x => { x with granted := none })).kRows (smxReq 2) ((rangeFrom (192 * (smxReq 2).pos) 192).map
      (drawIndex (sampling.cluster 0) (smxReq 2).smxSeed (smxReq 2).q (smxReq 2).smxK)).eraseDups = .ok x) ∧
    (∀ t v, stops t (0 + 1) (smxReq 2).smxMax (smxReq 2).smxTau v = false) := by
  refine ⟨by decide +kernel, ?_, fun t v => by simp [stops]⟩
  rw [sampling_draws, List.eraseDups_cons, show (List.replicate 191 0).filter (fun b => !b == 0) = [] by decide, List.eraseDups_nil]
  exact okay (by decide +kernel)

/-- CPLIN of `n` bytes from VA 0x10000 to VA 0x30000. -/
def linReq (n : Word) : EReq := { req0 .cplin with regs := [0x10000, 0, 0x30000, 0, n, 0, 0, 0, 0, 0] }
def copying (r : EReq) : State :=
  homed (engine r { cl0 with copyQ := List.replicate 8 [.req 3] })

theorem test_copy_chunk : homeByte (ran (.copyChunk 0 2) (copying (linReq 16))) (ia1 0x30000) = 0xAA := by
  decide +kernel
theorem test_copy_begin : (Tbl.vals (ran (.copyBegin 0 2) (copying { linReq 65537 with begun := false })).reqs).map EReq.leave = [1] := by
  decide +kernel
theorem test_copy_complete : (ran (.copyComplete 0 2) (copying { linReq 16 with phase := 1 })).reqs = [] := by
  decide +kernel

/-- A splice of die 0, queue 2. -/
def splicing (r : EReq) : State :=
  homed { idle (lane 0 [] 1) with clk := 9, reqs := [(3, r)], dies := [(0, { Die.reset with spliceQ := List.replicate 4 [.req 3] })] }

/-- A plan record of one token with one choice of expert 0, at capacity 1: inputs at VA 0x40000, outputs at 0x50000. -/
def planRecs (inv : Nat) : List (List Nat) := [[0x60000, 0x70000, 0x80000, 0x90000, 0xA0000, 1, 1, 0], [0x40000, 0x50000, 0, 0], [0x3F800000], [inv]]

def planReq : EReq := { req0 .rtplan with regs := [0x20000, 0, 0, 0, 0, 0, 0, 0, 0, 0], recs := planRecs 0 }
def scatReq (inv : Nat) : EReq := { req0 .rtscat with regs := [0x20000, 0, 0x10000, 0, 16, 0, 0, 0, 0, 0], recs := planRecs inv }
def combReq : EReq := { req0 .rtcomb with regs := [0x20000, 0, 0x30000, 0, 1, 1, 0, 0, 0, 0], recs := planRecs (2 ^ 63) }

theorem test_plan_place : (planReq.planAt 1).inv = [(0, inverseEntry false 0 0 0)] := by
  decide +kernel

/-- A linear copy of `n` bytes that has not begun. -/
def linNew (n : Word) : EReq := { linReq n with begun := false }

theorem witness_CopySpliceEvents_empty :
    (copying (linNew 0)).settleFences ⟨0, 0, 2⟩ 16 = copying (linNew 0) ∧ (copying (linNew 0)).headReq ⟨0, 0, 2⟩ = some (linNew 0) ∧
    (copying (linNew 0)).mayBegin (linNew 0) = true ∧ (linNew 0).w 4 = 0 := by
  decide +kernel

theorem witness_CopySpliceEvents_begin :
    (copying (linNew 65537)).settleFences ⟨0, 0, 2⟩ 16 = copying (linNew 65537) ∧ (copying (linNew 65537)).headReq ⟨0, 0, 2⟩ = some (linNew 65537) ∧
    (copying (linNew 65537)).mayBegin (linNew 65537) = true ∧ (linNew 65537).w 4 ≠ 0 ∧ nbits (linNew 65537).ctl 26 24 ≤ 5 ∧
    nbits (linNew 65537).ctl 23 0 = 0 ∧ nbits (linNew 65537).ctl 31 27 = 0 ∧ (linNew 65537).counter.va = 0 := by
  decide +kernel

theorem witness_CopySpliceEvents_chunk :
    (copying (linReq 16)).headReq ⟨0, 0, 2⟩ = some (linReq 16) ∧ (linReq 16).running = true ∧ (linReq 16).phase = 0 ∧ (linReq 16).pos = 0 ∧
    (match (copying (linReq 16)).reqRead (linReq 16) ((linReq 16).pair 0) ((linReq 16).w 4) with
      | .ok (s1, d) => d.length == 16 && (s1.reqWrite (linReq 16) ((linReq 16).pair 2) (d.take 4096)).2.isNone
      | .error _ => false) = true := by
  decide +kernel

theorem witness_CopySpliceEvents_complete :
    (let r := { linReq 16 with phase := 1 }
     (copying r).headReq ⟨0, 0, 2⟩ = some r ∧ r.running = true ∧ (copying r).portsFree r = true ∧ r.counter.va = 0) := by
  decide +kernel

theorem witness_CopySpliceEvents_splice :
    (let r := { planReq with begun := false, regs := [0x20000, 0, 0, 0, 5, 0, 0, 0, 0, 0] }
     (splicing r).settleFences ⟨1, 0, 2⟩ 16 = splicing r ∧ (splicing r).spliceHead 0 2 .rtplan = some r ∧ (splicing r).mayBegin r = true ∧
     (offenceInfo r.spliceOffences).isSome = true) ∧
    ((splicing planReq).spliceHead 0 2 .rtplan = some planReq ∧ planReq.running = true ∧ planReq.phase = 0 ∧ planReq.pos < planReq.ntok * planReq.topk ∧
      ((splicing planReq).reqWrites planReq (planReq.placeWrites 0)).2.isNone = true) ∧
    (let r := { planReq with pos := 1 }
     (splicing r).spliceHead 0 2 .rtplan = some r ∧ r.running = true ∧ r.ntok * r.topk ≤ r.pos ∧ ((splicing r).reqWrites r r.endWrites).2.isNone = true) ∧
    (let r := scatReq (2 ^ 63)
     (splicing r).settleFences ⟨1, 0, 2⟩ 16 = splicing r ∧ (splicing r).spliceHead 0 2 .rtscat = some r ∧ r.nextPlaced r.pos (r.ntok * r.topk - r.pos) = some 0 ∧
     r.entryOk (r.planPlace 0) = true ∧
     (match (splicing r).reqRead r (r.pair 2 + 0 % r.ntok * r.w 4) (r.w 4) with
      | .ok (s1, d) => d.length == 16 && (s1.reqWrite r (r.emap 0 0) d).2.isNone
      | .error _ => false) = true) ∧
    ((scatReq (2 ^ 63 + 1)).nextPlaced 0 1 = some 0 ∧ (scatReq (2 ^ 63 + 1)).entryOk ((scatReq (2 ^ 63 + 1)).planPlace 0) = false) ∧
    (let r := combReq
     (splicing r).spliceHead 0 2 .rtcomb = some r ∧ ((List.range r.topk).map (fun k => r.pos * r.topk + k)).filter (fun i => isPlaced (r.inverse i)) = [0] ∧
     r.entryOk 0 = true ∧
     (match (splicing r).outRow r 0 with
      | .ok (s1, _) => (s1.reqWrite r (r.pair 2) [(0, false), (0, false), (0, false), (0, false)]).2.isNone
      | .error _ => false) = true) ∧
    (let r := { combReq with phase := 1 }
     (splicing r).headReq ⟨1, 0, 2⟩ = some r ∧ (splicing r).portsFree r = true ∧ r.counter.va = 0) := by
  decide +kernel

/-- A call of 16 threads to stack 0, with no ranges, no message and no counter, on a stack with an entry table at SPA 0 and a frame area of 64 KiB
at SPA 0x10000; the descriptor of entry 0 asks for 8 registers and a frame of 4 KiB at ENTRYPC 0. -/
def callRec : List Nat := [0, 0, 0, 15 + 4 * 2 ^ 40] ++ List.replicate 52 0
def callReq : EReq := { req0 .nmcall with regs := [0x20000, 0, 0, 0, 0, 0, 0, 0, 0, 0] }
def calling : State :=
  { idle (lane 0 [] 1) with
    clk := 9, nextId := 5, reqs := [(3, callReq)], dram := [(12, 1), (13, 1)],
    stackTbl := [(0, { Stack.reset with nmcode := BitVec.ofNat 64 (2 * 2 ^ 48), nmframe := BitVec.ofNat 64 (16 * 2 ^ 44 + 0x10000), calls := [⟨3, 0, callRec⟩] })] }

theorem test_call_dispatch : (ran (.callDispatch 0) calling).threads.length = 17 ∧ ((ran (.callDispatch 0) calling).stack 0).frames.map Prod.fst = [0x10000] := by
  decide +kernel

/-- The block that the call becomes. -/
def blockS : State := ran (.callDispatch 0) calling
def blockDone (w : Nat) : State := { blockS with threads := blockS.threads.map (fun p => if p.2.wg == w then (p.1, { p.2 with exited := true }) else p) }

/-- A bank command of one thread of workgroup 1 on pseudo-channel 0, and stack 0 with it at the head of its sequencer. -/
def bankCmd (opc : Nat) (clr : Bool) : BankCmd :=
  { seq := 2, wg := 1, t := 0, pc := 0, va := 0, ia := 0, cmd := cmdWord opc 0 (b1 clr) 0 0 0 1 2 3, row := 0, bcast := [(1, 7)],
    dests := if opc = 3 then [(0, 0, 9)] else [], raw := 0, arr := 0, lseq := 0 }
def sequenced (b : BankCmd) : State :=
  { idle { lane 0 [] 1 with busy := [(9, none)] } with stackTbl := [(0, { Stack.reset with seqQ := [(0, [b])] })] }
def waving (b : BankCmd) : State :=
  { idle (lane 0 [] 1) with stackTbl := [(0, { Stack.reset with allQ := [b], leaveGiven := true, waveSize := 256, allWave := 2816 })] }

abbrev SeqOk (b : BankCmd) (o : Nat) : Prop :=
  let s := sequenced b
  Tbl.getD (s.stack 0).seqQ b.pch [] = [b] ∧ b.pch < 192 ∧ s.cmdHeld b = false ∧ (s.stack 0).waveBefore b.pch b.arr = false ∧
    s.tripped = false ∧ s.cmdPoison 0 b = false ∧ b.opc = o
abbrev WaveOk (b : BankCmd) (o : Nat) : Prop :=
  let s := waving b
  (s.stack 0).allQ = [b] ∧ (s.stack 0).leaveGiven = true ∧ s.tripped = false ∧ s.cmdHeld b = false ∧
    (∀ p ∈ rangeFrom ((s.stack 0).allWave / 16) ((s.stack 0).waveSize / 16), ∀ c ∈ Tbl.getD (s.stack 0).seqQ p [], b.arr ≤ c.arr) ∧
    s.wavePoison 0 (s.stack 0).allWave (s.stack 0).waveSize b = false ∧ b.opc = o ∧ 3072 ≤ (s.stack 0).allWave + (s.stack 0).waveSize

theorem test_bank_bcst : ((ran (.bankCommandExecute 0 0) (sequenced (bankCmd 2 false))).stack 0).bcast = [(1, 7)] := by decide +kernel

/-- Microcode kernels over one row. -/
def kern (k done : Nat) : Kernel := ⟨k, 0x800, 0, 2048, done, 0, 0⟩
def kernels (x : Kernel) : State :=
  { State.reset with dram := [(5, 0xAA), (0x805, 0xBB)], stackTbl := [(0, { Stack.reset with kernels := [x] })] }

theorem test_kernel_copy : (ran (.microcodeRowStep 0) (kernels (kern 2 0))).dram = [(5, 0xBB), (0x805, 0xBB)] := by decide +kernel
theorem test_kernel_zero : (ran (.microcodeRowStep 0) (kernels (kern 3 0))).dram = [(0x805, 0xBB)] := by decide +kernel

/-- An argument block of a zero kernel of one row at SPA 0 of stack 0. -/
def argBlock (k : Byte) : State := { State.reset with dram := [(0, k), (33, 0x08)] }

theorem witness_NearMemoryEvents_call :
    ((calling.stack 0).calls = [⟨3, 0, callRec⟩] ∧ calling.req 3 = some callReq ∧ calling.tripped = false ∧ callStack callRec = 0 ∧
      calling.callCheck callReq.asid callRec = true ∧ (∀ x ∈ callRec, x < 2 ^ 64) ∧
      calling.frameRoom 0 (descFrame (calling.callDesc callRec)) = some 0x10000 ∧
      (∀ p, p < 48 → (calling.rhizoidRoom 0 p (callThreads callRec) (descRegs (calling.callDesc callRec))).isSome = true)) := by
  decide +kernel

theorem witness_NearMemoryEvents_block :
    (let w := calling.nextId
     let g := (blockDone w).wgrp w
     (Tbl.get? (blockDone w).wgs w).isSome = true ∧ g.id = w ∧ g.stack = some 0 ∧ (blockDone w).blockIdle g 0 = true ∧ g.retired = false ∧ (blockDone w).blockAdd w = false ∧ g.ended = none ∧ callField g.call 6 56 0 = 0) := by
  decide +kernel

theorem witness_NearMemoryEvents_commands :
    (SeqOk (bankCmd 1 true) 1 ∧ SeqOk (bankCmd 2 false) 2 ∧ (SeqOk (bankCmd 3 true) 3 ∧ (bankCmd 3 true).dests = [(0, 0, 9)] ∧ (bankCmd 3 true).clr = true ∧
       (Tbl.get? (sequenced (bankCmd 3 true)).threads (tkey 1 0)).isSome = true ∧ Tbl.get? ((sequenced (bankCmd 3 true)).thr 1 0).busy 9 = some none ∧ ((sequenced (bankCmd 3 true)).thr 1 0).covered = [] ∧
       ((sequenced (bankCmd 3 true)).thr 1 0).mops = []) ∧
       SeqOk (bankCmd 4 false) 4) := by
  decide +kernel

theorem witness_NearMemoryEvents_waves :
    (WaveOk (bankCmd 1 true) 1 ∧ WaveOk (bankCmd 2 false) 2) := by
  decide +kernel

theorem witness_NearMemoryEvents_kicks :
    (kicks (.nmkickZero .host 0 (spaIa 0 0)) = some (3, 0, spaIa 0 0) ∧
      (match (argBlock 3).doubles (spaIa 0 0) 8 with | .ok (_, d) => (kernelOf d).kern == 3 && (kernelOf d).ok d | .error _ => false) = true ∧
      (match (argBlock 2).doubles (spaIa 0 0) 8 with | .ok (_, d) => (kernelOf d).kern == 3 | .error _ => true) = false) := by
  decide +kernel

theorem witness_NearMemoryEvents_rows :
    (((kernels (kern 1 0)).stack 0).kernels = [kern 1 0] ∧ ((kernels (kern 2 0)).stack 0).kernels = [kern 2 0] ∧
      ((kernels (kern 3 0)).stack 0).kernels = [kern 3 0] ∧ (kern 1 0).done < (kern 1 0).len ∧ (kernels (kern 1 0)).tripped = false) := by
  decide +kernel

theorem witness_NearMemoryEvents_ends :
    (((kernels (kern 1 2048)).stack 0).kernels = [kern 1 2048] ∧ (kern 1 2048).len ≤ (kern 1 2048).done ∧ (kern 1 2048).cnt = 0) := by
  decide +kernel

theorem witness_NearMemoryEvents_stinv :
    ((sequenced { bankCmd 1 true with seq := 0 }).bankBefore 0 (sequenced { bankCmd 1 true with seq := 0 }).seq none = true ∧
      State.reset.bankBefore 0 State.reset.seq none = false ∧ Tbl.getD (State.reset.stack 0).seqQ heldKey [] = []) := by
  decide +kernel



/-- Partitions 0 and 1; the others have no period. -/
def parts (p q : Partition) : Tbl Partition := [(0, p), (1, q)] ++ (rangeFrom 2 6).map (fun i => (i, { Partition.reset with bperiod := 0 }))
def quietP : Partition := { Partition.reset with bperiod := 0 }
/-- A resident partition with core 0. -/
def onCore : Partition := { quietP with resident := true, cmask := [1, 0, 0], rootRcb := 0x40 }

/-- Byte `i` of the double at `a`, for the bytes that are not zero. -/
def dbl (a : Nat) (v : Nat) : List (Nat × Byte) := ((List.range 8).map (fun i => (a + i, BitVec.ofNat 8 (v / 2 ^ (8 * i))))).filter (fun p => p.2 != 0#8)

/-- Device memory: pages 0 (SPA 0), 1 (SPA 2^22) and 3 (SPA 2^21) of region 0x1 of stack 0 are resident and page 2 is evicted to page 1 of an
eviction pool at host aperture 0; then the doubles `xs`. -/
def ram (xs : List (Nat × Nat)) : Mem :=
  (sortBy (fun (x : Nat × Nat) => x.1) (xs ++ [(0x101000, 0x0F), (0x101008, 0x40000F), (0x101010, 0x200012), (0x101018, 0x20000F), (0x120000, 0x101001)])).flatMap
    (fun x => dbl x.1 x.2)

/-- A leaf whose queue is at SPA 0x40000 with one launch in its ring at IA `ia1 0x50000`. -/
def leaf0 : Rcb := ⟨0, [0], true, spaIa 0 0x40000, 0, 0, 0, 0, 0, 0, 100⟩
/-- R65, R66: the queue and a record of one workgroup of 8 threads in one braid, with `n` ranges at VA 0x60000. -/
def queueRam (n : Nat) : List (Nat × Nat) :=
  [(0x40000, ia1 0x50000), (0x40008, 1), (0x40010, 5), (0x50008, 7), (0x50010, 0x100010001), (0x50030, n * 2 ^ 57 + (if n = 0 then 0 else 0x60000))]

def sched (p q : Partition) (xs : List (Nat × Nat)) : State :=
  { State.reset with
    parts := parts p q, stackTbl := [(0, { Stack.reset with stroot := 0x100000#64 })], dram := ram xs,
    ranges := [(0, BitVec.ofNat 192 (7 + 0xFF * 2 ^ 64 + 2 ^ 176))] }

def dispS : State := sched { onCore with tree := [leaf0] } quietP (queueRam 0)
def disp1 : State := (dispS.heads 0).1
def head1 : Rcb × Launch := (dispS.heads 0).2.headD (leaf0, launchOf 0 0 0 0 0 0 0 [])

theorem test_dispatch : (ran .dispatchStep dispS).threads.length = 8 ∧ (ran .dispatchStep dispS).braids.length = 1 := by decide +kernel

theorem witness_SchedulingEvents_dispatch :
    dispS.tripped = false ∧ dispS.residents = [0] ∧ (dispS.part 0).cores = [0] ∧ 0 / 96 = dispS.clk / 4 % 2 ∧ dispS.heads 0 = (disp1, [head1]) ∧
    (disp1.part 0).leaves = [head1.1] ∧ 0 < (disp1.leafHdr head1.1.queue).deficit ∧ head1.2.csize = 1 ∧ (disp1.fitsOn 0 head1.2).isSome = true ∧
    (disp1.die (dieOf 0)).power.lowHeadroom = false ∧ disp1.launches = [] ∧ head1.2.threads = 8 := by
  decide +kernel

def launch0 (status total retired : Nat) : Launch :=
  { launchOf 4 0 0 0 0 0 0 [0, 0, 0, 0, 0, 0, 0, status] with total := total, retired := retired, allOut := true }
def exitedS : State :=
  { idle { lane 0 [] 1 with exited := true } with
    launches := [(4, launch0 0 1 0)], wgs := [(1, { loadedWg 0 none with launch := 4, t := 1 })],
    clusters := [(0, { Cluster.reset 0 with tiles := List.replicate 8 { Tile.reset with claim := some [1] } })] }

theorem test_retire : ((ran (.workgroupRetire 1) exitedS).tile 0 3).claim = none := by decide +kernel

theorem witness_SchedulingEvents_retire :
    exitedS.wgs = [(1, { loadedWg 0 none with launch := 4, t := 1 })] ∧ { loadedWg 0 none with launch := 4, t := 1 }.id = 1 ∧
    { loadedWg 0 none with launch := 4, t := 1 }.stack = none ∧ { loadedWg 0 none with launch := 4, t := 1 }.csize ≤ 1 ∧
    exitedS.retirable 1 = true ∧ (exitedS.part { loadedWg 0 none with launch := 4, t := 1 }.part).tree = [] ∧
    (∀ p ∈ exitedS.braids, p.2.wg = 1 → p.2.fmask = 0#64 ∧ p.2.storeQ = []) ∧ (∀ p ∈ exitedS.threads, p.2.wg = 1 → p.2.mops = []) ∧ exitedS.reqs = [] ∧
    Tbl.get? exitedS.launches 4 = some (launch0 0 1 0) ∧ (launch0 0 1 0).id = 4 ∧ (launch0 0 1 0).allOut = true ∧
    (launch0 0 1 0).total ≤ (launch0 0 1 0).retired + 1 ∧ (exitedS.tile 0 7).claim = some [1] := by
  decide +kernel

def endedL (status : Nat) : State := { sched quietP quietP [] with launches := [(4, launch0 status 1 1)] }

theorem witness_SchedulingEvents_complete :
    (∀ x ∈ [0, 0x30000], Tbl.vals (endedL x).launches = [launch0 x 1 1] ∧ (launch0 x 1 1).allOut = true ∧ (launch0 x 1 1).total ≤ (launch0 x 1 1).retired ∧
      (launch0 x 1 1).killed = false ∧ (launch0 x 1 1).cntVa = 0 ∧ (launch0 x 1 1).firstFatal = none ∧ (∀ p ∈ (endedL x).parts, p.2.graphs = [])) ∧
    (launch0 0 1 1).statusVa = 0 ∧ (launch0 0x30000 1 1).statusVa ≠ 0 := by
  decide +kernel

/-- The root of a tree of one RCB, with nothing below it. -/
def root0 : Rcb := ⟨0x40, [0x40], false, 0, 0, 0, 0, 0, 0, 1, 1⟩
/-- The RCB of `root0` at SPA 0x40, which has used 7 units; region 0x0 is mapped as region 0x1 is. -/
def rootRam : List (Nat × Nat) := [(0x68, 63 * 2 ^ 48 + 1), (0x70, 0x1000), (0x78, 7), (0x100000, 0x101001)]
def periodS : State := homes (rootRam.take 3) (sched { quietP with bperiod := 1, rootRcb := 0x40 } quietP rootRam)

theorem witness_SchedulingEvents_period :
    (∀ q, q < 8 → q ≠ 0 → (periodS.part q).bperiod = 0#32) ∧ (periodS.part 0).bperiod ≠ 0#32 ∧
    periodS.clk % ((periodS.part 0).bperiod.toNat * Config.ccPerUs) = 0 ∧ (periodS.readTree 0).nodes = [root0.ia] ∧ (periodS.readTree 0).tree = [root0] ∧ root0.ia % 64 = 0 ∧ root0.ia < 2 ^ 48 ∧
    (match periodS.resolve (root0.ia + 56) true with | .ok (_, .dev _ _) => true | _ => false) = true := by
  decide +kernel

/-- A workgroup of partition `p`. -/
def wgOf (p : Nat) : Tbl Workgroup := [(1, { loadedWg 0 none with part := p })]
/-- Partition 0 at the end of its slice; partition 1 wants the core too where `w` is its workgroup. -/
def sliceS (w : Tbl Workgroup) : State :=
  { sched onCore { quietP with cmask := [1, 0, 0], rootRcb := 0x40 } [] with wgs := w }

theorem test_slice : ((ran .timeSliceEnd (sliceS (wgOf 1))).part 0).halting = true ∧ ((ran .timeSliceEnd (sliceS [])).part 0).halting = false := by decide +kernel

theorem witness_SchedulingEvents_slice :
    (∀ q, q < 8 → q ≠ 0 → ((sliceS (wgOf 1)).part q).resident = false) ∧ ((sliceS (wgOf 1)).part 0).resident = true ∧ ((sliceS (wgOf 1)).part 0).halting = false ∧
    ((sliceS (wgOf 1)).part 0).swapAt = none ∧ ((sliceS (wgOf 1)).part 0).tslice ≠ 0#32 ∧ ((sliceS (wgOf 1)).part 0).sliceEnd ≤ (sliceS (wgOf 1)).clk ∧
    (sliceS (wgOf 1)).waiting.any (fun q => (sliceS (wgOf 1)).shareCore 0 q && (sliceS (wgOf 1)).partPrio q == (sliceS (wgOf 1)).partPrio 0) = true ∧
    (∀ q, q < 8 → q ≠ 0 → ((sliceS []).part q).resident = false) ∧ ((sliceS []).part 0).sliceEnd ≤ (sliceS []).clk ∧
    (sliceS []).waiting.any (fun q => (sliceS []).shareCore 0 q && (sliceS []).partPrio q == (sliceS []).partPrio 0) = false := by
  decide +kernel

/-- A halted partition with a workgroup that has nothing pending. -/
def haltS : State := { sched { onCore with halting := true } quietP [] with wgs := wgOf 0, threads := [(tkey 1 0, lane 0 [] 1)] }
/-- No partition is resident, and partition 1 has a workgroup; `sv` where its context is saved. -/
def freeS (sv : Bool) : State := { sched quietP { quietP with cmask := [1, 0, 0], rootRcb := 0x40, saved := sv } [] with wgs := wgOf 1 }

theorem witness_SchedulingEvents_swap :
    (∀ q, q < 8 → q ≠ 0 → ((sliceS []).part q).resident = false) ∧ (sliceS []).hasWork 0 = false ∧ (sliceS []).saveArea 0 = 0 ∧
    ((sliceS []).leaveCores 0).waiting = [] ∧
    (∀ q, q < 8 → q ≠ 0 → (haltS.part q).resident = false) ∧ (haltS.part 0).resident = true ∧ (haltS.part 0).swapAt = none ∧
    (haltS.part 0).halting = true ∧ haltS.quiet 0 = true ∧ haltS.hasWg 0 = true ∧ (haltS.saveContext 0).waiting = [] ∧
    (∀ q, q < 8 → ((freeS true).part q).resident = false) ∧ (freeS true).waiting = [1] ∧
    (∀ q, q < 8 → ((freeS false).part q).resident = false) ∧ (freeS false).waiting = [1] := by
  decide +kernel

def backS : State := { sched { onCore with saved := true, swapAt := some 0 } quietP [] with wgs := [(1, { loadedWg 0 none with swapped := true })] }

theorem witness_SchedulingEvents_restore :
    (∀ q, q < 8 → q ≠ 0 → (backS.part q).swapAt = none) ∧ (backS.part 0).swapAt = some 0 ∧ 0 ≤ backS.clk ∧ (backS.part 0).resident = true ∧
    (backS.part 0).saved = true ∧ (backS.part 0).halting = false := by
  decide +kernel

/-- A launch whose one range lies in page 2, which is evicted; page 3 lies in a range of an earlier launch. `n` device pages are free. -/
def evictS (n : Nat) : State :=
  sched { onCore with tree := [leaf0], seen := [(0, 0x600000, 1)], saveArea := BitVec.ofNat 64 (ia1 0x10000) } quietP
    (queueRam 1 ++ [(0x60000, 0x400000), (0x60008, 1), (0x10220, 0), (0x10228, 2), (0x10230, ia1 0x20000), (0x10238, n), (0x20000, 5 * 2 ^ 21), (0x460000, 2)])

def evictL : Launch := ((evictS 0).evictedHeads 0).headD (launch0 0 0 0, []) |>.1

/-- The leaf of the evicted page. -/
def backX : Leaf := ⟨0, 0x101010, 0x200012, 2 ^ 44 + 0x400000, true⟩

theorem witness_SchedulingEvents_evict :
    (∀ p, p < 8 → (sliceS []).evictedHeads p = []) ∧
    (evictS 0).evictedHeads 0 = [(evictL, [(0, 1)])] ∧ (evictS 0).shortStack 0 [(0, 1)] = some 0 ∧
    (evictS 0).victimPage 0 0 (((evictS 0).launchRanges evictL).map (fun x => ⟨evictL.asid, x.1, x.2, 0, 0⟩)) = some 1 ∧
    (evictS 0).poolFree 0 0 ((evictS 0).pool 0).pages = some 0 ∧ (evictS 0).bankBefore 0 (evictS 0).seq none = false ∧ ((evictS 0).stack 0).inv = none ∧
    (evictS 1).wanted = [⟨0, 1, some evictL⟩] ∧ (evictS 1).poolOwner 1 = some 0 ∧ backX ∈ (evictS 1).leaves 0 ∧ nbit backX.entry 0 = false ∧
    nbit backX.entry 4 = true ∧ backX.page = 1 ∧ ((evictS 1).freePages 0).find? (fun f => f.2.1 == 0) = some (0, 0, 5) := by
  decide +kernel

def killS (w : Tbl Workgroup) : State := { sched { onCore with tree := [root0] } quietP [] with wgs := w, reqs := [(3, req0 .cplin)] }

theorem witness_SchedulingEvents_commands :
    (sliceS []).saveArea 0 = 0 ∧ ((sliceS []).part 0).resident = true ∧ (freeS true).saveArea 0 = 0 ∧ ((freeS true).part 0).resident = false ∧
    (∀ w ∈ [[], wgOf 0], ((killS w).part 0).resident = true ∧ ((killS w).part 0).tree ≠ [] ∧ (∀ r ∈ ((killS w).part 0).tree, r.leaf = false) ∧ (∀ l ∈ Tbl.vals (killS w).launches, l.part ≠ 0 ∨ l.asid ≠ 0) ∧
      ((killS w).part 0).killing = [] ∧ ((killS w).part 0).killStores = [] ∧ (∀ q ∈ (killS w).reqs, q.1 = q.2.id)) ∧
    (killS []).wgsOf 0 0 = [] ∧ (killS []).req 3 = some (req0 .cplin) ∧ (req0 .cplin).part = 0 ∧ (req0 .cplin).asid = 0 ∧
    (killS (wgOf 0)).wgsOf 0 0 = [{ loadedWg 0 none with part := 0 }] ∧ (killS (wgOf 0)).inTurn 1 = false ∧ (loadedWg 0 none).stack = none ∧ (loadedWg 0 none).id = 1 := by
  decide +kernel

/-- Partition 0 runs graph 0 of four nodes, whose header is at IA `ia1 0x10000`; nodes 0 to 3 wait for the value 5 of a counter at `ia1 0x70000`,
select by a word there, join two firings, and are invalid. -/
def graph0 (run : List Nat) : Graph := ⟨0, ia1 0x10000, 4, 0, run, []⟩
def graphS (run : List Nat) (v : Nat) : State :=
  sched { onCore with graphs := [graph0 run], rootRcb := BitVec.ofNat 64 (ia1 0x40) } quietP
    [(0x10040, 3), (0x10050, ia1 0x70000), (0x10058, 5), (0x10060, 0x25), (0x10068, 0x3002), (0x10070, ia1 0x70000), (0x10080, 2 * 2 ^ 32 + 7), (0x70000, v)]

def fifoS (v : Nat) : State := (graphS [] v).modDie 0 (fun d => { d with walkFifo := [(0, 0, 0)] })
def begun (v : Nat) : State := ((fifoS v).modDie 0 (fun d => { d with walkFifo := [] })).beginNode 0 0 0
def waitS (v : Nat) : State := (graphS [0] v).modDie 0 (fun d => { d with waitNodes := [(0, 0, 0)] })
def tried (v : Nat) : State := ((waitS v).modDie 0 (fun d => { d with waitNodes := [] })).runNode 0 (graph0 [0]) 0

theorem test_node_waits : ((ran .walkerNodeStep (fifoS 4)).die 0).waitNodes = [(0, 0, 0)] := by decide +kernel
theorem test_node_done : ((ran .launchNodeRetry (waitS 5)).die 0).waitNodes = [] ∧ ((ran .launchNodeRetry (waitS 5)).part 0).graphs = [graph0 []] := by decide +kernel

/-- Node `j` reads, is valid or not, and is of kind `k`; its counter or word, where it has one, reads. -/
def nodeReads (j k : Nat) (ok : Bool) : Bool :=
  let a := (graph0 []).header + 64 + 32 * j
  nodeIa a == some a &&
  (match (graphS [] 4).doubles a 4 with
    | .ok (s1, ds) => (nodeOf ds).bad 4 == !ok && (nodeOf ds).kind == k && (k != 5 || decide (0 < (nodeOf ds).nsucc) && (nodeOf ds).addr % 8 == 0) &&
        (!(k == 3 || k == 5) || nodeIa (nodeOf ds).addr == some (nodeOf ds).addr && (s1.doubles (nodeOf ds).addr 1).isOk)
    | .error _ => false)

theorem witness_GraphEvents_nodes :
    ((fifoS 4).tripped = false ∧ ((fifoS 4).die 0).walkFifo = [(0, 0, 0)] ∧ ((begun 4).die 0).walkCopy = [] ∧ ((begun 4).die 1).walkFifo = [] ∧
      ((begun 4).die 1).walkCopy = []) ∧
    (((graphS [] 4).part 0).graph? 0 = some (graph0 []) ∧ ¬ 0 ∈ (graph0 []).running) ∧
    ((waitS 5).tripped = false ∧ ((waitS 5).die 0).waitNodes = [(0, 0, 0)] ∧ ((waitS 5).part 0).graph? 0 = some (graph0 [0]) ∧ ((tried 5).die 1).waitNodes = []) ∧
    nodeReads 0 3 true = true ∧ nodeReads 1 5 true = true ∧ nodeReads 2 7 true = true ∧ nodeReads 3 0 false = true := by
  decide +kernel

/-- An armed entry 0 of partition 0's graph table, whose graph has two nodes and begins at node 1. -/
def armS : State :=
  sched { onCore with saveArea := BitVec.ofNat 64 (ia1 0x20000) } quietP [(0x20000, 2 ^ 63 + ia1 0x80000), (0x80000, 0), (0x80008, 0x1001)]

theorem witness_GraphEvents_arm :
    (match armS.rd (armS.saveArea 0 + 8 * 0) 1 with
      | (s0, some [e]) => nbit e 63 && (decide (armS.parts = s0.parts)) && (match s0.rd (nbits e 51 0) 3 with
        | (s1, some [h0, h1, _]) => h0 % 4 == 0 && decide (nbits h1 23 12 ≤ nbits h1 11 0) && decide (s0.parts = s1.parts)
        | _ => false)
      | _ => false) = true ∧
    (armS.part 0).armed.any (fun a => a.1 == 0) = false ∧ (armS.part 0).graph? 0 = none ∧
    (((graphS [] 4).part 0).graphs = [graph0 []] ∧ (graphS [] 4).graphIdle 0 0 = true ∧ (graphS [] 4).msixMask.getLsbD 8 = true ∧
      { graphS [] 4 with msixMask := 0 }.msixMask.getLsbD 8 = false ∧ { graphS [] 4 with msixMask := 0 }.graphIdle 0 0 = true) := by
  decide +kernel

theorem test_period : homeByte periodS 0x78 = 7 ∧ homeByte (ran .budgetPeriod periodS) 0x78 = 0 := by decide +kernel

/-- A record of a tensor of two elements of F32 at `base`, and its box. -/
def boxRec (base : Nat) : List Nat := [base, 2, 0, 2 ^ 32, 2 * 2 ^ 48, 0, 0, 0, 0, 0, 0, 0]
/-- CPBOX from VA 0x10000 to VA 0x30000, or, where `k` is set, to the scratchpad of workgroup 1. -/
def boxRun (k : Bool) : EReq :=
  { req0 .cpbox with recs := [boxRec 0x10000, boxRec 0x30000, [], []], parts := [(0, [0, 0, 0, 0, 0])], regs := [0, 0, 0, 0, 0, if k then 0x80000000 else 0, 0, 0, 0, 0] }

theorem test_copy_box : homeByte (ran (.copyChunk 0 2) (copying (boxRun false))) (ia1 0x30000) = 0xAA := by decide +kernel

abbrev BoxOk (k : Bool) : Prop :=
  let r := boxRun k
  (copying r).headReq ⟨0, 0, 2⟩ = some r ∧ (copying r).req r.id = some r ∧ r.running = true ∧ r.phase = 0 ∧ r.op = .cpbox ∧ r.dstk = k ∧
    r.chunkUnits r.pos 8192 (r.allUnits - r.pos) = ([0, 1], 2)
/-- The units are made and placed, and the request stays. -/
def boxPlaced (k : Bool) : Bool :=
  match eachE (fun t x => t.makeUnit (boxRun k) x) [0, 1] (copying (boxRun k)) with
  | .ok (s1, xs) => xs.map BoxUnit.code == [0xAA, 0] && (s1.putUnits (boxRun k) xs).2.isNone && (Tbl.get? (s1.putUnits (boxRun k) xs).1.reqs 3).isSome
  | .error _ => false

theorem witness_CopySpliceEvents_box : (BoxOk false ∧ boxPlaced false = true) ∧ BoxOk true ∧ boxPlaced true = true :=
  ⟨⟨by decide, by decide +kernel⟩, by decide, by decide +kernel⟩

/-- The requests of the other witnesses stand in the table before and after the event's writes. -/
def linStays : Bool :=
  match (copying (linReq 16)).reqRead (linReq 16) ((linReq 16).pair 0) ((linReq 16).w 4) with
  | .ok (s1, d) => (Tbl.get? (s1.reqWrite (linReq 16) ((linReq 16).pair 2) (d.take 4096)).1.reqs 3).isSome
  | .error _ => false
def planStays (r : EReq) (ws : List (Nat × List (Byte × Bool))) : Bool := (Tbl.get? ((splicing r).reqWrites r ws).1.reqs 3).isSome
def scatStays : Bool :=
  let r := scatReq (2 ^ 63)
  match (splicing r).reqRead r (r.pair 2 + 0) (r.w 4) with
  | .ok (s1, d) => (Tbl.get? (s1.reqWrite r (r.emap 0 0) d).1.reqs 3).isSome
  | .error _ => false
def combStays : Bool :=
  match (splicing combReq).outRow combReq 0 with
  | .ok (s1, _) => (Tbl.get? (s1.reqWrite combReq (combReq.pair 2) [(0, false), (0, false), (0, false), (0, false)]).1.reqs 3).isSome
  | .error _ => false

theorem witness_CopySpliceEvents_table :
    ((copying (linNew 0)).req 3 = some (linNew 0) ∧ (copying (linNew 65537)).req 3 = some (linNew 65537) ∧ linStays = true) ∧
    ((copying { linReq 16 with phase := 1 }).req 3 = some { linReq 16 with phase := 1 }) ∧
    (planStays planReq (planReq.placeWrites 0) = true ∧ planStays { planReq with pos := 1 } planReq.endWrites = true) ∧
    (scatStays = true ∧ combStays = true) ∧
    ((splicing { combReq with phase := 1 }).req 3 = some { combReq with phase := 1 } ∧ { combReq with phase := 1 }.running = true) :=
  ⟨⟨by decide, by decide, by decide +kernel⟩, by decide, ⟨by decide +kernel, by decide +kernel⟩, ⟨by decide +kernel, by decide +kernel⟩, by decide⟩

theorem witness_NearMemoryEvents_more :
    calling.descPoisoned callRec = false ∧ ((blockDone calling.nextId).callLines ((blockDone calling.nextId).wgrp calling.nextId).asid
      ((blockDone calling.nextId).wgrp calling.nextId).call 0 4 = []) ∧
    (match State.reset.doubles (ia1 0) 8 with | .error _ => true | .ok _ => false) = true ∧ State.reset.heldBacks = [] := by
  decide +kernel

/-- The loaded tree of partition 0 is one leaf at `ia1 0x40` with its queue at `ia1 0x40000`; the home L2 holds both. -/
def chargeR : Rcb := { leaf0 with ia := ia1 0x40, path := [ia1 0x40], queue := ia1 0x40000 }
def chargeS : State := homes [(ia1 0x78, 7), (ia1 0x40000, 0)] (sched { onCore with tree := [chargeR] } quietP [])
def chargeG : Workgroup := { loadedWg 0 none with leaf := ia1 0x40, charge := 3 }

theorem test_charge : homeByte (chargeS.chargeLeaf chargeG) (ia1 0x78) = 10 := by decide +kernel

theorem witness_SchedulingEvents_charge :
    (chargeS.part chargeG.part).tree.find? (fun x => x.ia == chargeG.leaf) = some chargeR ∧ DevIa (ia1 0x40) 64 ∧ DevIa chargeR.queue 32 ∧
    chargeR.queue / 64 ≠ ia1 0x40 / 64 ∧
    (match chargeS.homeWrite 0 (ia1 0x40 + 56) (leBytes 6 ((chargeS.peek (ia1 0x40 + 56) 1).getD 0 0 + chargeG.charge)) with
      | .ok s1 => s1.l2Has (chargeR.queue + 16)
      | .error _ => false) = true := by
  unfold DevIa
  decide +kernel

/-- A launch that is complete; its releases `rels` are not done where core 0 holds one. -/
def heldL (status : Nat) (told : Bool) (rels : List (Nat × Nat)) : State :=
  { endedL status with
    launches := [(4, { launch0 status 1 1 with told := told, rels := rels })],
    cores := [(0, { Core.reset with rels := [⟨5, 1, [0], 0, 4, none, false⟩] })] }

theorem witness_SchedulingEvents_held :
    ((launch0 0 1 1).done = true ∧ (launch0 0 1 1).told = false ∧ (launch0 0 1 1).statusVa = 0 ∧ (launch0 0x30000 1 1).statusVa ≠ 0) ∧
    (heldL 0 false []).launchHeld (launch0 0 1 1) = false ∧
    (∀ b ∈ [false, true], (heldL 0x30000 b [(0, 5)]).launchHeld { launch0 0x30000 1 1 with told := b, rels := [(0, 5)] } = true) := by
  decide +kernel

theorem witness_SchedulingEvents_more :
    ((periodS.readTree 0).nodes ++ (periodS.part 0).tree.map Rcb.ia).eraseDups = [root0.ia] ∧ (periodS.l2Fetch (root0.ia + 56) 0 0).isOk = true ∧
    (sliceS (wgOf 1)).waiting.any (fun q => (sliceS (wgOf 1)).shareCore 0 q && (sliceS (wgOf 1)).partPrio q == (sliceS (wgOf 1)).partPrio 0 &&
      !(sliceS (wgOf 1)).outranked q) = true ∧
    (let s := { haltS with wgs := [], threads := [] }
     s.quiet 0 = true ∧ s.hasContext 0 = false ∧ s.saveArea 0 = 0 ∧ (s.leaveCores 0).waiting = []) ∧
    haltS.hasContext 0 = true := by
  decide +kernel

/-- The home L2 holds graph 0, with the node of the doubles `nd` as its node 0, and the doubles `xs`. -/
def nodeS (run nd : List Nat) (xs : List (Nat × Nat)) : State :=
  homes (((rangeFrom 0 4).map (fun i => (ia1 0x10040 + 8 * i, nd.getD i 0))) ++ xs)
    (sched { onCore with graphs := [graph0 run], rootRcb := BitVec.ofNat 64 (ia1 0x40) } quietP [])

/-- Node 0 is read, is valid and is of kind `k`; then `f`. -/
def nodeHas (s : State) (k : Nat) (f : State → Node → Bool) : Bool :=
  nodeIa (ia1 0x10040) == some (ia1 0x10040) && s.walkerDie 0 == 0 &&
  (match s.doublesAt 0 (ia1 0x10040) 4 with
    | .ok (s1, ds) => !(nodeOf ds).bad 4 && (nodeOf ds).kind == k && f s1 (nodeOf ds)
    | .error _ => false)

/-- LAUNCH of the record at `ia1 0x60000` to a queue of one slot with TAIL `t`. -/
def launchN (t : Nat) : State :=
  nodeS [0] [1, 0, ia1 0x60000, ia1 0x40000] [(ia1 0x40000, ia1 0x50000), (ia1 0x40008, t), (ia1 0x50000, 0), (ia1 0x60000, 7)]
def launchFits (s1 : State) (nd : Node) : Bool :=
  nodeIa nd.value == some nd.value && nodeIa nd.addr == some nd.addr &&
  (match s1.doublesAt 0 nd.value 4 with
    | .ok (s2, hd) => decide ((leafHdrOf hd).count < (leafHdrOf hd).slots) && nd.value == ia1 0x40000 && (leafHdrOf hd).slot (leafHdrOf hd).tail == ia1 0x50000 &&
      (match s2.doublesAt 0 nd.addr 8 with
        | .ok (s3, r) => (match s3.homeWrite 0 (ia1 0x50000) (r.flatMap (leBytes 8)) with
          | .ok s4 => s4.l2Has (nd.value + 8)
          | .error _ => false)
        | .error _ => false)
    | .error _ => false)
def launchFull (s1 : State) (nd : Node) : Bool :=
  nodeIa nd.value == some nd.value &&
  (match s1.doublesAt 0 nd.value 4 with
    | .ok (_, hd) => decide ((leafHdrOf hd).slots ≤ (leafHdrOf hd).count)
    | .error _ => false)

theorem test_node_launch : homeByte ((launchN 0).runNode 0 (graph0 [0]) 0) (ia1 0x50000) = 7 := by decide +kernel

theorem witness_GraphEvents_launch :
    (DevIa (ia1 0x40000) 32 ∧ DevIa (ia1 0x50000) 64 ∧ ia1 0x50000 / 64 ≠ ia1 0x40000 / 64) ∧ nodeHas (launchN 0) 1 launchFits = true ∧ nodeHas (launchN 1) 1 launchFull = true :=
  ⟨by unfold DevIa; decide, by decide +kernel, by decide +kernel⟩

/-- COPY of 16 bytes by the descriptor at `ia1 0x60000 + a`, whose last double is `z`. -/
def copyN (a z : Nat) : State :=
  nodeS [0] [2, 0, ia1 0x60000 + a, 0] [(ia1 0x60000, 0x10000), (ia1 0x60008, 0x30000), (ia1 0x60010, 16), (ia1 0x60028, z)]
def copyReads (z : Bool) (s1 : State) (nd : Node) : Bool :=
  nd.addr % 16 == 0 && nodeIa nd.addr == some nd.addr &&
  (match s1.doublesAt 0 nd.addr 6 with
    | .ok (_, d) => d.length == 6 && d.all (fun v => decide (v < 2 ^ 64)) && (d.getD 5 0 / 2 ^ 12 != 0) == z
    | .error _ => false)

theorem witness_GraphEvents_copy :
    nodeHas (copyN 8 0) 2 (fun _ nd => nd.addr % 16 != 0) = true ∧ nodeHas (copyN 0 5) 2 (copyReads false) = true ∧
    nodeHas (copyN 0 0x1000) 2 (copyReads true) = true :=
  ⟨by decide +kernel, by decide +kernel, by decide +kernel⟩

/-- A node of kind `k` on the double `v` at `ia1 0x70000`. -/
def wordN (k v : Nat) : State := nodeS [0] [k + 2 * 16 + 3 * 2 ^ 32, 1 + 2 * 2 ^ 12, ia1 0x70000, 1] [(ia1 0x70000, v)]

theorem test_node_signal : homeByte ((wordN 4 7).runNode 0 (graph0 [0]) 0) (ia1 0x70000) = 8 := by decide +kernel

theorem witness_GraphEvents_signal :
    nodeHas (wordN 4 7) 4 (fun s1 nd => nbits nd.addr 51 48 == 1 && nd.addr % 8 == 0 && iaOk nd.addr &&
      (match s1.atomicHome 0 nd.addr 8 0 nd.value 0 with
        | .ok (_, _, p) => !p
        | .error _ => false)) = true := by
  decide +kernel

/-- WHILE: the word is `v`; it has not run yet, of 3 times. -/
def whileReads (v : Nat) (s1 : State) (nd : Node) : Bool :=
  nd.count == 3 && nd.addr == ia1 0x70000 && (s1.doublesAt 0 nd.addr 1).isOk &&
  (match s1.doublesAt 0 nd.addr 1 with
    | .ok (s2, d) => d == [v] && s2.runCount 0 0 0 == 0
    | .error _ => false)

theorem witness_GraphEvents_while : nodeHas (wordN 6 1) 6 (whileReads 1) = true ∧ nodeHas (wordN 6 0) 6 (whileReads 0) = true :=
  ⟨by decide +kernel, by decide +kernel⟩

theorem witness_GraphEvents_done :
    ((graphS [1] 4).part 0).graph? 0 = some (graph0 [1]) ∧
    ([2, 3].foldl (fun t k => t.fireNode 0 0 k) ((graphS [1] 4).modGraph 0 0 (fun y => { y with running := y.running.filter (· != 1) }))).runPending 0 0 1 = 0 := by
  decide +kernel

/-- Graph 0 has no node to run, and the home L2 holds its header and its entry. -/
def idleS : State :=
  homes [(ia1 0x10000, 1), (ia1 0x20000, 2 ^ 63)]
    (sched { onCore with graphs := [graph0 []], saveArea := BitVec.ofNat 64 (ia1 0x20000) } quietP [])

theorem test_graph_done : homeByte (ran (.graphDone 0) idleS) (ia1 0x10000) = 3 ∧ homeByte (ran (.graphDone 0) idleS) (ia1 0x20007) = 0 := by decide +kernel

theorem witness_GraphEvents_idle :
    (idleS.part 0).graphs = [graph0 []] ∧ idleS.graphIdle 0 0 = true ∧ DevIa (graph0 []).header 64 ∧
    (idleS.saveArea 0 + 8 * (graph0 []).entry = ia1 0x20000 ∧ DevIa (ia1 0x20000) 8 ∧ ia1 0x20000 / 8 ≠ (graph0 []).header / 8) ∧
    (match idleS.homeWrite 0 (graph0 []).header (leBytes 8 (1 / 4 * 4 + 3)) with
      | .ok s1 => s1.l2Has (ia1 0x20000)
      | .error _ => false) = true ∧ (idleS.peek (graph0 []).header 1).getD 0 0 = 1 := by
  unfold DevIa
  decide +kernel

/-- `evictS 0` after its page 1 has left for page 0 of the pool. -/
def evictU : State :=
  let s := evictS 0
  let ls := (s.leaves 0).filter (fun x => nbit x.entry 0 && x.page == 1)
  match ((s.poolSet 0 0 true).putLeaves 0 ls (fun x => moved 1 0 1 x)).pageOut 0 1 (s.pool 0).base 32 with
  | .ok s1 => ((s1.putLeaves 0 ls (fun x => moved ((s.pool 0).base / 2 ^ 21) 0 1 x)).putDouble ((s.pool 0).list + 8 * (s.pool 0).nfree) (2 ^ 21)).putNfree 0
      ((s.pool 0).nfree + 1)
  | .error _ => s

theorem witness_SchedulingEvents_evict_rest : ∀ q, q < 8 → 0 < q → evictU.evictedHeads q = [] := by decide +kernel

/-- The two shapes of workgroup that the statement tells apart. -/
theorem witness_SpecialRegisters : ((solo (.sysrd hd ⟨4, 1⟩) []).wgrp (m0 []).wg).stack = none ∧
    ((rhiz (.sysrd hd ⟨4, 1⟩) []).wgrp (m0 []).wg).stack = some 0 := by decide

/-! ## Decoding: words written out bit by bit (C, opcode, G, N, D, A, B; R226 to R236) -/

theorem test_decode_trap : decodeTableWord 32 0b0_0001111_01_0_0000000_0000000_0001001 = some (.trap ⟨false, 1⟩ ⟨9⟩) := by decide
theorem test_decode_trapret : decodeTableWord 32 0b0_1111110_00_0_0000000_0000000_0000000 = some (.trapret hd) := by decide
theorem test_decode_rejoin : decodeTableWord 32 0b0_0001000_00_0_0000000_0000000_0000000 = some (.rejoin hd ⟨0⟩) := by decide
theorem test_decode_waitge : decodeTableWord 32 0b0_0001011_00_0_0000000_0101100_0000_010 = some (.waitge hd ⟨44, 2⟩) := by decide
theorem test_decode_sel : decodeTableWord 32 0b0_0101010_00_0_0000001_0000011_0000011 = some (.sel hd ⟨false, 1, 3, 3⟩) := by decide
theorem test_decode_fadd : decodeTableWord 32 0b0_0110000_00_0_0000010_1111100_0000101 = some (.fadd hd ⟨false, 2, 124, 5⟩) := by decide
theorem test_decode_unpk : decodeTableWord 32 0b0_1001010_00_0_0000011_0000001_00_00_100 = some (.unpk hd ⟨false, 3, 1, 0, 4⟩) := by decide
theorem test_decode_hbfly : decodeTableWord 32 0b0_1001001_00_0_0000010_0000001_0000_000 = some (.hbfly hd ⟨false, 2, 1, 0⟩) := by decide
theorem test_decode_lds32 : decodeTableWord 32 0b0_1100000_00_0_0000011_0000110_0000000 = some (.lds32 hd ⟨3, 6, 0⟩) := by decide
theorem test_decode_fence : decodeTableWord 32 0b0_1101001_00_0_0000000_0000000_0001_100 = some (.fenceRel hd ⟨4⟩) := by decide
theorem test_decode_mxs : decodeTableWord 32 0b0_1110000_00_0_0000000_0011000_1110_000 = some (.mxs hd ⟨24, 14, 0⟩) := by decide
theorem test_decode_sysrd : decodeTableWord 32 0b0_1111100_00_0_0000100_00000000001101 = some (.sysrd hd ⟨4, 13⟩) := by decide
theorem test_decode_nmbk_rdac : decodeTableWord 32 0b0_1111111_00_0_0001010_0000100_0_0_0_0_011 = some (.nmbkRdac hd ⟨10, 4, false, false⟩) := by decide
theorem test_decode_nmbk_lmac : decodeTableWord 32 0b0_1111111_00_0_0000011_0000100_0_1_1_0_100 = some (.nmbkLmac hd ⟨3, 4, true⟩) := by decide
theorem test_decode_brm : decodeTableWord 96 (0b0_0000010_00_1_0000000_0011000_1000001 + 2 ^ 32 * 0x00030002 + 2 ^ 64 * 4) =
    some (.brm hd ⟨2, 1, 2, 3, 0, 2, 3, 4, 0⟩) := by decide
theorem test_decode_reserved_scope : decodeTableWord 32 0b0_1101001_00_0_0000000_0000000_0001_110 = none := by decide

theorem witness_DecodeEncode : (Instr.nmbkLmac hd ⟨3, 4, true⟩).wf = true ∧
    Sys2Proof.decode (encode (.nmbkLmac hd ⟨3, 4, true⟩)) = .ok (.nmbkLmac hd ⟨3, 4, true⟩, []) :=
  ⟨by decide, by rfl⟩

/-- A step that stores to DRAM, from memories that are well formed and not empty. -/
theorem witness_MemoryInvariant :
    let s := { sends (gone (spaIa 0 0x40)) with agenda := [.event (.storePerformHome 0 0)] }
    s.memOk = true ∧ (match step s with
      | .next t => t.dram != s.dram
      | _ => false) = true := by decide +kernel

end Sys2Proof.Tests
end

section
/-! The integer words of two and three sources and of pairs (R265, R266, R268, R270): the obligations `IntegerTwoSource` and
`IntegerPair`. -/

namespace Sys2Proof.Machine

variable {c : Cur} {s t : State} {m : Member}

/-! ## What is to land -/

/-- The lanes of a word leave what is to land as it is, where each lane that succeeds does: a fault adds nothing. -/
theorem lanes_landing_eq {f : State → Cur → Member → Except (Nat × Nat) State} (hf : Writes c f) (l : List (Nat × Member)) (s : State) :
    (lanes c f l s).landing c.core = s.landing c.core := by
  induction l generalizing s with
  | nil => rfl
  | cons q r ih =>
    simp only [lanes]
    cases hq : f s c q.2 with
    | ok t => exact (ih t).trans (congrFun (hf.lands s q.2 t hq) c.core)
    | error e =>
      refine (ih _).trans ?_
      split
      · rfl
      · exact State.landing_faultMember ..

/-- A word whose lanes each write one result adds nothing to what is to land. -/
theorem perLane_landing_eq {k : WKind} {h : Hdr} {ops : List Opn} {f : State → Cur → Member → Except (Nat × Nat) State}
    (hs : Issuing s c) (hf : (∃ m ∈ s.group c, runs k h ops false c s m = true) → Writes c f) :
    (perLane k h ops f s).landing c.core = s.landing c.core := by
  obtain ⟨-, hlive⟩ := liveFrom_spec k h ops false c (s.group c) 0 s hs.nodup (Placed.group s c)
  rw [perLane_eq hs.cur, show (liveFrom k h ops false c (s.group c) 0 s).2 = s.live c (runs k h ops false c s) from hlive]
  have hskip := liveFrom_landing k h ops false c (s.group c) 0 s
  rcases State.live_nil_or s c (runs k h ops false c s) with hnone | hsome
  · rwa [hnone]
  · exact (lanes_landing_eq (hf hsome) ..).trans hskip

/-! ## Words of two sources -/

/-- The word `i` reads two sources and writes one result: as `x` says. -/
structure IsOp2 (i : Instr) (x : Two) : Prop where
  signs : i.signs = false
  opns : i.opns = [.src x.a, .src x.b, .dst x.n x.d]
  exec : ∀ s, exec i s = .next (perLane i.kind i.header i.opns (op2 x.lat x.n x.d x.a x.b x.f) s)

/-- The same, where the model computes the result by `f` and the rule states it by `g`. -/
theorem IsOp2.of_eq {i : Instr} {x : Two} {lat : Nat} {n : Bool} {d a b : BitVec 7} {f g : Word → Word → Word}
    (hi : some ⟨n, d, a, b, lat, g⟩ = some x) (hfg : ∀ x y, f x y = g x y) (hsigns : i.signs = false)
    (hopns : i.opns = [.src a, .src b, .dst n d])
    (hexec : ∀ s, Machine.exec i s = .next (perLane i.kind i.header i.opns (op2 lat n d a b f) s)) : IsOp2 i x := by
  cases hi
  obtain rfl : f = g := funext₂ hfg
  exact ⟨hsigns, hopns, hexec⟩

/-- R265: every integer word of two sources computes the result that the rule states for it. -/
theorem isOp2_of_intTwo {i : Instr} {x : Two} (hi : intTwo i = some x) : IsOp2 i x := by
  cases i with
  | iadd => exact .of_eq hi iadd_eq rfl rfl fun _ => rfl
  | isub => exact .of_eq hi isub_eq rfl rfl fun _ => rfl
  | imul => exact .of_eq hi imul_eq rfl rfl fun _ => rfl
  | imulhiI => exact .of_eq hi mulHiS_eq rfl rfl fun _ => rfl
  | imulhiN => exact .of_eq hi mulHiU_eq rfl rfl fun _ => rfl
  | iminI => exact .of_eq hi minS_eq rfl rfl fun _ => rfl
  | imaxI => exact .of_eq hi maxS_eq rfl rfl fun _ => rfl
  | iminN => exact .of_eq hi minU_eq rfl rfl fun _ => rfl
  | imaxN => exact .of_eq hi maxU_eq rfl rfl fun _ => rfl
  | land => exact .of_eq hi (fun _ _ => rfl) rfl rfl fun _ => rfl
  | lor => exact .of_eq hi (fun _ _ => rfl) rfl rfl fun _ => rfl
  | lxor => exact .of_eq hi (fun _ _ => rfl) rfl rfl fun _ => rfl
  | shl => exact .of_eq hi shlW_eq rfl rfl fun _ => rfl
  | shr => exact .of_eq hi shrW_eq rfl rfl fun _ => rfl
  | sar => exact .of_eq hi sarW_eq rfl rfl fun _ => rfl
  | _ => cases hi

theorem portless_any {i : Instr} (hp : portless i = true) : i.opns.any Opn.port? = false := by
  simpa [portless] using hp

/-- Once a thread executes a word of two sources that names no port, each lane of it only writes one result. -/
theorem IsOp2.writes {i : Instr} {x : Two} (hi : IsOp2 i x) (hp : portless i = true)
    (hr : runs i.kind i.header i.opns false c s m = true) : Writes c (op2 x.lat x.n x.d x.a x.b x.f) :=
  op2_writes (dst_ok hr (portless_any hp) (by simp [hi.opns])) (src_ok (portless_any hp) (by simp [hi.opns]))
    (src_ok (portless_any hp) (by simp [hi.opns]))

/-- What a thread takes that executes a word of two sources. -/
theorem IsOp2.took {i : Instr} {x : Two} (hi : IsOp2 i x) (hs : Issuing s c) (hp : portless i = true) (hm : m ∈ s.doers c i)
    {p q : Word × Nat} (ha : s.plain m x.a = some p) (hb : s.plain m x.b = some q) :
    Took s (perLane i.kind i.header i.opns (op2 x.lat x.n x.d x.a x.b x.f) s) m x.n x.d.toNat (x.f p.1 q.1)
      (readyAt c.core (max s.clk (max p.2 q.2)) x.lat) := by
  obtain ⟨hg, hr⟩ := doers_runs hi.signs hm
  refine perLane_took (r := fun clk => readyAt c.core (max clk (max p.2 q.2)) x.lat) hs (hi.writes hp hr).only hg hr fun s1 h1 => ?_
  exact op2_do (dst_ok hr (portless_any hp) (by simp [hi.opns])) ((h1.plain _).trans ha) ((h1.plain _).trans hb)

/-! ## Words of two sources and register D -/

/-- The word `i` reads two sources and register D and writes one result: as `x` says. -/
structure IsOp3 (i : Instr) (x : Three) : Prop where
  signs : i.signs = false
  opns : i.opns = [.src x.a, .src x.b, .gen x.d]
  exec : ∀ s, exec i s = .next (perLane i.kind i.header i.opns (op3 x.lat x.n x.d x.a x.b x.f) s)

theorem IsOp3.of_eq {i : Instr} {x : Three} {lat : Nat} {n : Bool} {d a b : BitVec 7} {f g : Word → Word → Word → Word}
    (hi : some ⟨n, d, a, b, lat, g⟩ = some x) (hfg : ∀ x y z, f x y z = g x y z) (hsigns : i.signs = false)
    (hopns : i.opns = [.src a, .src b, .gen d])
    (hexec : ∀ s, Machine.exec i s = .next (perLane i.kind i.header i.opns (op3 lat n d a b f) s)) : IsOp3 i x := by
  cases hi
  obtain rfl : f = g := funext₃ hfg
  exact ⟨hsigns, hopns, hexec⟩

/-- R266, R270: IMAD and BSWZ compute the results that the rules state for them. -/
theorem isOp3_of_intThree {i : Instr} {x : Three} (hi : intThree i = some x) : IsOp3 i x := by
  cases i with
  | imad => exact .of_eq hi imad_eq rfl rfl fun _ => rfl
  | bswz => exact .of_eq hi bswzW_eq rfl rfl fun _ => rfl
  | _ => cases hi

/-- Each lane of a word of three sources that names no port only writes one result. -/
theorem IsOp3.writes {i : Instr} {x : Three} (hi : IsOp3 i x) (hd : x.d.toNat < 112) (hp : portless i = true) :
    Writes c (op3 x.lat x.n x.d x.a x.b x.f) :=
  op3_writes hd (src_ok (portless_any hp) (by simp [hi.opns])) (src_ok (portless_any hp) (by simp [hi.opns]))

/-- What a thread takes that executes a word of three sources. -/
theorem IsOp3.took {i : Instr} {x : Three} (hi : IsOp3 i x) (hd : x.d.toNat < 112) (hs : Issuing s c) (hp : portless i = true)
    (hm : m ∈ s.doers c i) {p q r : Word × Nat} (ha : s.plain m x.a = some p) (hb : s.plain m x.b = some q)
    (hr : s.plain m x.d = some r) :
    Took s (perLane i.kind i.header i.opns (op3 x.lat x.n x.d x.a x.b x.f) s) m x.n x.d.toNat (x.f p.1 q.1 r.1)
      (readyAt c.core (max s.clk (max p.2 q.2)) x.lat) := by
  obtain ⟨hg, hruns⟩ := doers_runs hi.signs hm
  refine perLane_took (r := fun clk => readyAt c.core (max clk (max p.2 q.2)) x.lat) hs (hi.writes hd hp).only hg hruns fun s1 h1 => ?_
  exact op3_do hd ((h1.plain _).trans ha) ((h1.plain _).trans hb) ((h1.plain _).trans hr)

/-- Settles O1: a word of two or three sources is a shape of `Laws/Lanes.lean` with the result of its rule, so each thread that executes
it takes that result, and no lane adds a flag to what is to land. -/
theorem integerTwoSource : Obligations.IntegerTwoSource := by
  unfold Obligations.IntegerTwoSource
  constructor
  · intro i x hx s c hs hp
    have hi := isOp2_of_intTwo hx
    refine ⟨_, hi.exec s, perLane_landing_eq hs ?_, fun m hm p q ha hb => hi.took hs hp hm ha hb⟩
    rintro ⟨m, -, hr⟩
    exact hi.writes hp hr
  · intro i x hx hd s c hs hp
    have hi := isOp3_of_intThree hx
    exact ⟨_, hi.exec s, perLane_landing_eq hs fun _ => hi.writes hd hp, fun m hm p q r ha hb hr => hi.took hd hs hp hm ha hb hr⟩

/-! ## Words on pairs -/

theorem pair_add_eq (x y : Dword) : x + y = BitVec.ofNat 64 (x.toNat + y.toNat) := by
  apply BitVec.eq_of_toNat_eq; simp

theorem pair_add_offset_eq (x : Dword) (y : Word) : x + y.signExtend 64 = BitVec.ofInt 64 (x.toInt + y.toInt) := by
  apply BitVec.eq_of_toInt_eq
  rw [BitVec.toInt_add, BitVec.toInt_ofInt, BitVec.toInt_signExtend_of_le (by omega)]

theorem opIadd64_only (o : OpRR) : LaneFn c (opIadd64 o) := by
  intro s m t h
  simp only [opIadd64] at h
  split at h
  · cases h
  · obtain ⟨t', h1, honly, -, -⟩ := State.result64_spec (s := s) (c := c) (m := m) o.n o.d
      (m.pair o.a.toNat + m.pair o.b.toNat) 5 0 (max (s.regsDep m o.a.toNat 2) (s.regsDep m o.b.toNat 2))
    obtain rfl : t' = t := Except.ok.inj (h1.symm.trans h)
    exact honly

theorem opIadd64_do {o : OpRR} (ha : s.plainPair m o.a.toNat) (hb : s.plainPair m o.b.toNat) :
    ∃ t, opIadd64 o s c m = .ok t ∧ ((Tbl.get? s.threads m.key).isSome = true →
      TookPair s t m o.n o.d.toNat (BitVec.ofNat 64 ((m.pair o.a.toNat).toNat + (m.pair o.b.toNat).toNat)) (readyAt c.core s.clk 5)) := by
  obtain ⟨t, h1, -, -, htook⟩ := State.result64_spec (s := s) (c := c) (m := m) o.n o.d
    (m.pair o.a.toNat + m.pair o.b.toNat) 5 0 (max (s.regsDep m o.a.toNat 2) (s.regsDep m o.b.toNat 2))
  rw [pair_add_eq, Nat.max_zero] at htook
  refine ⟨t, ?_, htook⟩
  simp only [opIadd64, State.firstBad_pair ha, State.firstBad_pair hb, Option.or_none]
  exact h1

theorem opAddx64_only {o : OpRR} (hb : isPort o.b = false) : LaneFn c (opAddx64 o) := by
  intro s m t h
  simp only [opAddx64] at h
  split at h
  · cases h
  · split at h
    · cases h
    · rename_i s1 y hy
      obtain rfl : s1 = s := State.src_state hb hy
      obtain ⟨t', h1, honly, -, -⟩ := State.result64_spec (s := s1) (c := c) (m := m) o.n o.d
        (m.pair o.a.toNat + y.v.signExtend 64) 5 y.ready (max (s1.regsDep m o.a.toNat 2) y.dep)
      obtain rfl : t' = t := Except.ok.inj (h1.symm.trans h)
      exact honly

theorem opAddx64_do {o : OpRR} {q : Word × Nat} (ha : s.plainPair m o.a.toNat) (hb : s.plain m o.b = some q) :
    ∃ t, opAddx64 o s c m = .ok t ∧ ((Tbl.get? s.threads m.key).isSome = true →
      TookPair s t m o.n o.d.toNat (BitVec.ofInt 64 ((m.pair o.a.toNat).toInt + q.1.toInt)) (readyAt c.core (max s.clk q.2) 5)) := by
  obtain ⟨dep, hsrc⟩ := State.src_plain (c := c) hb
  obtain ⟨t, h1, -, -, htook⟩ := State.result64_spec (s := s) (c := c) (m := m) o.n o.d
    (m.pair o.a.toNat + q.1.signExtend 64) 5 q.2 (max (s.regsDep m o.a.toNat 2) dep)
  rw [pair_add_offset_eq] at htook
  refine ⟨t, ?_, htook⟩
  simp only [opAddx64, State.firstBad_pair ha, hsrc]
  exact h1

theorem exec_iadd64 (h : Hdr) (o : OpRR) (s : State) : exec (.iadd64 h o) s =
    .next (perLane (Instr.iadd64 h o).kind (Instr.iadd64 h o).header (Instr.iadd64 h o).opns (opIadd64 o) s) := rfl

theorem exec_addx64 (h : Hdr) (o : OpRR) (s : State) : exec (.addx64 h o) s =
    .next (perLane (Instr.addx64 h o).kind (Instr.addx64 h o).header (Instr.addx64 h o).opns (opAddx64 o) s) := rfl

/-- Settles O3: `State.result64_spec` says what a pair result does; the sum of its lane is the sum that R268 states. -/
theorem integerPair : Obligations.IntegerPair := by
  unfold Obligations.IntegerPair
  intro h o s c hs
  constructor
  · refine ⟨_, exec_iadd64 h o s, fun m hm ha hb => ?_⟩
    obtain ⟨hg, hr⟩ := doers_runs rfl hm
    exact perLane_tookPair (r := fun clk => readyAt c.core clk 5) hs (opIadd64_only o) hg hr fun s1 h1 =>
      opIadd64_do (h1.plainPair ha) (h1.plainPair hb)
  · intro hp
    have hb : isPort o.b = false := src_ok (portless_any hp) (by simp [Instr.opns])
    refine ⟨_, exec_addx64 h o s, fun m hm q ha hq => ?_⟩
    obtain ⟨hg, hr⟩ := doers_runs rfl hm
    exact perLane_tookPair (r := fun clk => readyAt c.core (max clk q.2) 5) hs (opAddx64_only hb) hg hr fun s1 h1 =>
      opAddx64_do (h1.plainPair ha) ((h1.plain _).trans hq)

end Sys2Proof.Machine
end

section
/-! The shuffles and the votes over co-issue sets (R289 to R291): the obligations `Shuffles` and `Votes`. A word over sets is brought to
a word that each of its threads executes for itself, so that the laws of those serve. -/

namespace Sys2Proof.Machine

variable {c : Cur} {s s1 t : State} {m : Member} {i : Instr}

/-! ## What the threads of a set read -/

/-- R150: what the operand that a register or latch code names depends on. -/
def State.readDep (s : State) (m : Member) (a : BitVec 7) : Nat :=
  if a.toNat < 112 then Tbl.getD (s.thr m.wg m.t).dep a.toNat 0
  else ((s.thr m.wg m.t).latch.getD (a.toNat - 124) none).elim 0 Latch.dep

/-- What a member reads from a register or latch code. -/
def State.operand (s : State) (m : Member) (a : BitVec 7) : Src := ⟨s.val m a, s.rdy m a, s.readDep m a⟩

theorem State.src_operand {a : BitVec 7} (h : (s.plain m a).isSome = true) : s.src c m a = .ok (s, s.operand m a) := by
  by_cases hreg : a.toNat < 112
  · have hgood : s.badReg m a.toNat = false := by
      cases hb : s.badReg m a.toNat with
      | false => rfl
      | true => simp [State.plain, hreg, hb] at h
    simp [State.src, State.operand, State.val, State.rdy, State.readDep, State.plain, hreg, hgood]
  · by_cases hport : a.toNat < 124
    · simp [State.plain, hreg, hport] at h
    · cases hl : (s.thr m.wg m.t).latch.getD (a.toNat - 124) none with
      | none => simp only [State.plain, hreg, hport, hl] at h; cases h
      | some l =>
        simp only [State.src, State.operand, State.val, State.rdy, State.readDep, State.plain, hreg, hport, hl]
        rfl

/-- A thread reads the same once others have acted. -/
theorem LanesOnly.src (h : LanesOnly c (fun x => x ≠ m.key) s t) {a : BitVec 7} (ha : (s.plain m a).isSome = true) :
    t.src c m a = .ok (t, s.operand m a) := by
  rw [State.src_operand (by rwa [h.plain])]
  simp only [State.operand, State.val, State.rdy, State.readDep, h.plain, h.own]

/-! ## From a word over sets to its lanes -/

theorem doers_eq_filter (hi : i.signs = false) (s : State) (c : Cur) :
    s.doers c i = (s.group c).filter (runs i.kind i.header i.opns false c s) := by
  refine List.filter_congr fun m _ => ?_
  rw [acts, tries, hi]
  rfl

/-- A member with its place in the packet. -/
def State.placed (s : State) (c : Cur) (m : Member) : Nat × Member := ((s.group c).idxOf m, m)

/-- A member with its place in the packet and what it has read. -/
def State.seat {α : Type} (s : State) (c : Cur) (g : Member → α) (m : Member) : Seat α := ((s.group c).idxOf m, m, g m)

theorem Issuing.group_nodup (hs : Issuing s c) : (s.group c).Nodup := hs.nodup.of_map _

theorem Issuing.live_eq (hs : Issuing s c) (r : Member → Bool) : s.live c r = ((s.group c).filter r).map (s.placed c) := by
  have hzip : (s.group c).zipIdx 0 = (s.group c).map (fun m => (m, (s.group c).idxOf m)) := by
    refine List.ext_getElem (by simp) fun n h1 h2 => ?_
    simp [hs.group_nodup.idxOf_getElem]
  simp only [State.live, hzip, List.filter_map, List.map_map]
  rfl

/-- A word over sets is a word of lanes, where it comes to the same for the threads that are left to execute it once the driver has dealt
with the others. -/
theorem perGroup_eq_perLane {F : State → Cur → List (Nat × Member) → State} {f : State → Cur → Member → Lane State}
    (hs : Issuing s c) (hi : i.signs = false)
    (hF : ∀ s1, (∀ m ∈ s.doers c i, LanesOnly c (fun x => x ≠ m.key) s s1) →
      F s1 c ((s.doers c i).map (s.placed c)) = lanes c f ((s.doers c i).map (s.placed c)) s1) :
    perGroup i.kind i.header i.opns F s = perLane i.kind i.header i.opns f s := by
  obtain ⟨hskip, hlive⟩ := liveFrom_spec i.kind i.header i.opns false c (s.group c) 0 s hs.nodup (Placed.group s c)
  have hlive : (liveFrom i.kind i.header i.opns false c (s.group c) 0 s).2 = (s.doers c i).map (s.placed c) := by
    rw [doers_eq_filter hi, ← hs.live_eq]
    exact hlive
  rw [perGroup_eq hs.cur, perLane_eq hs.cur, hlive]
  refine hF _ fun m hm => hskip.mono ?_
  rintro _ ⟨q, hq, rfl, hqr⟩ hkey
  obtain ⟨hg, hr⟩ := doers_runs hi hm
  rw [hs.unique hq hg hkey, hr] at hqr
  cases hqr

/-- A read that succeeds for every thread and changes nothing. -/
theorem readAll_seats {α : Type} {f : State → Member → Lane (State × α)} (g : Member → α) (l : List Member)
    (h : ∀ m ∈ l, f s1 m = .ok (s1, g m)) : readAll c f (l.map (s.placed c)) s1 = (s1, l.map (s.seat c g)) := by
  induction l with
  | nil => rfl
  | cons m r ih =>
    rw [List.forall_mem_cons] at h
    simp only [List.map_cons, readAll, State.placed, h.1]
    exact congrArg (fun p => (p.1, s.seat c g m :: p.2)) (ih h.2)

/-- Results taken seat by seat are results taken lane by lane. -/
theorem putAll_seats {α : Type} (f : State → Seat α → Lane State) (g : Member → α) (l : List Member) (s1 : State) :
    putAll c f (l.map (s.seat c g)) s1 = lanes c (fun s2 _ m => f s2 (s.seat c g m)) (l.map (s.placed c)) s1 := by
  induction l generalizing s1 with
  | nil => rfl
  | cons m r ih =>
    simp only [List.map_cons, putAll, lanes, State.placed]
    cases f s1 (s.seat c g m) <;> exact ih _

/-- A lane function that always writes one result. -/
theorem Writes.of_ok {f : State → Cur → Member → Lane State}
    (h : ∀ s m, ∃ t, f s c m = .ok t ∧ LanesOnly c (fun x => x = m.key) s t ∧ t.landing = s.landing) : Writes c f := by
  constructor
  · intro s m t ht
    obtain ⟨u, hu, honly, -⟩ := h s m
    obtain rfl := Except.ok.inj (hu.symm.trans ht)
    exact honly
  · intro s m t ht
    obtain ⟨u, hu, -, hland⟩ := h s m
    obtain rfl := Except.ok.inj (hu.symm.trans ht)
    exact hland

theorem result_writes {n : Bool} {d : BitVec 7} (hd : n = true ∨ d.toNat < 112) (v : State → Member → Word) (lat : Nat)
    (after dep : State → Member → Nat) : Writes c (fun s _ m => s.result c m n d (v s m) lat (after s m) (dep s m)) :=
  .of_ok fun s m => by
    obtain ⟨t, ht, honly, hland, -⟩ := State.result_spec (s := s) (c := c) (m := m) hd (v s m) lat (after s m) (dep s m)
    exact ⟨t, ht, honly, hland⟩

theorem result64_writes (n : Bool) (d : BitVec 7) (v : State → Member → Dword) (lat : Nat) (after dep : State → Member → Nat) :
    Writes c (fun s _ m => s.result64 c m n d (v s m) lat (after s m) (dep s m)) :=
  .of_ok fun s m => by
    obtain ⟨t, ht, honly, hland, -⟩ := State.result64_spec (s := s) (c := c) (m := m) n d (v s m) lat (after s m) (dep s m)
    exact ⟨t, ht, honly, hland⟩

/-! ## The set of a thread -/

/-- The seats of a thread's co-issue set are those of the set that R46 states. -/
theorem coIssue_seats {α : Type} (hw : ∀ w, t.wgrp w = s.wgrp w) (g : Member → α) (m : Member) :
    coIssue t m ((s.doers c i).map (s.seat c g)) = (s.setOf c i m).map (s.seat c g) := by
  rw [coIssue, List.filter_map, State.setOf]
  simp only [Member.braid, hw]
  rfl

theorem atLane_seats {α : Type} (hw : ∀ w, t.wgrp w = s.wgrp w) (g : Member → α) (l : List Member) (k : Nat) :
    atLane t (l.map (s.seat c g)) k = (l.find? (fun q => q.braidLane s == k)).map (s.seat c g) := by
  rw [atLane, List.find?_map]
  simp only [Member.braidLane, hw]
  rfl

theorem foldl_max_rdy (l : List Member) (a : BitVec 7) (b : Nat) : l.foldl (fun k q => max k (s.rdy q a)) b = max (s.setRdy l a) b := by
  rw [State.setRdy, ← List.foldl_map (f := fun q => s.rdy q a) (g := max), max_comm, ← List.foldl_assoc (op := max), Nat.max_zero]

/-! ## Shuffles -/

/-- R290: the seat at the source lane of a seat's thread. -/
def shflSource (f : Shfl) (xs : List (Seat (Src × Src))) (s : State) (x : Seat (Src × Src)) : Option (Seat (Src × Src)) :=
  (f.lane (x.2.1.braidLane s) (x.2.2.2.v.toNat % 64)).bind fun k =>
    if k < (s.wgrp x.2.1.wg).w then atLane s (coIssue s x.2.1 xs) k else none

/-- R290: what a seat of a shuffle takes. -/
def shflPut (f : Shfl) (o : OpRR) (c : Cur) (xs : List (Seat (Src × Src))) (s : State) (x : Seat (Src × Src)) : Lane State :=
  s.result c x.2.1 o.n o.d ((shflSource f xs s x).getD x).2.2.1.v 6
    ((coIssue s x.2.1 xs).foldl (fun k y => max k y.2.2.1.ready) x.2.2.2.ready)
    (if ((shflSource f xs s x).getD x).1 = x.1 then x.2.2.1.dep else 0)

/-- Both operands of every thread, read. -/
def State.operands (s : State) (o : OpRR) (m : Member) : Src × Src := (s.operand m o.a, s.operand m o.b)

/-- R290: the lane of a shuffle that the threads of `s` execute. -/
def shflLane (f : Shfl) (o : OpRR) (i : Instr) (s : State) (c : Cur) : State → Cur → Member → Lane State := fun t _ m =>
  shflPut f o c ((s.doers c i).map (s.seat c (s.operands o))) t (s.seat c (s.operands o) m)

/-- A shuffle of threads that can all read their operands. -/
theorem doShfl_eq_lanes {f : Shfl} {o : OpRR} (hl : ∀ m ∈ s.doers c i, LanesOnly c (fun x => x ≠ m.key) s s1)
    (ha : s.allPlain c i o.a) (hb : s.allPlain c i o.b) :
    doShfl f o s1 c ((s.doers c i).map (s.placed c)) = lanes c (shflLane f o i s c) ((s.doers c i).map (s.placed c)) s1 := by
  unfold shflLane
  rw [doShfl, readAll_seats (s.operands o) _ fun m hm => ?read, ← putAll_seats]
  case read =>
    simp only [(hl m hm).src (ha m hm), (hl m hm).src (hb m hm)]
    rfl
  generalize (s.doers c i).map (s.seat c (s.operands o)) = xs
  refine congrArg (fun g => putAll c g xs s1) (funext fun s2 => funext fun x => ?_)
  dsimp only [shflPut, shflSource]
  obtain hlane | ⟨k, hlane⟩ := Option.eq_none_or_eq_some (f.lane (x.2.1.braidLane s2) (x.2.2.2.v.toNat % 64))
  · simp [hlane]
  · by_cases hk : k < (s2.wgrp x.2.1.wg).w
    · cases hy : atLane s2 (coIssue s2 x.2.1 xs) k <;> simp [hlane, hk, hy]
    · simp [hlane, hk]

/-- The member whose value a member takes: that of its set at the source lane, or itself. -/
def State.shflFrom (s : State) (c : Cur) (i : Instr) (f : Nat → Nat → Option Nat) (o : OpRR) (m : Member) : Member :=
  ((f (m.braidLane s) ((s.val m o.b).toNat % 64)).bind (s.atBraidLane m (s.setOf c i m))).getD m

theorem shflSource_seats {f : Shfl} {o : OpRR} (hw : ∀ w, t.wgrp w = s.wgrp w) :
    (shflSource f ((s.doers c i).map (s.seat c (s.operands o))) t (s.seat c (s.operands o) m)).getD (s.seat c (s.operands o) m) =
      s.seat c (s.operands o) (s.shflFrom c i f.lane o m) := by
  have hsource : ∀ k, (if k < (s.wgrp m.wg).w then atLane t (coIssue t m ((s.doers c i).map (s.seat c (s.operands o)))) k else none) =
      (s.atBraidLane m (s.setOf c i m) k).map (s.seat c (s.operands o)) := by
    intro k
    rw [coIssue_seats hw, atLane_seats hw, State.atBraidLane]
    split <;> rfl
  rw [State.shflFrom, ← Option.getD_map (s.seat c (s.operands o)), Option.map_bind, shflSource]
  simp only [State.seat, Member.braidLane, hw]
  congr 2
  exact funext hsource

/-- What a lane of a shuffle does: the thread takes the value of the member at its source lane. -/
theorem shflLane_eq {f : Shfl} {o : OpRR} (hw : ∀ w, t.wgrp w = s.wgrp w) :
    ∃ dep, shflLane f o i s c t c m =
      t.result c m o.n o.d (s.val (s.shflFrom c i f.lane o m) o.a) 6 (max (s.setRdy (s.setOf c i m) o.a) (s.rdy m o.b)) dep := by
  rw [shflLane, shflPut, shflSource_seats hw]
  refine ⟨_, congrArg (fun r => State.result t c m o.n o.d _ 6 r _) ?_⟩
  rw [← foldl_max_rdy, show (s.seat c (s.operands o) m).2.1 = m from rfl, coIssue_seats hw, List.foldl_map]
  rfl

theorem shflLane_writes {f : Shfl} {o : OpRR} (hd : o.n = true ∨ o.d.toNat < 112) : Writes c (shflLane f o i s c) :=
  result_writes hd ..

/-- The word `i` is a shuffle of operands `o` with the source lane `f`. -/
structure IsShfl (i : Instr) (o : OpRR) (f : Shfl) : Prop where
  signs : i.signs = false
  opns : i.opns = [.src o.a, .src o.b, .dst o.n o.d]
  exec : ∀ s, exec i s = .next (perGroup i.kind i.header i.opns (doShfl f o) s)

/-- R290: the source lane of every shuffle is the one that the rule states for it. -/
theorem isShfl_of_shuffles {o : OpRR} {g : Nat → Nat → Option Nat} (hi : shuffles i = some (o, g)) : ∃ f : Shfl, g = f.lane ∧ IsShfl i o f := by
  cases i with
  | shflIdx => cases hi; exact ⟨.idx, rfl, rfl, rfl, fun _ => rfl⟩
  | shflXor => cases hi; exact ⟨.xor, rfl, rfl, rfl, fun _ => rfl⟩
  | shflUp => cases hi; exact ⟨.up, rfl, rfl, rfl, fun _ => rfl⟩
  | shflDn => cases hi; exact ⟨.dn, rfl, rfl, rfl, fun _ => rfl⟩
  | _ => cases hi

/-- What a thread takes that executes a shuffle. -/
theorem IsShfl.took {o : OpRR} {f : Shfl} (hi : IsShfl i o f) (hs : Issuing s c) (hp : portless i = true) (hm : m ∈ s.doers c i) :
    Took s (perLane i.kind i.header i.opns (shflLane f o i s c) s) m o.n o.d.toNat (s.val (s.shflFrom c i f.lane o m) o.a)
      (readyAt c.core (max s.clk (max (s.setRdy (s.setOf c i m) o.a) (s.rdy m o.b))) 6) := by
  obtain ⟨hg, hr⟩ := doers_runs hi.signs hm
  have hd := dst_ok hr (portless_any hp) (by simp [hi.opns] : Opn.dst o.n o.d ∈ i.opns)
  refine perLane_took (r := fun clk => readyAt c.core (max clk (max (s.setRdy (s.setOf c i m) o.a) (s.rdy m o.b))) 6)
    hs (shflLane_writes hd).only hg hr fun s1 h1 => ?_
  obtain ⟨dep, hlane⟩ := shflLane_eq (i := i) (m := m) (f := f) (o := o) h1.wgrp
  obtain ⟨u, hu, -, -, htook⟩ := State.result_spec (s := s1) (c := c) (m := m) hd (s.val (s.shflFrom c i f.lane o m) o.a) 6
    (max (s.setRdy (s.setOf c i m) o.a) (s.rdy m o.b)) dep
  exact ⟨u, hlane.trans hu, htook⟩

namespace CrossLane

/-- Settles O9: a shuffle is the word whose lanes each take the value of the member at their source lane, and no lane adds a flag to what
is to land. -/
theorem shuffles : Obligations.Shuffles := by
  unfold Obligations.Shuffles
  intro i o g hi s c hs hp ha hb
  obtain ⟨f, rfl, hshfl⟩ := isShfl_of_shuffles hi
  refine ⟨_, (hshfl.exec s).trans (congrArg Host.Outcome.next (perGroup_eq_perLane hs hshfl.signs fun s1 h1 => doShfl_eq_lanes h1 ha hb)),
    perLane_landing_eq hs ?_, fun m hm => ?_⟩
  · rintro ⟨m, -, hr⟩
    exact shflLane_writes (dst_ok hr (portless_any hp) (by simp [hshfl.opns]))
  · have htook := hshfl.took hs hp hm
    rw [State.shflFrom] at htook
    cases hfrom : (f.lane (m.braidLane s) ((s.val m o.b).toNat % 64)).bind (s.atBraidLane m (s.setOf c i m)) <;> rwa [hfrom] at htook

end CrossLane

/-! ## Votes on a predicate -/

/-- The lane of a vote: the thread takes the predicate `v` in `pd` once what `after` says is there. -/
def voteLane (c : Cur) (pd : Nat) (v : State → Member → Bool) (after : State → Member → Nat) : State → Cur → Member → Lane State :=
  fun s _ m => .ok (s.putPred c m pd (v s m) 4 (after s m) 0)

/-- What a vote on a predicate gives and makes due, where what it computes does not change while other threads act. -/
theorem voteLane_spec {pd : Nat} {v : State → Member → Bool} {after : State → Member → Nat} (hs : Issuing s c) (hi : i.signs = false)
    (hv : ∀ t m, (∀ w, t.wgrp w = s.wgrp w) → v t m = v s m ∧ after t m = after s m) :
    (∀ a ∈ (perLane i.kind i.header i.opns (voteLane c pd v after) s).landing c.core, a ∈ s.landing c.core ∨ ∃ w k j b, a = .pred w k j b) ∧
    ∀ m ∈ s.doers c i, TookPred s (perLane i.kind i.header i.opns (voteLane c pd v after) s) c m pd (v s m)
      (readyAt c.core (max s.clk (after s m)) 4) := by
  constructor
  · intro a ha
    refine (perLane_landing (Q := fun m a => ∃ j b, a = .pred m.wg m.t j b) hs (fun _ s m t h => ?_) a ha).imp id ?_
    · obtain rfl := Except.ok.inj h
      exact fun a ha => State.putPred_lands _ _ _ _ _ a ha
    · rintro ⟨m, -, j, b, rfl⟩
      exact ⟨_, _, j, b, rfl⟩
  · intro m hm
    obtain ⟨hg, hr⟩ := doers_runs hi hm
    refine perLane_tookPred (r := fun clk => readyAt c.core (max clk (after s m)) 4) hs (fun s m t h => ?_) hg hr fun s1 h1 => ?_
    · obtain rfl := Except.ok.inj h
      exact State.putPred_only ..
    · obtain ⟨hvm, ham⟩ := hv s1 m h1.wgrp
      rw [← hvm, ← ham]
      exact ⟨_, rfl, fun hr ht => State.putPred_took _ _ _ _ _ hr ht⟩

/-- The seats of a word that reads no operand. -/
def State.bare (s : State) (c : Cur) (i : Instr) : List (Seat Unit) := (s.doers c i).map (s.seat c fun _ => ())

theorem bare_eq (s : State) (c : Cur) (i : Instr) : ((s.doers c i).map (s.placed c)).map (fun x => (x.1, x.2, ())) = s.bare c i := by
  rw [List.map_map]
  rfl

/-- R291: what ALL and ANY give a set of seats. -/
def votePreds (all : Bool) (ps : Nat) (l : List (Seat Unit)) : Bool :=
  if all then l.all (fun y => y.2.1.ps.getLsbD ps) else l.any (fun y => y.2.1.ps.getLsbD ps)

theorem doVoteP_eq_lanes {all : Bool} {o : OpVoteP} :
    doVoteP all o s1 c ((s.doers c i).map (s.placed c)) =
      lanes c (voteLane c o.pd.toNat (fun t m => votePreds all o.ps.toNat (coIssue t m (s.bare c i))) fun _ _ => 0)
        ((s.doers c i).map (s.placed c)) s1 := by
  unfold voteLane
  rw [doVoteP, bare_eq, State.bare, putAll_seats]
  simp only [votePreds, List.all_map, List.any_map]
  rfl

/-- R291: what ALL and ANY give a thread's co-issue set. -/
theorem votePreds_seats (hw : ∀ w, t.wgrp w = s.wgrp w) (all : Bool) (ps : Nat) (m : Member) :
    votePreds all ps (coIssue t m (s.bare c i)) =
      if all then (s.setOf c i m).all (fun q => q.ps.getLsbD ps) else (s.setOf c i m).any (fun q => q.ps.getLsbD ps) := by
  rw [State.bare, coIssue_seats hw, votePreds, List.all_map, List.any_map]
  rfl

/-- What ALL and ANY give and make due. -/
theorem doVoteP_spec (all : Bool) (o : OpVoteP) (hs : Issuing s c) (hi : i.signs = false) :
    (∀ a ∈ (perGroup i.kind i.header i.opns (doVoteP all o) s).landing c.core, a ∈ s.landing c.core ∨ ∃ w k j b, a = .pred w k j b) ∧
    ∀ m ∈ s.doers c i, TookPred s (perGroup i.kind i.header i.opns (doVoteP all o) s) c m o.pd.toNat
      (if all then (s.setOf c i m).all (fun q => q.ps.getLsbD o.ps.toNat) else (s.setOf c i m).any (fun q => q.ps.getLsbD o.ps.toNat))
      (readyAt c.core s.clk 4) := by
  rw [perGroup_eq_perLane hs hi fun _ _ => doVoteP_eq_lanes]
  obtain ⟨hlands, htook⟩ := voteLane_spec (pd := o.pd.toNat) (v := fun t m => votePreds all o.ps.toNat (coIssue t m (s.bare c i)))
    (after := fun _ _ => 0) hs hi fun t m hw => ⟨by rw [votePreds_seats hw, votePreds_seats fun _ => rfl], rfl⟩
  refine ⟨hlands, fun m hm => ?_⟩
  rw [← votePreds_seats (t := s) fun _ => rfl]
  simpa only [Nat.max_zero] using htook m hm

/-- The seats of a word that reads operand A. -/
def State.readers (s : State) (c : Cur) (i : Instr) (a : BitVec 7) : List (Seat Src) := (s.doers c i).map (s.seat c fun m => s.operand m a)

/-- The CLK from which the sources of a thread's co-issue set are there. -/
theorem readyAll_seats (hw : ∀ w, t.wgrp w = s.wgrp w) (a : BitVec 7) (m : Member) :
    readyAll (coIssue t m (s.readers c i a)) = s.setRdy (s.setOf c i m) a := by
  rw [State.readers, coIssue_seats hw, readyAll, List.foldl_map]
  exact (foldl_max_rdy ..).trans (Nat.max_zero _)

/-- R291: whether the values of a set are one. -/
def voteSame (w : Word) (l : List (Seat Src)) : Bool := l.all (fun y => y.2.2.v == w)

theorem voteSame_seats (hw : ∀ w, t.wgrp w = s.wgrp w) (a : BitVec 7) (w : Word) (m : Member) :
    voteSame w (coIssue t m (s.readers c i a)) = (s.setOf c i m).all (fun q => s.val q a == w) := by
  rw [State.readers, coIssue_seats hw, voteSame, List.all_map]
  rfl

theorem doVoteEq_eq_lanes {o : OpVoteE} (hl : ∀ m ∈ s.doers c i, LanesOnly c (fun x => x ≠ m.key) s s1) (ha : s.allPlain c i o.a) :
    doVoteEq o s1 c ((s.doers c i).map (s.placed c)) =
      lanes c (voteLane c o.pd.toNat (fun t m => voteSame (s.val m o.a) (coIssue t m (s.readers c i o.a)))
        fun t m => readyAll (coIssue t m (s.readers c i o.a))) ((s.doers c i).map (s.placed c)) s1 := by
  unfold voteLane
  rw [doVoteEq, readA, readAll_seats (fun m => s.operand m o.a) _ fun m hm => (hl m hm).src (ha m hm)]
  exact putAll_seats ..

/-- What EQ gives and makes due where every thread can read its operand. -/
theorem doVoteEq_spec (o : OpVoteE) (hs : Issuing s c) (hi : i.signs = false) (ha : s.allPlain c i o.a) :
    (∀ a ∈ (perGroup i.kind i.header i.opns (doVoteEq o) s).landing c.core, a ∈ s.landing c.core ∨ ∃ w k j b, a = .pred w k j b) ∧
    ∀ m ∈ s.doers c i, TookPred s (perGroup i.kind i.header i.opns (doVoteEq o) s) c m o.pd.toNat
      ((s.setOf c i m).all (fun q => s.val q o.a == s.val m o.a)) (readyAt c.core (max s.clk (s.setRdy (s.setOf c i m) o.a)) 4) := by
  rw [perGroup_eq_perLane hs hi fun _ h1 => doVoteEq_eq_lanes h1 ha]
  obtain ⟨hlands, htook⟩ := voteLane_spec (pd := o.pd.toNat) (v := fun t m => voteSame (s.val m o.a) (coIssue t m (s.readers c i o.a)))
    (after := fun t m => readyAll (coIssue t m (s.readers c i o.a))) hs hi fun t m hw =>
      ⟨by rw [voteSame_seats hw, voteSame_seats fun _ => rfl], by rw [readyAll_seats hw, readyAll_seats fun _ => rfl]⟩
  refine ⟨hlands, fun m hm => ?_⟩
  rw [← voteSame_seats (t := s) fun _ => rfl, ← readyAll_seats (t := s) fun _ => rfl]
  exact htook m hm

/-! ## The ballot -/

/-- The mask of home lanes has the bit of each seat whose predicate is true. -/
theorem ballotMask_getLsbD (ps : Nat) (l : List (Seat Unit)) {k : Nat} (hk : k < 64) :
    (ballotMask ps l).getLsbD k = l.any (fun y => y.2.1.lane == k && y.2.1.ps.getLsbD ps) := by
  have hfold : ∀ x : BitVec 64, (l.foldl (fun m y => if y.2.1.ps.getLsbD ps then m ||| (1#64 <<< y.2.1.lane) else m) x).getLsbD k =
      (x.getLsbD k || l.any (fun y => y.2.1.lane == k && y.2.1.ps.getLsbD ps)) := by
    induction l with
    | nil => simp
    | cons y r ih =>
      intro x
      rw [List.foldl_cons, ih, List.any_cons]
      by_cases hp : y.2.1.ps.getLsbD ps = true
      · have hbit : (1#64 <<< y.2.1.lane).getLsbD k = (y.2.1.lane == k) := by
          rw [BitVec.getLsbD_shiftLeft, BitVec.getLsbD_one, Bool.eq_iff_iff]
          simp only [Bool.and_eq_true, Bool.not_eq_true', decide_eq_true_eq, decide_eq_false_iff_not, beq_iff_eq]
          omega
        rw [if_pos hp, BitVec.getLsbD_or, hbit, hp, Bool.and_true, Bool.or_assoc]
      · simp [hp]
  rw [ballotMask, hfold, BitVec.getLsbD_zero, Bool.false_or]

/-- The lane of a ballot that the threads of `s` execute. -/
def ballotLane (o : OpVoteB) (i : Instr) (s : State) (c : Cur) : State → Cur → Member → Lane State := fun t _ m =>
  t.result64 c m false o.d (ballotMask o.ps.toNat (coIssue t m (s.bare c i))) 4 0 0

theorem doBallot_eq_lanes {o : OpVoteB} :
    doBallot o s1 c ((s.doers c i).map (s.placed c)) = lanes c (ballotLane o i s c) ((s.doers c i).map (s.placed c)) s1 := by
  rw [doBallot, bare_eq]
  exact putAll_seats ..

theorem ballotLane_writes {o : OpVoteB} : Writes c (ballotLane o i s c) := result64_writes ..

/-- What a thread takes that executes a ballot. -/
theorem ballot_took {o : OpVoteB} (hs : Issuing s c) (hi : i.signs = false) (hm : m ∈ s.doers c i) :
    TookPair s (perLane i.kind i.header i.opns (ballotLane o i s c) s) m false o.d.toNat
      (ballotMask o.ps.toNat ((s.setOf c i m).map (s.seat c fun _ => ()))) (readyAt c.core s.clk 4) := by
  obtain ⟨hg, hr⟩ := doers_runs hi hm
  refine perLane_tookPair (r := fun clk => readyAt c.core clk 4) hs ballotLane_writes.only hg hr fun s1 h1 => ?_
  obtain ⟨u, hu, -, -, htook⟩ := State.result64_spec (s := s1) (c := c) (m := m) false o.d
    (ballotMask o.ps.toNat ((s.setOf c i m).map (s.seat c fun _ => ()))) 4 0 0
  rw [Nat.max_zero] at htook
  exact ⟨u, by rw [ballotLane, State.bare, coIssue_seats h1.wgrp, hu], htook⟩

namespace CrossLane

/-- Settles O10: each vote is the word whose lanes each take the vote of their set. -/
theorem votes : Obligations.Votes := by
  unfold Obligations.Votes
  refine ⟨fun h o s c hs => ⟨_, rfl, doVoteP_spec (i := .voteAll h o) true o hs rfl⟩,
    fun h o s c hs => ⟨_, rfl, doVoteP_spec (i := .voteAny h o) false o hs rfl⟩, fun h o s c hs => ?_,
    fun h o s c hs ha => ⟨_, rfl, doVoteEq_spec (i := .voteEq h o) o hs rfl ha⟩⟩
  refine ⟨_, congrArg Host.Outcome.next (perGroup_eq_perLane (i := .voteBallot h o) hs rfl fun _ _ => doBallot_eq_lanes),
    perLane_landing_eq hs fun _ => ballotLane_writes, fun m hm => ⟨_, fun k hk => ?_, ballot_took hs rfl hm⟩⟩
  rw [ballotMask_getLsbD _ _ hk, List.any_map]
  rfl

end CrossLane

end Sys2Proof.Machine
end
